-- ==== Sys2Proof/Word.lean ====
section
/-! DEFINITION. The word types of the S4: bytes, 32-, 64- and 128-bit words, all little-endian in memory (R7). -/
namespace Sys2Proof

/-- One byte. -/
abbrev Byte := BitVec 8
/-- A 32-bit word. -/
abbrev Word32 := BitVec 32
/-- A 64-bit word: a general register (R179), a control-space register (R424), an instruction (R213). -/
abbrev Word := BitVec 64
/-- A 48-bit device address (R192). -/
abbrev Addr48 := BitVec 48
/-- An IP address, IPv4 in the form ::ffff:a.b.c.d (R421). -/
abbrev IpAddr := BitVec 128
/-- An Ethernet MAC address. -/
abbrev MacAddr := BitVec 48
/-- A core number, C000 to C383 (R13). -/
abbrev CoreId := Fin 384
/-- A Base Camp slice number (R274). -/
abbrev SliceId := Fin 32
/-- An HBM stack number (R294). -/
abbrev StackId := Fin 12
/-- A Meloend port number M0 to M15 (R326). -/
abbrev MPort := Fin 16
/-- A host port number H0 to H7 (R392). -/
abbrev HPort := Fin 8
/-- A laser module number LM0 to LM11 (R14). -/
abbrev LaserId := Fin 12

end Sys2Proof
end

