-- ==== Sys2Proof/Syntax.lean ====
section
/-! DEFINITION. The commands of the S4: one constructor of `Instr` for each row of the table of operations and
events, with the operands that the row's rule gives it. A Gybel instruction carries bits [52:0] of the word of R213
(PSEL, PNEG, SIG, SSEM and the 43 class bits); MAJOR and MINOR are the constructor. An event carries what comes from
outside the module or is left free by the manual: a message, a peer's packet, a reading, a failed unit, a choice. -/
namespace Sys2Proof

/-- Bits [52:0] of a Gybel instruction word (R213). -/
abbrev GWord := BitVec 53

/-- The six unit queues of a core (R182), numbered as the QUEUE field of `sync.qwait` (R232). -/
inductive QueueId where
  | mac | acc | vec | qnt | dma | coll
deriving DecidableEq, Repr

/-- Where a wait that passes WAIT_LIMIT stands (R190): the scalar unit, or the head of a queue. -/
inductive WaitPlace where
  | scalar
  | queue (q : QueueId)
deriving DecidableEq, Repr

/-- The locally clocked islands of R21. -/
inductive Island where
  | core (c : CoreId)
  | slice (k : SliceId)
  | stack (k : StackId)
  | mport (p : MPort)
  | hostBlock
  | guide
deriving DecidableEq, Repr

/-- What a check met while an operation ran: the physical world's share of R151, R288 to R290 and R301.
`n` is how many consecutive times the check failed. -/
inductive FaultObs where
  | residue (n : Nat)                        -- R151: residue mismatches of the array or accumulator
  | arriveCore (n : Nat)                     -- R289: a good word arrives bad at the core
  | arriveSlice (k : SliceId) (n : Nat)      -- R289: a good word arrives bad at slice k
  | storedSlice (a : Addr48) (n : Nat)       -- R289: a word stored in a slice reads bad
  | storedLedge (off : BitVec 22) (n : Nat)  -- R289: a word stored in the ledge reads bad
  | hbmCorrected (a : Addr48)                -- R301: severity "corrected"
  | hbmUncorrected (a : Addr48) (n : Nat)    -- R301: severity "uncorrected", n reads in a row
deriving DecidableEq, Repr

/-- A background spill addition that finishes: its core, what its checks met, and the core to which an escalation moves the work. -/
structure SpillDone where
  core : CoreId
  obs  : List FaultObs
  repl : Option CoreId
deriving DecidableEq, Repr

/-- A command named by session, queue and sequence number (R283). -/
structure CmdKey where
  session : BitVec 32
  queue   : BitVec 16
  seq     : BitVec 48
deriving DecidableEq, Repr

/-- The SecTAG of a protected frame, and whether its ICV holds under the association's key (R394). -/
structure SecTag where
  sci : BitVec 64
  pn  : BitVec 64
  icv : Bool
deriving DecidableEq, Repr

/-- What a frame of a host port carries around its Eloator message (R393, R394, R396): FEC codewords that could not be corrected,
whether the FCS holds, the 802.1Q tag (VID 0: untagged), IP version, DSCP, Don't Fragment, the S4's UDP port and the SecTAG. -/
structure Frame where
  fec  : Nat
  fcs  : Bool
  vid  : BitVec 12
  pcp  : BitVec 3
  v4   : Bool
  dscp : BitVec 6
  df   : Bool
  udp  : BitVec 16
  sec  : Option SecTag
deriving DecidableEq, Repr

/-- The header of an Eloator message (R397) with the port, source and frame it arrived in. -/
structure MsgHdr where
  port    : HPort
  srcIp   : IpAddr
  srcPort : BitVec 16
  srcMac  : MacAddr
  ver     : BitVec 8
  flags   : BitVec 16
  session : BitVec 32
  queue   : BitVec 16
  seq     : BitVec 48
  job     : BitVec 16
  rsvd    : BitVec 16
  length  : BitVec 32
  eseq    : BitVec 64
  frame   : Frame
deriving DecidableEq, Repr

/-- The body of a HELLO (R400). -/
structure HelloBody where
  vmin     : BitVec 8
  vmax     : BitVec 8
  isaMax   : BitVec 8
  nq       : BitVec 8
  maxdata  : BitVec 16
  rsvd6    : BitVec 16
  features : BitVec 64
  rsession : BitVec 32
  rsvd20   : BitVec 32
  token    : BitVec 64
deriving DecidableEq, Repr

/-- One dependency of a command (R406). -/
structure Dep where
  session : BitVec 32
  queue   : BitVec 16
  seq     : BitVec 48
deriving DecidableEq, Repr

/-- One capacity declaration of a command (R406). -/
structure CapDecl where
  capId : BitVec 16
  rsvd  : BitVec 16
  value : BitVec 32
deriving DecidableEq, Repr

/-- The body of a CMD after CMD_OP (R406). -/
structure CmdBody where
  cflags    : BitVec 8
  ndep      : BitVec 8
  ncap      : BitVec 8
  rsvd4     : BitVec 16
  expectVer : BitVec 48
  rsvd12    : BitVec 32
  imageId   : BitVec 64
  arg1      : BitVec 64
  arg2      : BitVec 64
  rsvd40    : BitVec 192
  deps      : List Dep
  caps      : List CapDecl
deriving DecidableEq, Repr

/-- The ENCAP object of R499 with the transcript's parts. -/
structure EncapObj where
  ct     : List Byte
  role   : BitVec 8
  rsvd   : BitVec 24
  opkey  : List Byte
  opsig  : List Byte
  /-- the report the host used: its nonce -/
  nonce  : BitVec 256
deriving DecidableEq, Repr

/-- The LINK_SECRET object of R503. -/
structure LinkSecretObj where
  len   : Nat
  port  : BitVec 8
  rsvd1 : BitVec 8
  devid : BitVec 16
  gen   : BitVec 32
  nonce : BitVec 96
  wrap  : BitVec 256
  tag   : BitVec 128
  rsvd2 : BitVec 96
deriving DecidableEq, Repr

/-- The header of a Meloend flit (R331). -/
structure FlitHdr where
  ftype : BitVec 4
  vc    : BitVec 2
  sop   : Bool
  eop   : Bool
  lseq  : BitVec 14
  aack  : BitVec 14
  cvc   : BitVec 2
  ccnt  : BitVec 6
  dst   : BitVec 15
  job   : BitVec 16
  dir   : BitVec 2
  xpd   : Bool
  uturn : Bool
  vlen  : BitVec 8
  hops  : BitVec 6
  rsvd  : BitVec 3
deriving DecidableEq, Repr

/-- The flit that completes a command of a link, as it arrives: its header, the headers of the flits of unfinished COLL packets
that arrived since the link's last command, oldest first (those of its own packet among them), and how many seal groups end in
these flits on a link that encrypts (R342). -/
structure RxFlit extends FlitHdr where
  before : List FlitHdr
  seals  : Nat
deriving DecidableEq, Repr

/-- What makes a flit errored (R338): an uncorrectable codeword (R327), 272 bytes with the FCRC they carry (R333), or a seal group
with its ciphertext and tag (R342). -/
inductive FlitError where
  | codeword
  | flit (bytes : List Byte)
  | sealed (cipher tag : List Byte)
deriving DecidableEq, Repr

/-- What an errored flit's command brings: the headers of the flits of unfinished COLL packets that arrived before it, as in `RxFlit`,
and what makes it errored. -/
structure FlitFault where
  before : List FlitHdr
  error  : FlitError
deriving DecidableEq, Repr

/-- The content of an LCTL payload after LTYPE (R335); `other` is a payload of 256 bytes that has none of these layouts: a reserved
LTYPE, or a bit set that is unused. -/
inductive Lctl where
  | linkHello (vmin vmax : BitVec 8) (devid : BitVec 15) (port : BitVec 4) (axis : BitVec 3) (role : BitVec 2)
      (widx : BitVec 3) (encReq sealedBit : Bool)
  | keyMsg (gen : BitVec 32) (nonce : BitVec 256) (tag : BitVec 256)
  | keyUpdate (ctr : BitVec 64)
  | ringState (axis : BitVec 8) (origin : BitVec 15) (rseq : BitVec 16) (links : BitVec 3)
  | credit
  | echo (token : BitVec 64)
  | echoReply (token : BitVec 64)
  | wState (origin : BitVec 15) (rseq : BitVec 16) (links : BitVec 7)
  | other (payload : List Byte)
deriving DecidableEq, Repr

/-- A flit that arrives with its LCTL payload. -/
structure RxLctl extends RxFlit where
  body : Lctl
deriving DecidableEq, Repr

/-- The collective header of a COLL packet (R364); `data` is what follows it. -/
structure CollHdr where
  ptype   : BitVec 8
  dtype   : BitVec 4
  attempt : BitVec 4
  group   : BitVec 16
  seq     : BitVec 32
  dhash   : BitVec 32
  srcRank : BitVec 16
  origin  : BitVec 16
  pidx    : BitVec 32
  offset  : BitVec 40
  nunits  : BitVec 16
  wflags  : BitVec 8
  blame   : BitVec 16
  satcnt  : BitVec 16
deriving DecidableEq, Repr

/-- The body of a COLL packet (R365). -/
inductive CollBody where
  | open (listCrc : BitVec 32)
  | data (bytes : List Byte)
  | ready
  | commit
  | finish (status : BitVec 16) (rank : BitVec 32)     -- END
  | report (kind : BitVec 8) (rank : BitVec 32)
  | retry
  | probe
  | probeReply (st : BitVec 8) (nextSeq : BitVec 32) (dhash : BitVec 32)
  | length (units dropped : BitVec 32)
deriving DecidableEq, Repr

/-- A COLL packet as it moves over a link: route fields of its flits, collective header and body. -/
structure CollPkt where
  dst   : BitVec 15
  job   : BitVec 16
  vc    : BitVec 2
  dir   : BitVec 2
  xpd   : Bool
  uturn : Bool
  hops  : BitVec 6
  hdr   : CollHdr
  body  : CollBody
deriving DecidableEq, Repr

/-- Reasons for which a Meloend or host port goes DOWN (R356, R421). -/
inductive DownReason where
  | none | disabled | noLight | lockOrFec | ber | version | miswired | key | retryLimit | protocol | laserRemoved | reach
deriving DecidableEq, Repr

/-- One activity count of R442: an island, an event kind of the table (numbered in its order) and how often. -/
structure ActCount where
  island : Island
  event  : Nat
  count  : Nat
deriving DecidableEq, Repr

/-- What the Guide reads at a 2 µs tick (R442, R449): counts, the fraction of the interval each class was limited, and the
demand of each (job, phase) pair that runs (R451). Powers are exact watts. -/
structure EstReading where
  counts  : List ActCount
  temps   : List (Island × Int)
  limMem  : Rat
  limVec  : Rat
  limArr  : Rat
deriving DecidableEq, Repr

/-- One input reading of R444: power in mW, current in mA and voltage of the preceding 50 µs, with the dynamic energy in µJ that the
slices, stacks, ports and stations spent on each job (R456: the job of the requester or of the flits). -/
structure PwrReading where
  present : Bool
  powerMw : Nat
  currMa  : Int
  vin20mv : BitVec 12
  shares  : List (BitVec 16 × Nat)
deriving DecidableEq, Repr

/-- The unit a test or a returned result concerns (R470). -/
inductive UnitRef where
  | core (c : CoreId)
  | slice (k : SliceId)
  | stack (k : StackId)
  | guide (g : Fin 2)
  | mport (p : MPort)
  | hport (p : HPort)
  | laser (k : LaserId)
  | firmware
  | summitBook
deriving DecidableEq, Repr

/-- The result of one program at one stress point of a probe run (R472, R475). -/
structure ProbeProg where
  halt      : BitVec 16
  sigs      : List (BitVec 32)
  flags     : List (BitVec 16)
  escalated : Bool
deriving DecidableEq, Repr

/-- One command of the S4: a row of the table of operations and events. -/
inductive Instr where
  -- Gybel: ctl (R217)
  | ctlNop (c : CoreId) (w : GWord)
  | ctlHalt (c : CoreId) (w : GWord)
  | ctlPhase (c : CoreId) (w : GWord)
  | ctlTrap (c : CoreId) (w : GWord)
  -- Gybel: alu (R219, R220)
  | aluAdd (c : CoreId) (w : GWord)
  | aluSub (c : CoreId) (w : GWord)
  | aluAnd (c : CoreId) (w : GWord)
  | aluOr (c : CoreId) (w : GWord)
  | aluXor (c : CoreId) (w : GWord)
  | aluShl (c : CoreId) (w : GWord)
  | aluShr (c : CoreId) (w : GWord)
  | aluSra (c : CoreId) (w : GWord)
  | aluMul (c : CoreId) (w : GWord)
  | aluMulh (c : CoreId) (w : GWord)
  | aluMulhu (c : CoreId) (w : GWord)
  | aluMin (c : CoreId) (w : GWord)
  | aluMax (c : CoreId) (w : GWord)
  | aluMinu (c : CoreId) (w : GWord)
  | aluMaxu (c : CoreId) (w : GWord)
  | aluLi (c : CoreId) (w : GWord)
  | aluCmpEq (c : CoreId) (w : GWord)
  | aluCmpNe (c : CoreId) (w : GWord)
  | aluCmpLt (c : CoreId) (w : GWord)
  | aluCmpGe (c : CoreId) (w : GWord)
  | aluCmpLtu (c : CoreId) (w : GWord)
  | aluCmpGeu (c : CoreId) (w : GWord)
  | aluPand (c : CoreId) (w : GWord)
  | aluPor (c : CoreId) (w : GWord)
  | aluPxor (c : CoreId) (w : GWord)
  | aluPandn (c : CoreId) (w : GWord)
  | aluClz (c : CoreId) (w : GWord)
  | aluPopc (c : CoreId) (w : GWord)
  | aluMfsr (c : CoreId) (w : GWord)
  | aluMtsr (c : CoreId) (w : GWord)
  -- Gybel: br (R223)
  | brRel (c : CoreId) (w : GWord)
  | brReg (c : CoreId) (w : GWord)
  | brCall (c : CoreId) (w : GWord)
  | brCallr (c : CoreId) (w : GWord)
  | brDec (c : CoreId) (w : GWord)
  -- Gybel: mem (R225, R226); a load also says how often its parity check failed and which core takes over by R212
  | memLd (c : CoreId) (w : GWord) (obs : List FaultObs) (repl : Option CoreId)
  | memLds (c : CoreId) (w : GWord) (obs : List FaultObs) (repl : Option CoreId)
  | memSt (c : CoreId) (w : GWord)
  | memDld (c : CoreId) (w : GWord)
  | memDst (c : CoreId) (w : GWord)
  | memDwr (c : CoreId) (w : GWord)
  | memDrd (c : CoreId) (w : GWord)
  | memDadd (c : CoreId) (w : GWord)
  -- Gybel: dma (R228, R229)
  | dmaCopy (c : CoreId) (w : GWord)
  | dmaCopy2d (c : CoreId) (w : GWord)
  | dmaFill (c : CoreId) (w : GWord)
  -- Gybel: sync (R232, R233)
  | syncWait (c : CoreId) (w : GWord)
  | syncQwait (c : CoreId) (w : GWord)
  | syncSset (c : CoreId) (w : GWord)
  | syncFence (c : CoreId) (w : GWord)
  | syncMwait (c : CoreId) (w : GWord)
  | syncRpoint (c : CoreId) (w : GWord)
  | syncSinc (c : CoreId) (w : GWord)
  -- Gybel: chk (R235, R236)
  | chkInject (c : CoreId) (w : GWord)
  | chkSig (c : CoreId) (w : GWord)
  | chkProbe (c : CoreId) (w : GWord)
  -- Gybel: mac, acc, vec, qnt, coll (R238)
  | macWload (c : CoreId) (w : GWord)
  | macStep (c : CoreId) (w : GWord)
  | accPreload (c : CoreId) (w : GWord)
  | accSadd (c : CoreId) (w : GWord)
  | accSpill (c : CoreId) (w : GWord)
  | accDrain (c : CoreId) (w : GWord)
  | accFree (c : CoreId) (w : GWord)
  | vecChain (c : CoreId) (w : GWord)
  | qntEncode (c : CoreId) (w : GWord)
  | qntCbload (c : CoreId) (w : GWord)
  | qntAdapt (c : CoreId) (w : GWord)
  | qntSdump (c : CoreId) (w : GWord)
  | collSend (c : CoreId) (w : GWord)
  | collRecv (c : CoreId) (w : GWord)
  | collXchg (c : CoreId) (w : GWord)
  -- the queues and waits of a core
  | queueStart (c : CoreId) (q : QueueId)
  | queueComplete (c : CoreId) (q : QueueId) (k : Nat) (obs : List FaultObs) (repl : Option CoreId)
  | qwaitConsume (c : CoreId) (q : QueueId)
  | syncWaitRelease (c : CoreId)
  | ssetApply (c : CoreId)
  | fenceRelease (c : CoreId)
  | mwaitRelease (c : CoreId)
  | rpointRecorded (c : CoreId)
  | waitLimitExpiry (c : CoreId) (p : WaitPlace)
  | trapHandlerEntry (c : CoreId)
  | spillBackgroundDone (d : SpillDone)
  -- host transport
  | hello (h : MsgHdr) (b : HelloBody) (newId : BitVec 32)
  | cmdRun (h : MsgHdr) (b : CmdBody)
  | cmdInstall (h : MsgHdr) (b : CmdBody)
  | cmdPreempt (h : MsgHdr) (b : CmdBody)
  | cmdRelease (h : MsgHdr) (b : CmdBody)
  | journalWriteConfirm (k : CmdKey)
  | commandStart (k : CmdKey) (cores : List CoreId)
  | normWatchDecide (k : CmdKey)
  | adoptFlip (k : CmdKey)
  | dataWrite (h : MsgHdr) (addr : BitVec 64) (data : List Byte) (obs : List FaultObs)
  | dataRead (h : MsgHdr) (addr : BitVec 64) (len : BitVec 32) (rsvd : BitVec 32) (obs : List FaultObs)
  | eventAck (h : MsgHdr)
  | eventResendTimer (session : BitVec 32)
  | regRead (h : MsgHdr) (addr : BitVec 64) (nwords : BitVec 16) (rsvd : BitVec 48) (snap : BitVec 64)
  | regWrite (h : MsgHdr) (addr : BitVec 64) (nwords : BitVec 16) (rsvd : BitVec 48) (vals : List (Word × Word))
  | txnBegin (h : MsgHdr) (rsvd : BitVec 56) (txnId : BitVec 64)
  | txnCommit (h : MsgHdr) (rsvd : BitVec 56) (txnId : BitVec 64)
  | txnAbort (h : MsgHdr) (rsvd : BitVec 56) (txnId : BitVec 64)
  | txnIdleTimeout (session : BitVec 32)
  | islandPrepared (i : Island) (refuse : Option (BitVec 16))
  | prepareTimeout (i : Island)
  | islandApplied (i : Island)
  | applyTimeout (i : Island)
  | attestReport (h : MsgHdr) (nonce : Option (BitVec 256)) (part : BitVec 8)
  | attestEncap (h : MsgHdr) (o : EncapObj)
  | attestLinkSecret (h : MsgHdr) (o : LinkSecretObj)
  | hostBye (h : MsgHdr)
  | mkaFrame (port : HPort) (mac : MacAddr) (ckn : BitVec 128) (body : List Byte)
  | sakRekeyTimer (port : HPort) (mac : MacAddr)
  | arpRequest (port : HPort) (senderMac : MacAddr) (senderIp targetIp : IpAddr)
  | icmpEchoRequest (port : HPort) (srcIp dstIp : IpAddr) (payload : List Byte)
  | neighbourSolicitation (port : HPort) (srcMac : MacAddr) (srcIp targetIp : IpAddr)
  | hostPortDown (port : HPort) (reason : DownReason)
  -- laser modules
  | lmRemoveReq (h : MsgHdr) (k : LaserId)
  | mlkDrainComplete (k : LaserId)
  | hostDrainComplete (k : LaserId)
  | lmInserted (k : LaserId) (serial : BitVec 32)
  | lmPulled (k : LaserId)
  -- control-space actions
  | eloSessClose (h : MsgHdr) (slot : Fin 1024)
  | avClear (h : MsgHdr)
  | relRelease (h : MsgHdr) (core : BitVec 9)
  | psInstall (h : MsgHdr)
  | psActivate (h : MsgHdr)
  | psRollback (h : MsgHdr)
  | psActionDone
  | testSlice (h : MsgHdr) (n : BitVec 6)
  | testStack (h : MsgHdr) (n : BitVec 4)
  | unitTestDone (u : UnitRef) (pass : Bool)
  | sealUnits (h : MsgHdr)
  | fwInstall (h : MsgHdr)
  | fwActivate (h : MsgHdr)
  | svnCommit (h : MsgHdr)
  | fwActionDone
  | rtLoad (h : MsgHdr) (slot : Fin 8)
  | rtDecrypt (h : MsgHdr) (slot : Fin 8)
  | rtEncrypt (h : MsgHdr) (slot : Fin 8)
  | rtDrop (h : MsgHdr) (slot : Fin 8)
  | rtActionDone
  | anchorClear (h : MsgHdr)
  | warmReset (h : MsgHdr)
  | coldReset (h : MsgHdr)
  -- resets and failing units
  | modResetNAssert
  | watchdogExpiry
  | coreHandshakeFail (c : CoreId) (repl : Option CoreId)
  | sliceHandshakeFail (k : SliceId)
  | remirrorDone
  | stackHandshakeFail (k : StackId)
  | spareRestoreDone (r : Fin 256)
  | ecsReadTick (k : StackId) (count : Nat)
  | hbmTempTick (k : StackId) (tempC : BitVec 8) (hot : Bool)
  -- Meloend links
  | linkHello (p : MPort) (f : RxFlit) (m : Lctl)
  | keyMsg (p : MPort) (f : RxFlit) (m : Lctl)
  | keyUpdate (p : MPort) (f : RxFlit) (m : Lctl)
  | ringState (p : MPort) (f : RxFlit) (m : Lctl)
  | wState (p : MPort) (f : RxFlit) (m : Lctl)
  | credit (p : MPort) (f : RxLctl)
  | echo (p : MPort) (f : RxFlit) (m : Lctl)
  | echoReply (p : MPort) (f : RxFlit) (m : Lctl) (rttNs : Nat)
  | nak (p : MPort) (f : FlitHdr)
  | idleFlit (p : MPort) (f : FlitHdr)
  | flitErrored (p : MPort) (e : FlitFault)
  | retryTmo (p : MPort)
  | creditReturnTimer (p : MPort)
  | portLossOfLight (p : MPort) (light : Bool)
  | berInterval (p : MPort) (errors bits : Nat)
  | trainingRetry (p : MPort)
  | collPacketForward (p : MPort) (f : RxFlit) (k : CollPkt)
  -- collectives
  | collOpen (p : MPort) (f : RxFlit) (k : CollPkt) (waitNs : Nat)
  | collData (p : MPort) (f : RxFlit) (k : CollPkt) (waitNs : Nat)
  | collReady (p : MPort) (f : RxFlit) (k : CollPkt) (waitNs : Nat)
  | collReadyConditions (group : BitVec 16) (job : BitVec 16) (seq : BitVec 32)
  | collCommit (p : MPort) (f : RxFlit) (k : CollPkt) (waitNs : Nat)
  | collEnd (p : MPort) (f : RxFlit) (k : CollPkt) (waitNs : Nat)
  | collReport (p : MPort) (f : RxFlit) (k : CollPkt)
  | collRetry (p : MPort) (f : RxFlit) (k : CollPkt) (waitNs : Nat)
  | collProbe (p : MPort) (f : RxFlit) (k : CollPkt)
  | collProbeReply (p : MPort) (f : RxFlit) (k : CollPkt)
  | collLength (p : MPort) (f : RxFlit) (k : CollPkt) (waitNs : Nat)
  | collStallTimer (group : BitVec 16) (job : BitVec 16) (seq : BitVec 32) (rank : BitVec 16)
  -- power and temperature
  | estimateTick (r : EstReading)
  | measureSample (r : PwrReading)
  | calibrationTick (sumM sumLoad : Rat)
  | measAbsentTimeout
  | measFaultClear
  | estimatorUntrusted
  | estimatorTrusted
  | fallbackEnter
  | fallbackExit
  | islandDroop (i : Island) (cycles : Nat)
  | droopLimit (i : Island)
  | droopStepExpire (i : Island)
  | thermalSample (temps : List (Island × Int))
  | retreatStageA (vin20mv : BitVec 12)
  | retreatStageB (vin20mv : BitVec 12)
  | retreatLeaveB (vin20mv : BitVec 12)
  | retreatRecover (vin20mv : BitVec 12)
  | retreatStageC (vin20mv : BitVec 12)
  -- start-up, pins, Guide
  | modPwrEnAssert (failing : List UnitRef)
  | bootStepDeadline (failing : List UnitRef)
  | vinOvervoltage
  | vinOvervoltageClear
  | auxPowerPresent
  | auxPowerLost
  | guideLockstepMismatch
  | guideSelfTestDone (passA passB : Bool)
  | guideCoreFail
  -- probes, identity, summit book
  | probeRunStart (c : CoreId)
  | probePointDone (c : CoreId) (skipped : Bool) (res : List ProbeProg) (prev : List ProbeProg)
  | probeRunAbandon (c : CoreId)
  | hotWaitExpiry (c : CoreId)
  | escCntDecay (c : CoreId)
  | bottomTreeDone
  | summitBatch
  | summitCheckpoint
  -- management port
  | mgmtSetRead (addr : BitVec 64) (nwords : BitVec 8)
  | mgmtGetRead
  | mgmtReadReady
  -- remaining events
  | inputPowerLost
  | modPwrOkAssert (failing : List UnitRef)
  | modResetNDeassert
  | offHoldExpiry
  | laneLock (p : MPort) (errors bits : Nat)
  | hostPortUp (p : HPort)
  | laserModuleFault (k : LaserId)
  | linkKeyLimit (p : MPort)
  | checkpointComplete
  | probeOverdue (c : CoreId)
  | malformedDatagram (port : HPort)
deriving DecidableEq, Repr

end Sys2Proof
end

