-- ==== Sys2Proof/Decode.lean ====
section
/-! DEFINITION. `decodeTableWord` over the rows of the table that give bits: none does, so it answers none. Beside it, the
64-bit word of a Gybel instruction (08 R213, R215; 09 R238): MAJOR, MINOR and the 53 bits that the command carries. -/
namespace Sys2Proof

/-- The command a word of the table spells: no row of the table gives any bits. -/
def decodeTableWord (_nbits _w : Nat) : Option Instr := none

/-- The command "core c issues the instruction of this word"; none where MAJOR or MINOR is reserved. -/
def decodeGybel (c : CoreId) (x : Word) : Option Instr :=
  let w : GWord := x.extractLsb' 0 53
  match (x.extractLsb' 58 6).toNat, (x.extractLsb' 53 5).toNat with
  | 0, 0 => some (.ctlNop c w)
  | 0, 1 => some (.ctlHalt c w)
  | 0, 2 => some (.ctlPhase c w)
  | 0, 3 => some (.ctlTrap c w)
  | 1, 0 => some (.aluAdd c w)
  | 1, 1 => some (.aluSub c w)
  | 1, 2 => some (.aluAnd c w)
  | 1, 3 => some (.aluOr c w)
  | 1, 4 => some (.aluXor c w)
  | 1, 5 => some (.aluShl c w)
  | 1, 6 => some (.aluShr c w)
  | 1, 7 => some (.aluSra c w)
  | 1, 8 => some (.aluMul c w)
  | 1, 9 => some (.aluMulh c w)
  | 1, 10 => some (.aluMulhu c w)
  | 1, 11 => some (.aluMin c w)
  | 1, 12 => some (.aluMax c w)
  | 1, 13 => some (.aluMinu c w)
  | 1, 14 => some (.aluMaxu c w)
  | 1, 15 => some (.aluLi c w)
  | 1, 16 => some (.aluCmpEq c w)
  | 1, 17 => some (.aluCmpNe c w)
  | 1, 18 => some (.aluCmpLt c w)
  | 1, 19 => some (.aluCmpGe c w)
  | 1, 20 => some (.aluCmpLtu c w)
  | 1, 21 => some (.aluCmpGeu c w)
  | 1, 22 => some (.aluPand c w)
  | 1, 23 => some (.aluPor c w)
  | 1, 24 => some (.aluPxor c w)
  | 1, 25 => some (.aluPandn c w)
  | 1, 26 => some (.aluClz c w)
  | 1, 27 => some (.aluPopc c w)
  | 1, 28 => some (.aluMfsr c w)
  | 1, 29 => some (.aluMtsr c w)
  | 2, 0 => some (.brRel c w)
  | 2, 1 => some (.brReg c w)
  | 2, 2 => some (.brCall c w)
  | 2, 3 => some (.brCallr c w)
  | 2, 4 => some (.brDec c w)
  | 3, 0 => some (.memLd c w [] none)
  | 3, 1 => some (.memLds c w [] none)
  | 3, 2 => some (.memSt c w)
  | 3, 3 => some (.memDld c w)
  | 3, 4 => some (.memDst c w)
  | 3, 5 => some (.memDwr c w)
  | 3, 6 => some (.memDrd c w)
  | 3, 7 => some (.memDadd c w)
  | 4, 0 => some (.dmaCopy c w)
  | 4, 1 => some (.dmaCopy2d c w)
  | 4, 2 => some (.dmaFill c w)
  | 5, 0 => some (.syncWait c w)
  | 5, 1 => some (.syncQwait c w)
  | 5, 2 => some (.syncSset c w)
  | 5, 3 => some (.syncFence c w)
  | 5, 4 => some (.syncMwait c w)
  | 5, 5 => some (.syncRpoint c w)
  | 5, 6 => some (.syncSinc c w)
  | 8, 0 => some (.macWload c w)
  | 8, 1 => some (.macStep c w)
  | 9, 0 => some (.accPreload c w)
  | 9, 1 => some (.accSadd c w)
  | 9, 2 => some (.accSpill c w)
  | 9, 3 => some (.accDrain c w)
  | 9, 4 => some (.accFree c w)
  | 10, 0 => some (.vecChain c w)
  | 11, 0 => some (.qntEncode c w)
  | 11, 1 => some (.qntCbload c w)
  | 11, 2 => some (.qntAdapt c w)
  | 11, 3 => some (.qntSdump c w)
  | 12, 0 => some (.collSend c w)
  | 12, 1 => some (.collRecv c w)
  | 12, 2 => some (.collXchg c w)
  | 13, 0 => some (.chkInject c w)
  | 13, 1 => some (.chkSig c w)
  | 13, 2 => some (.chkProbe c w)
  | _, _ => none

/-- The command that a core's fetch of a word is. One with a reserved MAJOR or MINOR is an illegal instruction (R214, R215): no
row of the table carries it, and it is the `ctl.nop` with its reserved VAL set, which every core takes as the illegal-instruction
trap too (log 44). -/
def fetchCommand (c : CoreId) (x : Word) : Instr := (decodeGybel c x).getD (.ctlNop c 1)

/-- The 64-bit word with a MAJOR, a MINOR and the other 53 bits. -/
def gWord (major minor : Nat) (w : GWord) : Word := BitVec.ofNat 6 major ++ BitVec.ofNat 5 minor ++ w

/-- The word of a Gybel instruction; none for every other command. -/
def encodeGybel : Instr → Option Word
  | .ctlNop _ w => some (gWord 0 0 w)
  | .ctlHalt _ w => some (gWord 0 1 w)
  | .ctlPhase _ w => some (gWord 0 2 w)
  | .ctlTrap _ w => some (gWord 0 3 w)
  | .aluAdd _ w => some (gWord 1 0 w)
  | .aluSub _ w => some (gWord 1 1 w)
  | .aluAnd _ w => some (gWord 1 2 w)
  | .aluOr _ w => some (gWord 1 3 w)
  | .aluXor _ w => some (gWord 1 4 w)
  | .aluShl _ w => some (gWord 1 5 w)
  | .aluShr _ w => some (gWord 1 6 w)
  | .aluSra _ w => some (gWord 1 7 w)
  | .aluMul _ w => some (gWord 1 8 w)
  | .aluMulh _ w => some (gWord 1 9 w)
  | .aluMulhu _ w => some (gWord 1 10 w)
  | .aluMin _ w => some (gWord 1 11 w)
  | .aluMax _ w => some (gWord 1 12 w)
  | .aluMinu _ w => some (gWord 1 13 w)
  | .aluMaxu _ w => some (gWord 1 14 w)
  | .aluLi _ w => some (gWord 1 15 w)
  | .aluCmpEq _ w => some (gWord 1 16 w)
  | .aluCmpNe _ w => some (gWord 1 17 w)
  | .aluCmpLt _ w => some (gWord 1 18 w)
  | .aluCmpGe _ w => some (gWord 1 19 w)
  | .aluCmpLtu _ w => some (gWord 1 20 w)
  | .aluCmpGeu _ w => some (gWord 1 21 w)
  | .aluPand _ w => some (gWord 1 22 w)
  | .aluPor _ w => some (gWord 1 23 w)
  | .aluPxor _ w => some (gWord 1 24 w)
  | .aluPandn _ w => some (gWord 1 25 w)
  | .aluClz _ w => some (gWord 1 26 w)
  | .aluPopc _ w => some (gWord 1 27 w)
  | .aluMfsr _ w => some (gWord 1 28 w)
  | .aluMtsr _ w => some (gWord 1 29 w)
  | .brRel _ w => some (gWord 2 0 w)
  | .brReg _ w => some (gWord 2 1 w)
  | .brCall _ w => some (gWord 2 2 w)
  | .brCallr _ w => some (gWord 2 3 w)
  | .brDec _ w => some (gWord 2 4 w)
  | .memLd _ w _ _ => some (gWord 3 0 w)
  | .memLds _ w _ _ => some (gWord 3 1 w)
  | .memSt _ w => some (gWord 3 2 w)
  | .memDld _ w => some (gWord 3 3 w)
  | .memDst _ w => some (gWord 3 4 w)
  | .memDwr _ w => some (gWord 3 5 w)
  | .memDrd _ w => some (gWord 3 6 w)
  | .memDadd _ w => some (gWord 3 7 w)
  | .dmaCopy _ w => some (gWord 4 0 w)
  | .dmaCopy2d _ w => some (gWord 4 1 w)
  | .dmaFill _ w => some (gWord 4 2 w)
  | .syncWait _ w => some (gWord 5 0 w)
  | .syncQwait _ w => some (gWord 5 1 w)
  | .syncSset _ w => some (gWord 5 2 w)
  | .syncFence _ w => some (gWord 5 3 w)
  | .syncMwait _ w => some (gWord 5 4 w)
  | .syncRpoint _ w => some (gWord 5 5 w)
  | .syncSinc _ w => some (gWord 5 6 w)
  | .macWload _ w => some (gWord 8 0 w)
  | .macStep _ w => some (gWord 8 1 w)
  | .accPreload _ w => some (gWord 9 0 w)
  | .accSadd _ w => some (gWord 9 1 w)
  | .accSpill _ w => some (gWord 9 2 w)
  | .accDrain _ w => some (gWord 9 3 w)
  | .accFree _ w => some (gWord 9 4 w)
  | .vecChain _ w => some (gWord 10 0 w)
  | .qntEncode _ w => some (gWord 11 0 w)
  | .qntCbload _ w => some (gWord 11 1 w)
  | .qntAdapt _ w => some (gWord 11 2 w)
  | .qntSdump _ w => some (gWord 11 3 w)
  | .collSend _ w => some (gWord 12 0 w)
  | .collRecv _ w => some (gWord 12 1 w)
  | .collXchg _ w => some (gWord 12 2 w)
  | .chkInject _ w => some (gWord 13 0 w)
  | .chkSig _ w => some (gWord 13 1 w)
  | .chkProbe _ w => some (gWord 13 2 w)
  | _ => none

end Sys2Proof
end

