-- ==== Sys2Proof/Config.lean ====
section
/-! DEFINITION. What the manual leaves to the part or leaves open: constants without a body, so that no proof can see their
values. Fuse contents (log 9), secret keys and random numbers (log 8) and free values (log 16). -/
namespace Sys2Proof.Config

/-! ### Fuses (log 9) -/

/-- ID_SERIAL_LO and ID_SERIAL_HI (R439). -/
opaque serialLo : Word
opaque serialHi : Word
/-- ELO_PMACn (R421). -/
opaque portMac : HPort → MacAddr
/-- FUSE_SVN as manufactured, a thermometer code of 64 bits (R488). -/
opaque fuseSvn : BitVec 64
/-- The SEAL_AT_BOOT fuse (R505). -/
opaque sealAtBoot : Bool
/-- PWR_CAL.K as fused (R464). -/
opaque fusedK : BitVec 16
/-- Fused energy weight of an event kind on an island, in the units of R442, as an exact number of joules. -/
opaque weight : Island → Nat → Rat
/-- Fused leakage power of an island at a temperature (0.25 C) and a voltage offset (mV), in watts (R442). -/
opaque leakage : Island → Int → Int → Rat
/-- Fixed power of the Guide, security engine and management port, in watts (R442). -/
opaque fixedPower : Rat
/-- A share whose divisor is 0: the manual states no result (R443, R449, R451; log 16). -/
opaque openRatio : Rat
/-- CR_TEMP of a unit that no island holds, a laser module or the module itself, by kind, unit and uptime (R480; log 16). -/
opaque unitTemp : Nat → Nat → Nat → BitVec 16
/-- Serial numbers of the laser modules in their sockets at power-on (log 9). -/
opaque laserSerial : LaserId → BitVec 32
/-- TUG_FW_ROOT and TUG_PS_ROOT, and the public keys that the S4 is given to compare with them (R488). -/
opaque fwRoot : BitVec 256
opaque psRoot : BitVec 256
opaque fwRootKey : List Byte
opaque psRootKey : List Byte
/-- DEV_SEED (R488). -/
opaque devSeed : BitVec 256
/-- Tugeco's signature over the body of the device certificate (R493). -/
opaque certSignature : List Byte

/-! ### Images present at power-on (log 14) -/

/-- Firmware bytes in NOR flash slot A or B as manufactured. -/
opaque flashFirmware : Bool → List Byte
/-- Probe set bytes in slot A or B as manufactured. -/
opaque flashProbeSet : Bool → List Byte

/-! ### Secret keys and random numbers (log 8) -/

/-- Identifier and seed that a device seed gives a tree of the identity key: the top tree, or the bottom tree under one of its leaves
(R493). The secrets of the leaves follow from them by Appendix A of RFC 8554. -/
opaque idTree : BitVec 256 → Option Nat → BitVec 128 × BitVec 256
/-- The randomizer C of a signature: of a bottom tree's key by a top leaf, or by a leaf of it. -/
opaque idRandom : Nat → Option Nat → BitVec 256
/-- The random seeds d and z of the ML-KEM key pair of a key generation (R498). -/
opaque kemSeed : Nat → List Byte × List Byte
/-- Whether an MKA frame that authenticates is fresh: its member identifiers and message numbers are IEEE 802.1X-2020's. -/
opaque mkaFresh : List Byte → List Byte → Bool

/-! ### Free values (log 16) -/

/-- Temperature (bits 7 to 0) and optical output (bits 23 to 8) that a laser module reports at a Guide time (R356): no
command of the table carries these readings. -/
opaque laserReading : LaserId → Nat → BitVec 24
/-- A fresh free value, by the counter that the step advances. -/
opaque freeValue : Nat → BitVec 256
/-- The scale of a codebook slot that nothing has loaded: the manual states no result of encoding with it. -/
opaque unloadedScale : Rat
/-- The table extreme of a codebook slot that nothing has loaded. -/
opaque unloadedText : Rat

end Sys2Proof.Config
end

