-- ==== Sys2Proof/Machine/Num.lean ====
section
/-! DEFINITION. Number formats, rounding and flags (03): the floating-point formats of R58, exact values, the six
rounding rules of R76 and R79, the random bits of R80, the operations of R73 and R74 and the CRC-32C of R235. Every
operation computes an exact rational and rounds it once. A value is held as its bit pattern, a natural number. -/
namespace Sys2Proof.Machine

/-! ### Flags (R83) -/

/-- A set of sticky flags, laid out as the flag registers of R83. -/
abbrev Flags := BitVec 16

def fInvalid : Flags := 0x001
def fDivzero : Flags := 0x002
def fOverflow : Flags := 0x004
def fUnderflow : Flags := 0x008
def fInexact : Flags := 0x010
def fSat : Flags := 0x020
def fZblk : Flags := 0x040
def fLongsum : Flags := 0x080
def fPerm : Flags := 0x100
def fEmpty : Flags := 0x200
def fXrange : Flags := 0x400
def fNonfin : Flags := 0x800

/-! ### Formats (R58) -/

/-- How a format spends its largest exponent (R58): as IEEE 754, as OCP E5M2 (one NaN result), or as OCP E4M3 (no
infinity). -/
inductive FpKind where
  | ieee | e5m2 | e4m3
deriving DecidableEq, Repr

/-- A floating-point format: exponent width, significand width, kind. The bias is 2^(ebits-1) - 1 in every format. -/
structure FpFmt where
  ebits : Nat
  mbits : Nat
  kind  : FpKind
deriving DecidableEq, Repr

def fp64 : FpFmt := ⟨11, 52, .ieee⟩
def fp32 : FpFmt := ⟨8, 23, .ieee⟩
def bf16 : FpFmt := ⟨8, 7, .ieee⟩
def binary16 : FpFmt := ⟨5, 10, .ieee⟩
def e5m2 : FpFmt := ⟨5, 2, .e5m2⟩
def e4m3 : FpFmt := ⟨4, 3, .e4m3⟩

namespace FpFmt

def bias (f : FpFmt) : Int := 2 ^ (f.ebits - 1) - 1
/-- Exponent of the smallest normal value. -/
def emin (f : FpFmt) : Int := 1 - f.bias
/-- Exponent of the least significand bit of a subnormal. -/
def lsbMin (f : FpFmt) : Int := f.emin - f.mbits
/-- Exponent of the least significand bit in the highest binade. -/
def lsbMax (f : FpFmt) : Int :=
  match f.kind with
  | .e4m3 => f.bias + 1 - f.mbits
  | _ => f.bias - f.mbits
/-- Largest significand in the highest binade: E4M3 gives its last pattern to the NaN. -/
def maxSig (f : FpFmt) : Nat :=
  match f.kind with
  | .e4m3 => 2 ^ (f.mbits + 1) - 2
  | _ => 2 ^ (f.mbits + 1) - 1
def signBit (f : FpFmt) : Nat := 2 ^ (f.ebits + f.mbits)
def width (f : FpFmt) : Nat := 1 + f.ebits + f.mbits
/-- Bits of +infinity; E4M3 has none, and its place holds the NaN. -/
def infBits (f : FpFmt) : Nat :=
  match f.kind with
  | .e4m3 => 0x7F
  | _ => (2 ^ f.ebits - 1) * 2 ^ f.mbits
/-- The default NaN of R60; 0x7F in the FP8 formats. -/
def nanBits (f : FpFmt) : Nat :=
  match f.kind with
  | .ieee => (2 ^ f.ebits - 1) * 2 ^ f.mbits + 2 ^ (f.mbits - 1)
  | _ => 0x7F
/-- Bits of the largest finite value. -/
def maxBits (f : FpFmt) : Nat :=
  match f.kind with
  | .e4m3 => 0x7E
  | _ => f.infBits - 1

end FpFmt

/-! ### Exact values -/

/-- What a bit pattern means: a NaN (with its sign, whether it is quiet, and its payload left-aligned in 52 bits), an
infinity, or a sign and a magnitude. -/
inductive FVal where
  | nan (neg quiet : Bool) (frac : Nat)
  | inf (neg : Bool)
  | num (neg : Bool) (mag : Rat)
deriving DecidableEq, Repr

/-- 2^e as an exact value. -/
def pow2 (e : Int) : Rat :=
  if 0 ≤ e then ((2 ^ e.toNat : Nat) : Rat) else mkRat 1 (2 ^ (-e).toNat)

namespace FVal

def isNan : FVal → Bool
  | .nan .. => true
  | _ => false
def isSnan : FVal → Bool
  | .nan _ q _ => !q
  | _ => false
def isInf : FVal → Bool
  | .inf _ => true
  | _ => false
def isNonfin (v : FVal) : Bool := v.isNan || v.isInf
def isZero : FVal → Bool
  | .num _ m => m == 0
  | _ => false
def neg : FVal → Bool
  | .nan n _ _ => n
  | .inf n => n
  | .num n _ => n
/-- The real value; 0 for what has none. -/
def toRat : FVal → Rat
  | .num true m => -m
  | .num false m => m
  | _ => 0
def setNeg (b : Bool) : FVal → FVal
  | .nan _ q f => .nan b q f
  | .inf _ => .inf b
  | .num _ m => .num b m
/-- A finite value from a rational; `z` is the sign of a zero. -/
def ofRat (x : Rat) (z : Bool := false) : FVal :=
  if x = 0 then .num z 0 else if x < 0 then .num true (-x) else .num false x

end FVal

/-- The default NaN (R60). -/
def defaultNan : FVal := .nan false true (2 ^ 51)

/-- The meaning of a bit pattern (R58, R60). -/
def decodeFp (f : FpFmt) (b : Nat) : FVal :=
  let neg := b.testBit (f.ebits + f.mbits)
  let ex := b / 2 ^ f.mbits % 2 ^ f.ebits
  let sg := b % 2 ^ f.mbits
  let fin : FVal :=
    if ex = 0 then .num neg ((sg : Rat) * pow2 f.lsbMin)
    else .num neg (((2 ^ f.mbits + sg : Nat) : Rat) * pow2 (f.lsbMin + (ex - 1 : Nat)))
  match f.kind with
  | .e4m3 => if ex = 15 ∧ sg = 7 then .nan neg true (2 ^ 51) else fin
  | .e5m2 => if ex = 31 then (if sg = 0 then .inf neg else .nan neg true (2 ^ 51)) else fin
  | .ieee =>
    if ex = 2 ^ f.ebits - 1 then
      if sg = 0 then .inf neg else .nan neg (sg.testBit (f.mbits - 1)) (sg * 2 ^ (52 - f.mbits))
    else fin

/-- The pattern of a NaN result: the operand's sign and payload, quietened (R60). -/
def encodeNan (f : FpFmt) (neg : Bool) (frac : Nat) : Nat :=
  match f.kind with
  | .ieee => (if neg then f.signBit else 0) + f.infBits + (frac / 2 ^ (52 - f.mbits) ||| 2 ^ (f.mbits - 1))
  | _ => 0x7F

/-- The pattern of an infinity; E4M3 has none and answers 0x7F (R77). -/
def encodeInf (f : FpFmt) (neg : Bool) : Nat :=
  match f.kind with
  | .e4m3 => 0x7F
  | _ => (if neg then f.signBit else 0) + f.infBits

/-! ### Rounding (R76 to R80) -/

/-- A rounding rule with what it needs: SR carries the 16 random bits of R80. -/
inductive RMode where
  | rne | rtz | rup | rdn
  | sr (r : BitVec 16)
deriving DecidableEq, Repr

/-- Whether a magnitude `q + rem/den` on a grid goes up (R76, R79). -/
def roundsUp (m : RMode) (neg : Bool) (q rem den : Nat) : Bool :=
  match m with
  | .rne => decide (den < 2 * rem) || (decide (2 * rem = den) && q % 2 == 1)
  | .rtz => false
  | .rup => !neg && rem != 0
  | .rdn => neg && rem != 0
  | .sr r => decide (65536 ≤ 65536 * rem / den + r.toNat)

/-- `floor(log2 (n / d))` for positive n and d. -/
def log2Ratio (n d : Nat) : Int :=
  let e : Int := (Nat.log2 n : Int) - (Nat.log2 d : Int)
  if 0 ≤ e then (if d * 2 ^ e.toNat ≤ n then e else e - 1)
  else (if d ≤ n * 2 ^ (-e).toNat then e else e - 1)

/-- A magnitude n/d on the grid of step 2^k: quotient, remainder and divisor. -/
def onGrid (n d : Nat) (k : Int) : Nat × Nat × Nat :=
  if 0 ≤ k then let d' := d * 2 ^ k.toNat; (n / d', n % d', d')
  else let n' := n * 2 ^ (-k).toNat; (n' / d, n' % d, d)

/-- What overflow gives: the IEEE result of the mode, or the FP8 result of R77. -/
def overflowBits (f : FpFmt) (m : RMode) (neg : Bool) : Nat :=
  let s := if neg then f.signBit else 0
  match f.kind with
  | .ieee =>
    match m with
    | .rtz => s + f.maxBits
    | .rup => if neg then s + f.maxBits else encodeInf f neg
    | .rdn => if neg then encodeInf f neg else s + f.maxBits
    | _ => encodeInf f neg
  | _ => encodeInf f neg

/-- Rounds a magnitude once to a format (R75 to R79): the pattern and the flags. `sat` is the saturate bit of R77, which
only the FP8 formats obey. -/
def roundMag (f : FpFmt) (m : RMode) (sat neg : Bool) (mag : Rat) : Nat × Flags :=
  let s := if neg then f.signBit else 0
  if mag = 0 then (s, 0)
  else
    let n := mag.num.natAbs
    let d := mag.den
    let e := log2Ratio n d
    let lsb := max (e - f.mbits) f.lsbMin
    let (q, rem, den) := onGrid n d lsb
    let q' := if roundsUp m neg q rem den then q + 1 else q
    let inexact := rem != 0
    let big := decide (f.lsbMax < lsb) || (decide (lsb = f.lsbMax) && decide (f.maxSig < q'))
    if big then
      if sat && f.kind != .ieee then (s + f.maxBits, fSat ||| fInexact)
      else (overflowBits f m neg, fOverflow ||| fInexact)
    else
      -- tininess after rounding (R75): the result on an unbounded exponent range lies below the smallest normal
      let tiny :=
        if e < f.emin then
          let (qu, ru, du) := onGrid n d (e - f.mbits)
          let qu' := if roundsUp m neg qu ru du then qu + 1 else qu
          decide (e + 1 < f.emin) || decide (qu' < 2 ^ (f.mbits + 1))
        else false
      (s + (lsb - f.lsbMin).toNat * 2 ^ f.mbits + q',
        (if inexact then fInexact else 0) ||| (if inexact && tiny then fUnderflow else 0))

/-- Rounds any exact value to a format. A NaN keeps sign and payload, quietened (R60). -/
def roundFp (f : FpFmt) (m : RMode) (sat : Bool) : FVal → Nat × Flags
  | .nan n q fr => (encodeNan f n fr, if q then 0 else fInvalid)
  | .inf n => (encodeInf f n, 0)
  | .num n x => roundMag f m sat n x

/-- Rounds to a format with RNE. -/
def roundRne (f : FpFmt) (v : FVal) : Nat × Flags := roundFp f .rne false v

/-- A rational rounded to an integer by a rounding mode (R61). -/
def roundToInt (m : RMode) (x : Rat) : Int × Bool :=
  let neg := decide (x < 0)
  let n := x.num.natAbs
  let q := n / x.den
  let rem := n % x.den
  let q' := if roundsUp m neg q rem x.den then q + 1 else q
  (if neg then -(q' : Int) else q', rem != 0)

/-- The random bits of R80. -/
def srRound (rc : BitVec 32) (abcd : BitVec 32 × BitVec 32 × BitVec 32 × BitVec 32) :
    BitVec 32 × BitVec 32 × BitVec 32 × BitVec 32 :=
  let (a, b, c, d) := abcd
  let a := a + b + rc
  let d := (d ^^^ a).rotateLeft 13
  let c := c + d
  let b := (b ^^^ c).rotateLeft 21
  let a := a + c.rotateLeft 7
  let d := d ^^^ b.rotateLeft 17
  (a, b, c, d)

/-- `sr_bits(seed, stream, index)` of R80. -/
def srBits (seed : BitVec 64) (stream index : BitVec 32) : BitVec 16 :=
  let s0 := (seed.extractLsb' 0 32, seed.extractLsb' 32 32, stream, index)
  let (a, b, c, d) := srRound 0x03707344 (srRound 0x13198A2E (srRound 0x85A308D3 (srRound 0x243F6A88 s0)))
  ((a ^^^ b) + (c ^^^ d)).extractLsb' 16 16

/-- A rounding-mode field after DYN is resolved (R76): five rules. -/
inductive RSel where
  | rne | rtz | rup | rdn | sr
deriving DecidableEq, Repr

/-- The rule that a 3-bit field names; `dyn` is RMODE of FPCTL. -/
def rselOf (field dyn : BitVec 3) : RSel :=
  let pick (b : BitVec 3) : RSel :=
    if b = 1 then .rtz else if b = 2 then .rup else if b = 3 then .rdn else if b = 4 then .sr else .rne
  if field = 5 then pick dyn else pick field

/-- The rounding of one element: SR draws its bits from seed, stream and index. -/
def RSel.mode (r : RSel) (seed : BitVec 64) (stream : BitVec 32) (index : Nat) : RMode :=
  match r with
  | .rne => .rne
  | .rtz => .rtz
  | .rup => .rup
  | .rdn => .rdn
  | .sr => .sr (srBits seed stream (BitVec.ofNat 32 index))

/-! ### Operations (R60, R73, R74): exact results -/

/-- The NaN rule of R60 over the operands in order: the first NaN, quietened, and INVALID for a signalling one. -/
def nanRule : List FVal → Option (FVal × Flags)
  | ops =>
    match ops.find? FVal.isNan with
    | some (.nan n _ f) => some (.nan n true (f ||| 2 ^ 51), if ops.any FVal.isSnan then fInvalid else 0)
    | _ => none

/-- Sign of an exact zero sum (IEEE 754 clause 6.3): +0, or -0 under RDN. -/
def zeroSign (m : RMode) : Bool := decide (m = .rdn)

/-- Exact sum. -/
def addV (m : RMode) (a b : FVal) : FVal × Flags :=
  match nanRule [a, b] with
  | some r => r
  | none =>
    match a, b with
    | .inf x, .inf y => if x = y then (.inf x, 0) else (defaultNan, fInvalid)
    | .inf x, _ => (.inf x, 0)
    | _, .inf y => (.inf y, 0)
    | a, b =>
      if a.isZero && b.isZero && a.neg == b.neg then (a, 0)
      else (FVal.ofRat (a.toRat + b.toRat) (zeroSign m), 0)

/-- The operand negated; a NaN keeps its sign. -/
def negV : FVal → FVal
  | .nan n q f => .nan n q f
  | .inf n => .inf (!n)
  | .num n m => .num (!n) m

def subV (m : RMode) (a b : FVal) : FVal × Flags := addV m a (negV b)

/-- Exact product. -/
def mulV (a b : FVal) : FVal × Flags :=
  match nanRule [a, b] with
  | some r => r
  | none =>
    let s := a.neg != b.neg
    match a, b with
    | .num _ x, .num _ y => (.num s (x * y), 0)
    | a, b => if a.isZero || b.isZero then (defaultNan, fInvalid) else (.inf s, 0)

/-- Exact a × b + c. With a NaN c, INVALID for 0 × infinity is left to the implementation by IEEE 754 clause 7.2: none is set
(log 146, DESIGN CHOICE). -/
def fmaV (m : RMode) (a b c : FVal) : FVal × Flags :=
  match nanRule [a, b, c] with
  | some r => r
  | none =>
    let p := mulV a b
    if p.1.isNan then p else addV m p.1 c

/-- Exact quotient. -/
def divV (a b : FVal) : FVal × Flags :=
  match nanRule [a, b] with
  | some r => r
  | none =>
    let s := a.neg != b.neg
    match a, b with
    | .inf _, .inf _ => (defaultNan, fInvalid)
    | .inf _, _ => (.inf s, 0)
    | _, .inf _ => (.num s 0, 0)
    | .num _ x, .num _ y =>
      if y = 0 then (if x = 0 then (defaultNan, fInvalid) else (.inf s, fDivzero)) else (.num s (x / y), 0)
    | _, _ => (defaultNan, fInvalid)

/-- Integer square root of a number below 4^k. -/
def isqrt : Nat → Nat → Nat
  | 0, _ => 0
  | k + 1, n => let r := 2 * isqrt k (n / 4); if (r + 1) * (r + 1) ≤ n then r + 1 else r

/-- A value known to lie at `F / 2^p` exactly, or strictly between it and the next: no grid point or midpoint of a
coarser grid lies between, so the middle rounds as the exact value does. -/
def stickyRat (F : Int) (p : Int) (exact : Bool) : Rat :=
  if exact then (F : Rat) * pow2 (-p) else ((2 * F + 1 : Int) : Rat) * pow2 (-p - 1)

/-- The square root of a positive rational, exact or sticky beyond 120 bits. -/
def sqrtRat (x : Rat) : Rat :=
  let s := (log2Ratio x.num.natAbs x.den).fdiv 2
  let a := x * pow2 (-2 * s) * pow2 240
  let n := a.num.natAbs / a.den
  let F := isqrt 122 n
  stickyRat F (120 - s) (decide (((F * F : Nat) : Rat) = a))

/-- Square root (R73). -/
def sqrtV (a : FVal) : FVal × Flags :=
  match nanRule [a] with
  | some r => r
  | none =>
    match a with
    | .inf false => (.inf false, 0)
    | .num n x => if x = 0 then (.num n 0, 0) else if n then (defaultNan, fInvalid) else (.num false (sqrtRat x), 0)
    | _ => (defaultNan, fInvalid)

/-- 1/√x (R159): 1/±0 is a signed infinity with DIVZERO, a negative operand is invalid. -/
def rsqrtV (a : FVal) : FVal × Flags :=
  match nanRule [a] with
  | some r => r
  | none =>
    match a with
    | .inf false => (.num false 0, 0)
    | .num n x => if x = 0 then (.inf n, fDivzero) else if n then (defaultNan, fInvalid)
        else (.num false (sqrtRat (1 / x)), 0)
    | _ => (defaultNan, fInvalid)

/-- Bounds of 2^(f) for a binary fraction `f` of k bits below 1, on the grid 2^-p: each set bit i multiplies by
2^(2^-i), found by repeated square roots. `lo ≤ 2^f × 2^p < hi`. -/
def exp2Bounds (p : Nat) : Nat → Nat → Nat → Nat → Nat → Nat → Nat × Nat
  | 0, _, _, _, lo, hi => (lo, hi)
  | k + 1, f, rl, rh, lo, hi =>
    let rl := isqrt (p + 2) (rl * 2 ^ p)
    let rh := isqrt (p + 2) (rh * 2 ^ p) + 1
    if f.testBit k then exp2Bounds p k f rl rh (lo * rl / 2 ^ p) (hi * rh / 2 ^ p + 1)
    else exp2Bounds p k f rl rh lo hi

/-- floor(2^f × 2^64) for a fraction f = n / 2^k, found at rising precision. -/
def exp2Floor : List Nat → Nat → Nat → Nat
  | [], _, _ => 0
  | p :: ps, k, n =>
    let (lo, hi) := exp2Bounds p k n (2 * 2 ^ p) (2 * 2 ^ p) (2 ^ p) (2 ^ p)
    if lo * 2 ^ 64 / 2 ^ p = hi * 2 ^ 64 / 2 ^ p ∨ ps = [] then lo * 2 ^ 64 / 2 ^ p else exp2Floor ps k n

/-- 2^x (R159), exact for an integer x, else sticky beyond 64 bits. Beyond ±2^14 the exponent is cut to ±2^14, which every
format rounds alike. -/
def exp2Rat (x : Rat) : Rat :=
  if x.den = 1 ∧ x.num.natAbs ≤ 16384 then pow2 x.num
  else if 16384 < x then pow2 16384
  else if x < -16384 then pow2 (-16384)
  else
    let i := x.floor
    let f := x - i
    let F := exp2Floor [192, 384, 768] (Nat.log2 f.den) f.num.natAbs
    stickyRat F (64 - i) false

/-- EXP2. -/
def exp2V (a : FVal) : FVal × Flags :=
  match nanRule [a] with
  | some r => r
  | none =>
    match a with
    | .inf false => (.inf false, 0)
    | .inf true => (.num false 0, 0)
    | v => (.num false (exp2Rat v.toRat), 0)

/-- One run of bit-by-bit log2 of a value in [1, 2) held between lo and hi on the grid 2^-p: n bits, or none when the
bounds part. -/
def log2Bits (p : Nat) : Nat → Nat → Nat → Nat → Option Nat
  | 0, _, _, acc => some acc
  | n + 1, lo, hi, acc =>
    let lo2 := lo * lo / 2 ^ p
    let hi2 := hi * hi / 2 ^ p + 1
    if 2 * 2 ^ p ≤ lo2 then log2Bits p n (lo2 / 2) (hi2 / 2 + 1) (2 * acc + 1)
    else if hi2 < 2 * 2 ^ p then log2Bits p n lo2 hi2 (2 * acc)
    else none

/-- floor(log2 m × 2^128) for m in (1, 2), at rising precision. -/
def log2Floor : List Nat → Rat → Nat
  | [], _ => 0
  | p :: ps, m =>
    let lo := (m * pow2 p).floor.toNat
    match log2Bits p 128 lo (lo + 1) 0 with
    | some r => r
    | none => log2Floor ps m

/-- log2 x for a positive x, exact for a power of two. -/
def log2Rat (x : Rat) : Rat :=
  let e := log2Ratio x.num.natAbs x.den
  let m := x * pow2 (-e)
  if m = 1 then (e : Rat) else stickyRat (e * 2 ^ 128 + log2Floor [384, 768, 1536] m) 128 false

/-- LOG2. -/
def log2V (a : FVal) : FVal × Flags :=
  match nanRule [a] with
  | some r => r
  | none =>
    match a with
    | .inf false => (.inf false, 0)
    | .num n x => if x = 0 then (.inf true, fDivzero) else if n then (defaultNan, fInvalid)
        else (FVal.ofRat (log2Rat x), 0)
    | _ => (defaultNan, fInvalid)

/-- IEEE order of two numbers, with -0 below +0; none when a NaN takes part. -/
def ltTotal (a b : FVal) : Bool :=
  match a, b with
  | .inf x, .inf y => x && !y
  | .inf x, _ => x
  | _, .inf y => !y
  | a, b => decide (a.toRat < b.toRat) || (a.isZero && b.isZero && a.neg && !b.neg)

/-- IEEE equality of numbers. -/
def eqV (a b : FVal) : Bool :=
  match a, b with
  | .inf x, .inf y => x == y
  | .num _ _, .num _ _ => decide (a.toRat = b.toRat)
  | _, _ => false

/-- minimum and maximum (R73): NaN propagates. -/
def minmaxV (isMax : Bool) (a b : FVal) : FVal × Flags :=
  match nanRule [a, b] with
  | some r => r
  | none => (if (if isMax then ltTotal a b else ltTotal b a) then b else a, 0)

/-- minimumNumber and maximumNumber (R73): a number is preferred to a NaN. -/
def minmaxNumV (isMax : Bool) (a b : FVal) : FVal × Flags :=
  let fl : Flags := if a.isSnan || b.isSnan then fInvalid else 0
  match a.isNan, b.isNan with
  | true, false => (b, fl)
  | false, true => (a, fl)
  | _, _ => let (v, g) := minmaxV isMax a b; (v, g ||| fl)

/-- scaleB (R73): a × 2^n. -/
def scalebV (a : FVal) (n : Int) : FVal × Flags :=
  match nanRule [a] with
  | some r => r
  | none =>
    match a with
    | .num s x => if x = 0 then (a, 0)
        else (.num s (x * pow2 (max (-40000) (min 40000 n))), 0)
    | v => (v, 0)

/-- logB (R73): the exponent as a floating-point value; -infinity with DIVZERO for zero. -/
def logbV (a : FVal) : FVal × Flags :=
  match nanRule [a] with
  | some r => r
  | none =>
    match a with
    | .inf _ => (.inf false, 0)
    | .num _ x => if x = 0 then (.inf true, fDivzero)
        else (FVal.ofRat ((log2Ratio x.num.natAbs x.den : Int) : Rat), 0)
    | v => (v, 0)

/-- roundToIntegral in a rounding mode (R73): not its Exact form, so it sets no INEXACT (log 125, DEDUCED). -/
def rintV (m : RMode) (a : FVal) : FVal × Flags :=
  match nanRule [a] with
  | some r => r
  | none =>
    match a with
    | .num s _ => (FVal.ofRat ((roundToInt m a.toRat).1 : Rat) s, 0)
    | v => (v, 0)

/-- CLASS of R159, by the format's smallest normal value. -/
def classV (f : FpFmt) : FVal → Nat
  | .nan _ false _ => 1
  | .nan _ true _ => 2
  | .inf true => 4
  | .inf false => 512
  | .num n m =>
    if m = 0 then (if n then 32 else 64)
    else if m < pow2 f.emin then (if n then 16 else 128)
    else (if n then 8 else 256)

/-- Rounds the exact result of an operation, joining the flags (R74). -/
def finishFp (f : FpFmt) (m : RMode) (r : FVal × Flags) : Nat × Flags :=
  let (b, fl) := roundFp f m false r.1
  (b, fl ||| r.2)

/-- One addition in a format. -/
def fpAdd (f : FpFmt) (m : RMode) (a b : Nat) : Nat × Flags := finishFp f m (addV m (decodeFp f a) (decodeFp f b))
/-- One fused multiply-add in a format. -/
def fpFma (f : FpFmt) (m : RMode) (a b c : Nat) : Nat × Flags :=
  finishFp f m (fmaV m (decodeFp f a) (decodeFp f b) (decodeFp f c))
/-- One multiplication in a format. -/
def fpMul (f : FpFmt) (m : RMode) (a b : Nat) : Nat × Flags := finishFp f m (mulV (decodeFp f a) (decodeFp f b))
/-- Conversion between formats (R74, R77). -/
def fpConvert (src dst : FpFmt) (m : RMode) (sat : Bool) (a : Nat) : Nat × Flags := roundFp dst m sat (decodeFp src a)

/-- An E8M0 exponent as a factor; none for the NaN 0xFF (R59). -/
def e8m0 (x : Nat) : Option Rat := if x = 255 then none else some (pow2 ((x : Int) - 127))

/-! ### Integers (R61) -/

/-- A natural read as a two's-complement number of w bits. -/
def toSigned (w : Nat) (n : Nat) : Int :=
  let n := n % 2 ^ w
  if n < 2 ^ (w - 1) then n else (n : Int) - 2 ^ w

/-- An integer as the two's-complement pattern of w bits, wrapped. -/
def ofSigned (w : Nat) (i : Int) : Nat := (i % 2 ^ w).toNat

/-- Clamps to w bits, signed; true when it clamped. -/
def clampSigned (w : Nat) (i : Int) : Int × Bool :=
  if i < -(2 ^ (w - 1)) then (-(2 ^ (w - 1)), true)
  else if 2 ^ (w - 1) - 1 < i then (2 ^ (w - 1) - 1, true) else (i, false)

/-- A floating-point value to an integer of w bits (R61): a NaN gives 0, out of range the nearest end, both INVALID. In range
no flag is set: R73 names convertToInteger, not its Exact form (log 125, DEDUCED). -/
def fpToInt (w : Nat) (m : RMode) (v : FVal) : Nat × Flags :=
  match v with
  | .nan .. => (0, fInvalid)
  | .inf n => (ofSigned w (if n then -(2 ^ (w - 1)) else 2 ^ (w - 1) - 1), fInvalid)
  | .num .. =>
    let (j, c) := clampSigned w (roundToInt m v.toRat).1
    (ofSigned w j, if c then fInvalid else 0)

/-! ### CRC-32C (R235) -/

/-- One byte of the reflected CRC-32C (Castagnoli). -/
def crcStep (c : BitVec 32) (b : BitVec 8) : BitVec 32 :=
  let bit (c : BitVec 32) : BitVec 32 := if c.getLsbD 0 then (c >>> 1) ^^^ 0x82F63B78 else c >>> 1
  bit (bit (bit (bit (bit (bit (bit (bit (c ^^^ b.zeroExtend 32))))))))

/-- CRC-32C with an initial value and final inversion. -/
def crc32c (init : BitVec 32) (bs : List (BitVec 8)) : BitVec 32 := ~~~ (bs.foldl crcStep init)

/-! ### Bytes, little-endian (R7) -/

/-- A value's n low bytes, little-endian. -/
def leBytes (n v : Nat) : List Byte := (List.range n).map fun i => BitVec.ofNat 8 (v / 256 ^ i)

/-- The value of bytes, little-endian. -/
def ofLe : List Byte → Nat
  | [] => 0
  | b :: bs => b.toNat + 256 * ofLe bs

/-- Bits [hi:lo] of a number. -/
def bits (v lo w : Nat) : Nat := v / 2 ^ lo % 2 ^ w

end Sys2Proof.Machine
end

