-- ==== Sys2Proof/Machine/Mem.lean ====
section
/-! DEFINITION. Sparse data in one canonical form: a list of (key, value) pairs with strictly rising keys and no entry
equal to what an unlisted key reads as. Memory is such a list of bytes (DESIGN CHOICE, log 5: a byte that nothing has
written reads 0x00). -/
namespace Sys2Proof.Machine

/-- Sparse data by key. -/
abbrev KMap (α : Type) := List (Nat × α)

namespace KMap
variable {α : Type}

/-- The value at a key; `d` where none is listed. -/
def get (d : α) : KMap α → Nat → α
  | [], _ => d
  | (a, v) :: t, k => if a = k then v else get d t k

/-- Inserts a pair before the first larger key. -/
def insertKey (k : Nat) (v : α) : KMap α → KMap α
  | [] => [(k, v)]
  | (a, x) :: t => if k < a then (k, v) :: (a, x) :: t else (a, x) :: insertKey k v t

/-- Sets the value at a key, keeping the canonical form. -/
def set [DecidableEq α] (d : α) (m : KMap α) (k : Nat) (v : α) : KMap α :=
  let m' := m.filter fun e => e.1 ≠ k
  if v = d then m' else insertKey k v m'

/-- Keys rise strictly from a bound. -/
def rising : Nat → KMap α → Bool
  | _, [] => true
  | lo, (a, _) :: t => decide (lo ≤ a) && rising (a + 1) t

/-- The canonical form. -/
def wf [DecidableEq α] (d : α) (m : KMap α) : Bool := rising 0 m && m.all fun e => e.2 ≠ d

/-- Sets consecutive keys from k. -/
def setMany [DecidableEq α] (d : α) (m : KMap α) (k : Nat) : List α → KMap α
  | [] => m
  | v :: vs => setMany d (set d m k v) (k + 1) vs

/-- Reads n consecutive keys from k. -/
def getMany (d : α) (m : KMap α) (k n : Nat) : List α := (List.range n).map fun i => get d m (k + i)

end KMap

/-- A byte-addressed memory: cells with strictly rising addresses, none holding 0x00. -/
abbrev Memory := List Host.Cell

namespace Memory

/-- The canonical form of a memory. -/
def wf (m : Memory) : Bool := KMap.wf (0 : Byte) m

/-- One byte. -/
def read8 (m : Memory) (a : Nat) : Byte := KMap.get (0 : Byte) m a
def write8 (m : Memory) (a : Nat) (b : Byte) : Memory := KMap.set (0 : Byte) m a b

/-- n bytes from an address. -/
def readBytes (m : Memory) (a n : Nat) : List Byte := KMap.getMany (0 : Byte) m a n
def writeBytes (m : Memory) (a : Nat) (bs : List Byte) : Memory := KMap.setMany (0 : Byte) m a bs

/-- An n-byte little-endian value (R7). -/
def readLe (m : Memory) (a n : Nat) : Nat := ofLe (m.readBytes a n)
def writeLe (m : Memory) (a n v : Nat) : Memory := m.writeBytes a (leBytes n v)

/-- n bytes of zero. -/
def zeroFill (m : Memory) (a n : Nat) : Memory := m.filter fun e => e.1 < a || a + n ≤ e.1

end Memory

end Sys2Proof.Machine
end

