-- ==== Sys2Proof/Machine/Wire.lean ====
section
/-! DEFINITION. Byte layouts on the wires, in network byte order (00 R7): the header of an Eloator message (15 R397), the body of
a CMD (15 R406), Meloend flits with their FCRC (13 R331 to R335) and the payload of a COLL packet (14 R364, R365). -/
namespace Sys2Proof
open Sys2Proof.Machine

/-! ### Network byte order (R7) -/

/-- A value's n bytes, most significant first. -/
def beBytes (n v : Nat) : List Byte := (leBytes n v).reverse

/-- The value of bytes, most significant first. -/
def ofBe (b : List Byte) : Nat := ofLe b.reverse

/-- A big-endian field of an object. -/
def beField (b : List Byte) (off n : Nat) : Nat := ofBe ((b.drop off).take n)

/-- Bytes filled up with zeros to n. -/
def padTo (n : Nat) (b : List Byte) : List Byte := b ++ List.replicate (n - b.length) 0

def bit1 (b : Bool) : BitVec 1 := if b then 1 else 0

/-! ### Eloator messages (R397, R398) -/

/-- TYPE of R398. -/
inductive MsgType where
  | hello | helloAck | cmd | ack | nack | dataWrite | dataRead | dataResp | event | eventAck | regRead | regWrite | txn
  | attestReq | attestResp | bye
deriving DecidableEq, Repr

def MsgType.code : MsgType → Nat
  | .hello => 0x01
  | .helloAck => 0x02
  | .cmd => 0x03
  | .ack => 0x04
  | .nack => 0x05
  | .dataWrite => 0x06
  | .dataRead => 0x07
  | .dataResp => 0x08
  | .event => 0x09
  | .eventAck => 0x0A
  | .regRead => 0x0B
  | .regWrite => 0x0C
  | .txn => 0x0D
  | .attestReq => 0x0E
  | .attestResp => 0x0F
  | .bye => 0x10

/-- The 32-byte header of a message (R397). -/
def MsgHdr.bytes (h : MsgHdr) (t : MsgType) : List Byte :=
  [h.ver, BitVec.ofNat 8 t.code] ++ beBytes 2 h.flags.toNat ++ beBytes 4 h.session.toNat ++ beBytes 2 h.queue.toNat ++
  beBytes 6 h.seq.toNat ++ beBytes 2 h.job.toNat ++ beBytes 2 h.rsvd.toNat ++ beBytes 4 h.length.toNat ++ beBytes 8 h.eseq.toNat

/-- The type that byte 1 of a message names; none where the value is reserved. -/
def msgTypeOf (b : List Byte) : Option MsgType :=
  [.hello, .helloAck, .cmd, .ack, .nack, .dataWrite, .dataRead, .dataResp, .event, .eventAck, .regRead, .regWrite, .txn,
    .attestReq, .attestResp, .bye].find? fun t => t.code == beField b 1 1

/-- A message that the S4 sends: FLAGS and LENGTH are its own, and ESEQ is zero but in an EVENT. -/
def MsgHdr.message (h : MsgHdr) (t : MsgType) (flags : Nat) (eseq : BitVec 64) (body : List Byte) : List Byte :=
  { h with ver := 1, flags := BitVec.ofNat 16 flags, rsvd := 0, length := BitVec.ofNat 32 body.length, eseq := eseq }.bytes t ++ body

/-- Bytes of the frame that carries a message of n bytes, FCS included, padded to the least that Ethernet has (R393, R394). -/
def Frame.bytes (f : Frame) (n : Nat) : Nat :=
  max 64 (12 + (if f.vid = 0 then 0 else 4) + (if f.sec.isSome then 32 else 0) + 2 + (if f.v4 then 20 else 40) + 8 + n + 4)

/-- The fields of a header as they arrive in a frame of a port, a source and a MAC address. -/
def MsgHdr.ofBytes (port : HPort) (srcIp : IpAddr) (srcPort : BitVec 16) (srcMac : MacAddr) (frame : Frame) (b : List Byte) : MsgHdr :=
  let f (off n w : Nat) : BitVec w := BitVec.ofNat w (beField b off n)
  { port := port, srcIp := srcIp, srcPort := srcPort, srcMac := srcMac, ver := f 0 1 8, flags := f 2 2 16, session := f 4 4 32
    queue := f 8 2 16, seq := f 10 6 48, job := f 16 2 16, rsvd := f 18 2 16, length := f 20 4 32, eseq := f 24 8 64, frame := frame }

/-- The body of a HELLO (R400); bytes beyond 32 are ignored. -/
def HelloBody.ofBytes (b : List Byte) : HelloBody :=
  let f (off n w : Nat) : BitVec w := BitVec.ofNat w (beField b off n)
  { vmin := f 0 1 8, vmax := f 1 1 8, isaMax := f 2 1 8, nq := f 3 1 8, maxdata := f 4 2 16, rsvd6 := f 6 2 16
    features := f 8 8 64, rsession := f 16 4 32, rsvd20 := f 20 4 32, token := f 24 8 64 }

/-- Address and data of a DATA_WRITE body (R415), and address, length and reserved bytes of a DATA_READ body (R416). -/
def dataWriteOf (b : List Byte) : BitVec 64 × List Byte := (BitVec.ofNat 64 (beField b 0 8), b.drop 8)
def dataReadOf (b : List Byte) : BitVec 64 × BitVec 32 × BitVec 32 :=
  (BitVec.ofNat 64 (beField b 0 8), BitVec.ofNat 32 (beField b 8 4), BitVec.ofNat 32 (beField b 12 4))

/-- The body of a CMD (R406). -/
def CmdBody.bytes (op : Nat) (b : CmdBody) : List Byte :=
  [BitVec.ofNat 8 op, b.cflags, b.ndep, b.ncap] ++ beBytes 2 b.rsvd4.toNat ++ beBytes 6 b.expectVer.toNat ++
  beBytes 4 b.rsvd12.toNat ++ beBytes 8 b.imageId.toNat ++ beBytes 8 b.arg1.toNat ++ beBytes 8 b.arg2.toNat ++
  beBytes 24 b.rsvd40.toNat ++
  (b.deps.flatMap fun d => beBytes 4 d.session.toNat ++ beBytes 2 d.queue.toNat ++ beBytes 6 d.seq.toNat) ++
  (b.caps.flatMap fun c => beBytes 2 c.capId.toNat ++ beBytes 2 c.rsvd.toNat ++ beBytes 4 c.value.toNat)

/-! ### Flits (R331, R333) -/

/-- Header bits [127:32] of a flit. -/
def FlitHdr.word (h : FlitHdr) : BitVec 96 :=
  h.ftype ++ h.vc ++ bit1 h.sop ++ bit1 h.eop ++ h.lseq ++ h.aack ++ h.cvc ++ h.ccnt ++ h.dst ++ h.job ++ h.dir ++ bit1 h.xpd ++
    bit1 h.uturn ++ h.vlen ++ h.hops ++ h.rsvd

/-- The fields of header bits [127:32]. -/
def FlitHdr.ofWord (w : BitVec 96) : FlitHdr :=
  { ftype := w.extractLsb' 92 4, vc := w.extractLsb' 90 2, sop := w.getLsbD 89, eop := w.getLsbD 88, lseq := w.extractLsb' 74 14
    aack := w.extractLsb' 60 14, cvc := w.extractLsb' 58 2, ccnt := w.extractLsb' 52 6, dst := w.extractLsb' 37 15
    job := w.extractLsb' 21 16, dir := w.extractLsb' 19 2, xpd := w.getLsbD 18, uturn := w.getLsbD 17, vlen := w.extractLsb' 9 8
    hops := w.extractLsb' 3 6, rsvd := w.extractLsb' 0 3 }

/-- Header bytes 0 to 11. -/
def FlitHdr.bytes (h : FlitHdr) : List Byte := beBytes 12 h.word.toNat

/-- FCRC: CRC-32C over header bytes 0 to 11 and the 256 payload bytes (R333). -/
def fcrc (h : FlitHdr) (payload : List Byte) : BitVec 32 := crc32c (BitVec.allOnes 32) (h.bytes ++ payload)

/-- The 272 bytes of a flit. -/
def flitBytes (h : FlitHdr) (payload : List Byte) : List Byte := h.bytes ++ beBytes 4 (fcrc h payload).toNat ++ payload

/-- A received flit's FCRC is good: its header and payload, or none where it is errored (R333). -/
def parseFlit (b : List Byte) : Option (FlitHdr × List Byte) :=
  let h := FlitHdr.ofWord (BitVec.ofNat 96 (beField b 0 12))
  let payload := (b.drop 16).take 256
  if b.length = 272 ∧ beField b 12 4 = (fcrc h payload).toNat then some (h, payload) else none

/-! ### LCTL payloads (R335, R504) -/

/-- LTYPE. -/
def Lctl.ltype : Lctl → Nat
  | .linkHello .. => 0x01
  | .keyMsg .. => 0x02
  | .keyUpdate _ => 0x03
  | .ringState .. => 0x04
  | .credit => 0x05
  | .echo _ => 0x06
  | .echoReply _ => 0x07
  | .wState .. => 0x08
  | .other b => (b.headD 0).toNat

/-- The bytes after LTYPE, without the zeros that follow. KEY_MSG: bytes 2 to 5 GEN, 6 to 37 the nonce, 38 to 69 the tag. -/
def Lctl.content : Lctl → List Byte
  | .linkHello vmin vmax devid port axis role widx encReq sealedBit =>
    [vmin, vmax] ++ beBytes 2 devid.toNat ++ [port.zeroExtend 8, widx ++ role ++ axis, (0 : BitVec 6) ++ bit1 sealedBit ++ bit1 encReq]
  | .keyMsg gen nonce tag => [0] ++ beBytes 4 gen.toNat ++ beBytes 32 nonce.toNat ++ beBytes 32 tag.toNat
  | .keyUpdate ctr => beBytes 8 ctr.toNat
  | .ringState axis origin rseq links => [axis] ++ beBytes 2 origin.toNat ++ beBytes 2 rseq.toNat ++ [links.zeroExtend 8]
  | .credit => []
  | .echo token => beBytes 8 token.toNat
  | .echoReply token => beBytes 8 token.toNat
  | .wState origin rseq links => [0] ++ beBytes 2 origin.toNat ++ beBytes 2 rseq.toNat ++ [links.zeroExtend 8]
  | .other b => b.tail

/-- The 256 payload bytes of an LCTL flit; unused bytes are zero. -/
def Lctl.payload (m : Lctl) : List Byte := padTo 256 (BitVec.ofNat 8 m.ltype :: m.content)

/-! ### COLL packets (R334, R364, R365) -/

/-- The 32-byte collective header. -/
def CollHdr.bytes (h : CollHdr) : List Byte :=
  [h.ptype, h.dtype ++ h.attempt] ++ beBytes 2 h.group.toNat ++ beBytes 4 h.seq.toNat ++ beBytes 4 h.dhash.toNat ++
  beBytes 2 h.srcRank.toNat ++ beBytes 2 h.origin.toNat ++ beBytes 4 h.pidx.toNat ++ beBytes 5 h.offset.toNat ++
  beBytes 2 h.nunits.toNat ++ [h.wflags] ++ beBytes 2 h.blame.toNat ++ beBytes 2 h.satcnt.toNat

def CollHdr.ofBytes (b : List Byte) : CollHdr :=
  let f (off n w : Nat) : BitVec w := BitVec.ofNat w (beField b off n)
  { ptype := f 0 1 8, dtype := BitVec.ofNat 4 (beField b 1 1 / 16), attempt := f 1 1 4, group := f 2 2 16, seq := f 4 4 32
    dhash := f 8 4 32, srcRank := f 12 2 16, origin := f 14 2 16, pidx := f 16 4 32, offset := f 20 5 40, nunits := f 25 2 16
    wflags := f 27 1 8, blame := f 28 2 16, satcnt := f 30 2 16 }

/-- What follows the header. -/
def CollBody.bytes : CollBody → List Byte
  | .open crc => beBytes 4 crc.toNat
  | .data bs => bs
  | .finish st rank => beBytes 2 st.toNat ++ [0, 0] ++ beBytes 4 rank.toNat
  | .report kind rank => [kind, 0, 0, 0] ++ beBytes 4 rank.toNat
  | .probeReply st next dhash => [st, 0, 0, 0] ++ beBytes 4 next.toNat ++ beBytes 4 dhash.toNat
  | .length units dropped => beBytes 4 units.toNat ++ beBytes 4 dropped.toNat
  | .ready | .commit | .retry | .probe => []

/-- The flits of a packet of DATA have as many bytes as they need; every other packet is one flit. -/
def collFlits (k : CollPkt) : Nat := match k.body with
  | .data bs => (32 + bs.length + 255) / 256
  | _ => 1

/-- The payload of a packet, in flits of 256 bytes. -/
def CollPkt.payload (k : CollPkt) : List Byte := padTo (256 * collFlits k) (k.hdr.bytes ++ k.body.bytes)

/-- VLEN of the EOP flit: the valid bytes of the last flit of DATA, 0 for 256 and for packets of other types, whose bytes after
the body are zeros of the layout. -/
def CollPkt.vlen (k : CollPkt) : BitVec 8 := match k.body with
  | .data bs => BitVec.ofNat 8 ((32 + bs.length) % 256)
  | _ => 0

/-- The payload of flit i of a packet. -/
def CollPkt.flitPayload (k : CollPkt) (i : Nat) : List Byte := (k.payload.drop (256 * i)).take 256

end Sys2Proof
end

