-- ==== Sys2Proof/Machine/CoreState.lean ====
section
/-! DEFINITION. The state of one core (07 R179): registers, descriptors, semaphores, special registers, ledge, tiles,
weight and tile buffers, codebook slots, unit queues, and what the scalar unit waits for. Plain data. -/
namespace Sys2Proof.Machine

/-- CSTAT.STATE (R198). -/
inductive CoreRun where
  | idle | running | handler | halted
deriving DecidableEq, Repr

/-- What a tile slot is (R130, R138). -/
inductive TileMode where
  | free | standard | fixedRope | frMember
deriving DecidableEq, Repr

/-- An accumulator tile slot (R130, R138, R146, R147). Elements are keyed by row * 128 + column. -/
structure Tile where
  mode      : TileMode
  /-- FP32 elements of a standard tile; an unlisted element is +0 -/
  elems     : KMap (BitVec 32)
  /-- integers V of a Fixed-Rope tile; -2^127 marks a non-finite element (R146) -/
  fr        : KMap Int
  terms     : BitVec 32
  t         : BitVec 18
  ssteps    : BitVec 17
  spillN    : BitVec 17
  spilled   : Bool
  spillBase : Bool            -- SPILL_LOC: 0 ledge, 1 Base Camp
  spillAddr : BitVec 48
  anchor    : BitVec 16
  frTerms   : BitVec 41
deriving DecidableEq, Repr

/-- A tile slot after an island reset (R138). -/
def Tile.reset : Tile :=
  { mode := .free, elems := [], fr := [], terms := 0, t := 0, ssteps := 0, spillN := 0, spilled := false,
    spillBase := false, spillAddr := 0, anchor := 0, frTerms := 0 }

/-- A weight buffer (R127): FP8 bytes keyed by row * 128 + column, and per block 4j + k its exponent and whether its bytes
are E5M2. -/
structure WBuf where
  e  : KMap Byte
  x  : KMap Byte
  e5 : KMap Bool
deriving DecidableEq, Repr

/-- A vector tile buffer (R167). -/
structure VBuf where
  bytes : Memory
  len   : BitVec 17
  fmt   : BitVec 4
deriving DecidableEq, Repr

/-- A stream descriptor of four words (R194). -/
abbrev Desc := Vector Word 4

/-- The QNT statistics registers (R105). -/
structure QStats where
  sse     : BitVec 64
  maxabs  : BitVec 32
  nelem   : BitVec 48
  nblk    : BitVec 32
  nzblk   : BitVec 32
  nsatblk : BitVec 32
  nnfblk  : BitVec 32
  nout    : BitVec 32
  nodrop  : BitVec 32
deriving DecidableEq, Repr

def QStats.reset : QStats := ⟨0, 0, 0, 0, 0, 0, 0, 0, 0⟩

/-- What a queue entry does. -/
inductive QOp where
  | macWload | macStep
  | accPreload | accSadd | accSpill | accDrain | accFree
  | vecChain
  | qntEncode | qntCbload | qntAdapt | qntSdump
  | dmaCopy | dmaCopy2d | dmaFill | chkSig
  | collSend | collRecv | collXchg
  | qwait
  | mtsr (idx : BitVec 8) (v : Word)
deriving DecidableEq, Repr

/-- An instruction in a unit queue with everything read at issue (R181): the word, the general registers, the descriptors,
SEED, SR_STREAM and PHASE, and for a chain the copied chain descriptor (R251). `inj` is the injected fault it takes (R236), and
`data` the ledge bytes that it read at its start (R260, R261). -/
structure QEntry where
  op       : QOp
  iseq     : BitVec 48
  pc       : BitVec 22
  w        : GWord
  g        : Vector Word 32
  d        : Vector Desc 16
  seed     : BitVec 64
  srStream : BitVec 32
  phase    : BitVec 16
  chain    : List Byte
  started  : Bool
  inj      : BitVec 2
  data     : List Byte
deriving DecidableEq, Repr

/-- A background spill addition that waits in the spill engine (R137): the tile, its elements, and the instruction that
triggered the spill. -/
structure SpillJob where
  tile  : Fin 16
  elems : KMap (BitVec 32)
  op    : QOp
  iseq  : BitVec 48
deriving DecidableEq, Repr

/-- What the scalar unit waits for (R186 to R189, R209, R211, R222). -/
inductive Stall where
  | semWait (sem : Fin 32) (k : BitVec 16) (iseq : BitVec 48)
  | sset (sem : Fin 32) (k : BitVec 16) (iseq : BitVec 48)
  | fence (mask : BitVec 6) (iseq : BitVec 48)
  | mwait (addr : BitVec 48) (v : Word) (iseq : BitVec 48)
  | rpoint (n : BitVec 32) (iseq : BitVec 48)
  | tileRead (idx : BitVec 8) (rd : Fin 32) (iseq : BitVec 48)
  | halt (status : BitVec 16) (iseq : BitVec 48)
deriving DecidableEq, Repr

/-- Where a core goes once its queues have drained (R201, R202, R209): to its trap handler or to a halt. -/
inductive TrapAfter where
  | handler
  | halt (status : BitVec 16)
deriving DecidableEq, Repr

/-- The program loaded on a core (R204 to R208). -/
structure Prog where
  imageId    : BitVec 64
  textLo     : Nat
  textLen    : Nat
  readOnly   : List (Nat × Nat)
  trapEntry  : BitVec 22
  trapStatus : BitVec 16
  job        : BitVec 16
  logical    : Nat
  key        : CmdKey
  /-- the probe run's number, when the core runs a probe set program (R235) -/
  probe      : Option (BitVec 32)
deriving DecidableEq, Repr

/-- One core. -/
structure Core where
  g          : Vector Word 32
  p          : Vector Bool 8
  d          : Vector Desc 16
  sem        : Vector (BitVec 16) 32
  ledge      : Memory
  tiles      : Vector Tile 16
  spills     : List SpillJob
  wb         : Vector WBuf 2
  vb         : Vector VBuf 4
  cb         : Vector Memory 8
  queues     : Vector (List QEntry) 6
  iseq       : BitVec 48
  stall      : Option Stall
  trapping   : Option TrapAfter
  run        : CoreRun
  pc         : BitVec 22
  trapInfo   : Word
  trapPc     : BitVec 22
  trapSeq    : BitVec 48
  phase      : BitVec 16
  waitLimit  : BitVec 32
  flags      : Vector (BitVec 16) 4
  nonfinPos  : BitVec 32
  fpctl      : BitVec 3
  /-- RMODE as each queue sees it: an FPCTL write takes one entry of every queue (R222) -/
  fpq        : Vector (BitVec 3) 6
  seed       : BitVec 64
  srStream   : BitVec 32
  qs         : QStats
  accCtl     : BitVec 17
  vecLast    : BitVec 25
  chkResidue : Word
  armed      : Vector (BitVec 2) 4
  prog       : Option Prog
  haltStatus : Option (BitVec 16)
  /-- ledge words that read bad until they are rewritten, by number (R287, R289) -/
  badLedge   : List Nat
deriving DecidableEq, Repr

/-- Reset value of TRAPINFO: DESC 0xF (R198). -/
def trapInfoReset : Word := 0xF000000

/-- A core after an island reset, and at power-on (R514; registers without a reset value, ledge and buffers: logs 5, 11,
12). -/
def Core.reset : Core :=
  { g := Vector.replicate 32 0, p := Vector.replicate 8 false,
    d := Vector.replicate 16 (Vector.replicate 4 0), sem := Vector.replicate 32 0, ledge := [],
    tiles := Vector.replicate 16 Tile.reset, spills := [], wb := Vector.replicate 2 ⟨[], [], []⟩,
    vb := Vector.replicate 4 ⟨[], 0, 0⟩, cb := Vector.replicate 8 [], queues := Vector.replicate 6 [], iseq := 0,
    stall := none, trapping := none, run := .idle, pc := 0, trapInfo := trapInfoReset, trapPc := 0, trapSeq := 0,
    phase := 0, waitLimit := 0x01000000, flags := Vector.replicate 4 0, nonfinPos := 0, fpctl := 0,
    fpq := Vector.replicate 6 0, seed := 0, srStream := 0, qs := QStats.reset, accCtl := 0x1000, vecLast := 0,
    chkResidue := 0, armed := Vector.replicate 4 0, prog := none, haltStatus := none, badLedge := [] }

end Sys2Proof.Machine
end

