-- ==== Sys2Proof/Machine/Operands.lean ====
section
/-! DEFINITION. Operand forms of the Gybel instructions: fields of the word (08 R213), general registers and predicates
(07 R179), stream descriptors (07 R194 to R196), the byte ranges of a stream (08 R229) and the checks that an address or a
stream must pass. A check that fails names the trap of 07 R200 and R203 that it raises. -/
namespace Sys2Proof.Machine

/-! ### Traps (R200, R203) -/

/-- A trap's class, subcode and descriptor (R198). -/
structure TrapC where
  cls  : BitVec 4
  sub  : BitVec 16
  desc : BitVec 4
deriving DecidableEq, Repr

/-- The illegal-instruction trap (R200). -/
def illegal : TrapC := ⟨1, 0, 0xF⟩
/-- A data trap with a subcode of R203 and no descriptor. -/
def dataTrap (sub : BitVec 16) : TrapC := ⟨2, sub, 0xF⟩
/-- A data trap that concerns descriptor register d. -/
def descTrap (sub : BitVec 16) (d : BitVec 4) : TrapC := ⟨2, sub, d⟩
/-- The sync trap (R200). -/
def syncTrap : TrapC := ⟨3, 0, 0xF⟩
/-- The software trap (R217). -/
def softTrap (v : BitVec 16) : TrapC := ⟨4, v, 0xF⟩

/-- Passes when the condition holds. -/
def need (c : Bool) (t : TrapC) : Except TrapC Unit := if c then .ok () else .error t

/-! ### Fields of the word (R213) -/

/-- Bits [lo + n - 1 : lo] of the class fields. -/
def fld (w : GWord) (lo n : Nat) : BitVec n := w.extractLsb' lo n
def psel (w : GWord) : BitVec 3 := fld w 50 3
def pneg (w : GWord) : Bool := w.getLsbD 49
def sigBit (w : GWord) : Bool := w.getLsbD 48
def ssem (w : GWord) : BitVec 5 := fld w 43 5

/-! ### Registers (R179) -/

def Core.rg (c : Core) (r : BitVec 5) : Word := if r = 0 then 0 else c.g[r.toNat]'(r.isLt)
/-- Writes a general register; g0 discards (R179). -/
def Core.wg (c : Core) (r : BitVec 5) (v : Word) : Core :=
  if r = 0 then c else { c with g := c.g.set r.toNat v r.isLt }
/-- Reads a predicate; p0 reads 1 (R179). -/
def Core.rp (c : Core) (r : BitVec 3) : Bool := if r = 0 then true else c.p[r.toNat]'(r.isLt)
/-- Writes a predicate; p0 discards. -/
def Core.wp (c : Core) (r : BitVec 3) (v : Bool) : Core :=
  if r = 0 then c else { c with p := c.p.set r.toNat v r.isLt }
def Core.rd (c : Core) (r : BitVec 4) : Desc := c.d[r.toNat]'(r.isLt)
def Core.wd (c : Core) (r : BitVec 4) (v : Desc) : Core := { c with d := c.d.set r.toNat v r.isLt }

/-- A general register as the entry copied it at issue (R181). -/
def QEntry.rg (e : QEntry) (r : BitVec 5) : Word := if r = 0 then 0 else e.g[r.toNat]'(r.isLt)
/-- A descriptor as the entry copied it at issue. -/
def QEntry.rd (e : QEntry) (r : BitVec 4) : Desc := e.d[r.toNat]'(r.isLt)
/-- A register that holds a ledge offset supplies bits [21:0] (R239), in the instructions of chapter 8 too (log 176, DEDUCED). -/
def QEntry.ledgeOff (e : QEntry) (r : BitVec 5) : Nat := (e.rg r).toNat % 2 ^ 22
/-- A register that holds a device address supplies bits [47:0] (R239), in the instructions of chapter 8 too (log 176, DEDUCED). -/
def QEntry.devAddr (e : QEntry) (r : BitVec 5) : Nat := (e.rg r).toNat % 2 ^ 48

/-! ### Stream descriptors (R194, R195) -/

namespace Desc
def pay (d : Desc) : Nat := bits d[0].toNat 0 48
def space (d : Desc) : Nat := bits d[0].toNat 48 2
def fmt (d : Desc) : Nat := bits d[0].toNat 50 4
def sw (d : Desc) : Nat := bits d[0].toNat 54 3
def count (d : Desc) : Nat := bits d[1].toNat 0 40
def sideCap (d : Desc) : Nat := bits d[1].toNat 40 24
def hdr (d : Desc) : Nat := bits d[2].toNat 0 48
def side (d : Desc) : Nat := bits d[3].toNat 0 48

/-- The field checks of R194. -/
def ok (d : Desc) : Bool :=
  d.space != 3 && d[0].toNat / 2 ^ 57 == 0 && d[2].toNat / 2 ^ 48 == 0 && d[3].toNat / 2 ^ 48 == 0 &&
  (if d.fmt = 9 then true
   else if d.fmt = 10 || d.fmt = 11 then d.sw == 7 && d.sideCap == 0 && d.side == 0
   else d.sw == 0 && d.hdr == 0 && d.sideCap == 0 && d.side == 0)

/-- PAY_ADDR advanced by `mem.dadd` (R226): mod 2^48, no other field changes. -/
def addPay (d : Desc) (v : Word) : Desc :=
  d.set 0 (d[0].extractLsb' 48 16 ++ (d[0].extractLsb' 0 48 + v.extractLsb' 0 48))
end Desc

/-- Formats by their FMT number (R195). -/
def fmtCODES : Nat := 9
def fmtSADD : Nat := 14
def fmtRAW128 : Nat := 15

/-- Bytes per element of a FMT with whole-byte elements (R195). -/
def fmtSize (f : Nat) : Nat :=
  match f with
  | 0 => 8 | 1 => 4 | 2 => 2 | 3 => 2 | 4 => 1 | 5 => 1 | 6 => 4 | 7 => 2 | 8 => 1
  | 10 => 1 | 11 => 1 | 13 => 1 | 14 => 8 | 15 => 16 | _ => 0

/-- Alignment of PAY_ADDR (R195). -/
def fmtAlign (f : Nat) : Nat :=
  match f with
  | 0 => 8 | 1 => 4 | 2 => 2 | 3 => 2 | 6 => 4 | 7 => 2 | 9 => 4 | 14 => 8 | 15 => 16 | _ => 1

/-- The floating-point format of a FMT. -/
def fmtFp (f : Nat) : Option FpFmt :=
  match f with
  | 0 => some fp64 | 1 => some fp32 | 2 => some bf16 | 3 => some binary16 | 4 => some e4m3 | 5 => some e5m2 | _ => none

/-- Plain formats of R229. -/
def fmtPlain (f : Nat) : Bool := f ≤ 8 || f == 13
/-- Formats with block headers. -/
def fmtBlocked (f : Nat) : Bool := f == 9 || f == 10 || f == 11

/-- The byte ranges (address, length) of a stream in the order of R229: payload, block headers, side list. -/
def Desc.ranges (d : Desc) : List (Nat × Nat) :=
  if d.fmt = 9 then
    [(d.pay, d.count / 32 * (4 * (d.sw + 1))), (d.hdr, d.count / 32 * 2), (d.side, 8 * d.sideCap)].filter (·.2 ≠ 0)
  else if fmtBlocked d.fmt then [(d.pay, d.count), (d.hdr, d.count / 32 * 2)]
  else if d.fmt = 12 then [(d.pay, (d.count + 7) / 8)]
  else [(d.pay, d.count * fmtSize d.fmt)]

/-- Two byte ranges share a byte. -/
def overlap (a b : Nat × Nat) : Bool := decide (a.1 < b.1 + b.2) && decide (b.1 < a.1 + a.2)
def anyOverlap (as bs : List (Nat × Nat)) : Bool := as.any fun a => bs.any (overlap a)

/-! ### What a core may reach (R191 to R193) -/

/-- One granted Base Camp region (R276): its table index, range and ADD_TYPE. -/
structure BcRegion where
  idx     : Nat
  lo      : Nat
  len     : Nat
  addType : Nat
deriving DecidableEq, Repr

/-- The device memory as a job sees it: its bytes and the ranges granted to the job. -/
structure Env where
  mem : Memory
  bc  : List BcRegion
  hbm : List (Nat × Nat)
deriving DecidableEq, Repr

/-- Whether consecutive ranges cover [a, e). -/
def coveredBy (rs : List (Nat × Nat)) : Nat → Nat → Nat → Bool
  | 0, a, e => decide (e ≤ a)
  | n + 1, a, e =>
    if e ≤ a then true
    else match rs.find? fun r => r.1 ≤ a && a < r.1 + r.2 with
      | some r => coveredBy rs n (r.1 + r.2) e
      | none => false

/-- Ranges granted to the job, Base Camp and HBM. -/
def Env.granted (v : Env) (a n : Nat) : Bool :=
  let rs := v.bc.map (fun r => (r.lo, r.len)) ++ v.hbm
  coveredBy rs (rs.length + 1) a (a + n)
/-- A Base Camp user region granted to the job (R189, R264). -/
def Env.user (v : Env) (a n : Nat) : Bool :=
  let rs := v.bc.map fun r => (r.lo, r.len)
  coveredBy rs (rs.length + 1) a (a + n)
/-- The region that holds an address. -/
def Env.regionAt (v : Env) (a : Nat) : Option BcRegion := v.bc.find? fun r => r.lo ≤ a && a < r.lo + r.len

/-- Ledge size (R191). -/
def ledgeSize : Nat := 0x300000
/-- Base Camp's first device address (R192). -/
def bcBase : Nat := 0x10000000000
/-- Base Camp's size in bytes. -/
def bcSize : Nat := 0x60000000
/-- HBM's size in bytes (R192). -/
def hbmSize : Nat := 0xC000000000

/-- The ledge ranges of the active spill areas (R136). -/
def Core.spillAreas (c : Core) : List (Nat × Nat) :=
  c.tiles.toList.filterMap fun t =>
    if t.mode = .standard ∧ t.spillBase = false then some (t.spillAddr.toNat, 0x20000) else none

/-- Sections that no instruction may write (R191, R205). -/
def Core.readOnly (c : Core) : List (Nat × Nat) := (c.prog.map Prog.readOnly).getD []

/-- A write to ledge ranges that no read-only section meets (0x000B) (R191). -/
def Core.notReadOnly (c : Core) (rs : List (Nat × Nat)) (dn : BitVec 4) : Except TrapC Unit :=
  need (!anyOverlap rs c.readOnly) (descTrap 0xB dn)

/-- A write to ledge ranges by `mem`, `dma`, `chk.sig` or `qnt.sdump`: not into a read-only section (0x000B), not into an active
spill area (0x0008) (R144, R227, R231, R262). -/
def Core.ledgeWritable (c : Core) (rs : List (Nat × Nat)) (dn : BitVec 4) : Except TrapC Unit := do
  c.notReadOnly rs dn
  need (!anyOverlap rs c.spillAreas) (descTrap 0x8 dn)

/-- Spaces that a unit accepts (R196). -/
structure Spaces where
  ledge  : Bool
  device : Bool
  vbuf   : Bool
deriving DecidableEq, Repr

def ledgeOnly : Spaces := ⟨true, false, false⟩

/-- How an instruction uses a stream: it reads it, an engine writes its result there, or `dma` writes there, for which R144
adds the active spill areas. -/
inductive StreamUse where
  | source | result | transfer
deriving DecidableEq, Repr

/-- The write checks of a ledge destination (R144, R191). -/
def Core.mayWrite (c : Core) (u : StreamUse) (rs : List (Nat × Nat)) (dn : BitVec 4) : Except TrapC Unit :=
  match u with
  | .source => .ok ()
  | .result => c.notReadOnly rs dn
  | .transfer => c.ledgeWritable rs dn

/-- The start checks of R196 on a stream outside tile buffers: COUNT (0x0004), alignment (0x0003), space and grant
(0x0002), and the write checks of its use. -/
def checkStream (c : Core) (v : Env) (sp : Spaces) (u : StreamUse) (dn : BitVec 4) (d : Desc) : Except TrapC Unit := do
  need ((d.space == 0 && sp.ledge) || (d.space == 1 && sp.device)) (descTrap 0x2 dn)
  need (d.count != 0 && (!fmtBlocked d.fmt || d.count % 32 == 0)) (descTrap 0x4 dn)
  need (d.pay % fmtAlign d.fmt == 0 && d.hdr % 2 == 0 && d.side % 8 == 0) (descTrap 0x3 dn)
  if d.space = 0 then
    need (d.ranges.all fun r => r.1 + r.2 ≤ ledgeSize) (descTrap 0x2 dn)
    c.mayWrite u d.ranges dn
  else need (d.ranges.all fun r => v.granted r.1 r.2) (descTrap 0x2 dn)

/-- A ledge range of fixed size named by a register: alignment (0x0003) and range (0x0002). -/
def checkOff (a al n : Nat) : Except TrapC Unit := do
  need (a % al == 0) (dataTrap 0x3)
  need (a + n ≤ ledgeSize) (dataTrap 0x2)

/-- A counter word of R189: in a Base Camp user region granted to the job (0x0002), 8-byte aligned (0x0003). -/
def checkCounter (v : Env) (a : Nat) : Except TrapC Unit := do
  need (v.user a 8) (dataTrap 0x2)
  need (a % 8 == 0) (dataTrap 0x3)

/-- Element i of a plain ledge stream, as a pattern. -/
def streamElem (m : Memory) (d : Desc) (i : Nat) : Nat := m.readLe (d.pay + i * fmtSize d.fmt) (fmtSize d.fmt)

/-- Ledge bytes of a ledge stream. -/
def ledgeRanges (d : Desc) : List (Nat × Nat) := if d.space = 0 then d.ranges else []

end Sys2Proof.Machine
end

