-- ==== Sys2Proof/Machine/Flags.lean ====
section
/-! DEFINITION. The sticky flags of the four engines (03 R83 to R86) and the special registers as `alu.mfsr` and
`alu.mtsr` see them (07 R197, R198; 08 R222): which bits an engine can set, how a write acts by the access type of R10,
and what a read returns. -/
namespace Sys2Proof.Machine

/-- The engines that own a flag register (R83), in the order of the special register table. -/
inductive Engine where
  | mac | acc | vec | qnt
deriving DecidableEq, Repr

def Engine.idx : Engine → Fin 4
  | .mac => 0
  | .acc => 1
  | .vec => 2
  | .qnt => 3

/-- The flags an engine can set (R84). -/
def Engine.mask : Engine → Flags
  | .mac => fInvalid ||| fOverflow ||| fUnderflow ||| fInexact
  | .acc => fInvalid ||| fOverflow ||| fUnderflow ||| fInexact ||| fSat ||| fZblk ||| fLongsum ||| fXrange ||| fNonfin
  | .vec => fInvalid ||| fDivzero ||| fOverflow ||| fUnderflow ||| fInexact ||| fSat ||| fPerm ||| fEmpty ||| fNonfin
  | .qnt => fInvalid ||| fOverflow ||| fUnderflow ||| fInexact ||| fSat ||| fZblk ||| fNonfin

/-- An engine sets flags; none is ever cleared by it (R83). -/
def Core.addFlags (c : Core) (e : Engine) (f : Flags) : Core :=
  { c with flags := c.flags.set e.idx (c.flags[e.idx] ||| (f &&& e.mask)) }

/-- A write of a flag register: each bit written as 1 clears (W1C). Clearing NONFIN of FLAGS_ACC clears NONFIN_POS (R86). -/
def Core.clearFlags (c : Core) (e : Engine) (v : Flags) : Core :=
  let c' := { c with flags := c.flags.set e.idx (c.flags[e.idx] &&& ~~~v) }
  if e = .acc ∧ v &&& fNonfin ≠ 0 then { c' with nonfinPos := 0 } else c'

/-- NONFIN_POS of R86. -/
def nonfinWord (kind : BitVec 2) (tile : BitVec 4) (row col : BitVec 7) : BitVec 32 :=
  1#1 ++ kind ++ 0#5 ++ tile ++ row ++ col ++ 0#6

/-- A drain writes a NaN or an infinity: NONFIN, and the position while NONFIN was 0 (R86). -/
def Core.recordNonfin (c : Core) (pos : BitVec 32) : Core :=
  let first := c.flags[1] &&& fNonfin = 0
  let c' := c.addFlags .acc fNonfin
  if first then { c' with nonfinPos := pos } else c'

/-- Index of a unit queue, MAC to COLL (R182). -/
def qIdx : QueueId → Fin 6
  | .mac => 0
  | .acc => 1
  | .vec => 2
  | .qnt => 3
  | .dma => 4
  | .coll => 5

/-- CSTAT (R198). -/
def Core.cstat (c : Core) : Word :=
  let st : Nat := match c.run with
    | .idle => 0
    | .running => 1
    | .handler => 2
    | .halted => 3
  let busy (i : Fin 6) : Nat := if (c.queues[i]).isEmpty then 0 else 2 ^ (2 + i.val)
  BitVec.ofNat 64 (st + busy 0 + busy 1 + busy 2 + busy 3 + busy 4 + busy 5)

/-- CORE_CAP (R198). -/
def coreCap : Word :=
  BitVec.ofNat 64 (128 + 128 * 2 ^ 8 + 16 * 2 ^ 16 + 8 * 2 ^ 21 + 8 * 2 ^ 25 + 4 * 2 ^ 29 + 3072 * 2 ^ 32 + 1 * 2 ^ 48
    + 4 * 2 ^ 52 + 128 * 2 ^ 56)

def TileMode.code : TileMode → Nat
  | .free => 0
  | .standard => 1
  | .fixedRope => 2
  | .frMember => 3

/-- ACC_TSTATn (R138). SPILL_BUSY reads 1 while a background addition of the tile waits. -/
def Core.tstat (c : Core) (n : Fin 16) : Word :=
  let t := c.tiles[n]
  BitVec.ofNat 64 (t.mode.code + (if t.spilled then 4 else 0) + (if t.spillBase then 8 else 0)
    + (if c.spills.any (·.tile = n) then 16 else 0) + t.ssteps.toNat * 2 ^ 5 + t.spillN.toNat * 2 ^ 22)

/-- ACC_TCNTn (R138). -/
def Core.tcnt (c : Core) (n : Fin 16) : Word :=
  BitVec.ofNat 64 ((c.tiles[n]).terms.toNat + (c.tiles[n]).t.toNat * 2 ^ 32)

/-- ACC_FRSTATj (R147). -/
def Core.frstat (c : Core) (j : Fin 4) : Word :=
  let t := c.tiles[4 * j.val]'(by omega)
  BitVec.ofNat 64 (t.frTerms.toNat + t.anchor.toNat * 2 ^ 48)

/-- An index that R197 marks reserved. -/
def srReserved (i : BitVec 8) : Bool :=
  (0x1A ≤ i && i ≤ 0x1F) || (0x5A ≤ i && i ≤ 0x5F) || 0x80 ≤ i

/-- The tile slot that a tile register names (R138, R147). -/
def srTile (i : BitVec 8) : Option (Fin 16) :=
  if 0x20 ≤ i && i ≤ 0x4F then some ⟨i.toNat % 16, by omega⟩
  else if 0x50 ≤ i && i ≤ 0x53 then some ⟨4 * (i.toNat % 4), by omega⟩
  else none

/-- The value of a special register (R197). -/
def Core.mfsr (c : Core) (i : BitVec 8) : Word :=
  let n := i.toNat
  if h : 0x20 ≤ n ∧ n ≤ 0x2F then c.tstat ⟨n - 0x20, by omega⟩
  else if h : 0x30 ≤ n ∧ n ≤ 0x3F then c.tcnt ⟨n - 0x30, by omega⟩
  else if h : 0x40 ≤ n ∧ n ≤ 0x4F then ((c.tiles[n - 0x40]'(by omega)).spillAddr).zeroExtend 64
  else if h : 0x50 ≤ n ∧ n ≤ 0x53 then c.frstat ⟨n - 0x50, by omega⟩
  else if h : 0x54 ≤ n ∧ n ≤ 0x57 then
    let b := c.vb[n - 0x54]'(by omega)
    BitVec.ofNat 64 (b.len.toNat + b.fmt.toNat * 2 ^ 17)
  else if h : 0x60 ≤ n ∧ n ≤ 0x7F then (c.sem[n - 0x60]'(by omega)).zeroExtend 64
  else match n with
    | 0x00 => c.cstat
    | 0x01 => c.pc.zeroExtend 64
    | 0x02 => c.trapInfo
    | 0x03 => c.trapPc.zeroExtend 64
    | 0x04 => c.trapSeq.zeroExtend 64
    | 0x05 => c.phase.zeroExtend 64
    | 0x06 => coreCap
    | 0x07 => c.waitLimit.zeroExtend 64
    | 0x08 => (c.flags[0]).zeroExtend 64
    | 0x09 => (c.flags[1]).zeroExtend 64
    | 0x0A => (c.flags[2]).zeroExtend 64
    | 0x0B => (c.flags[3]).zeroExtend 64
    | 0x0C => c.nonfinPos.zeroExtend 64
    | 0x0D => c.fpctl.zeroExtend 64
    | 0x0E => c.seed
    | 0x0F => c.srStream.zeroExtend 64
    | 0x10 => c.qs.sse
    | 0x11 => c.qs.maxabs.zeroExtend 64
    | 0x12 => c.qs.nelem.zeroExtend 64
    | 0x13 => c.qs.nblk.zeroExtend 64
    | 0x14 => c.qs.nzblk.zeroExtend 64
    | 0x15 => c.qs.nsatblk.zeroExtend 64
    | 0x16 => c.qs.nnfblk.zeroExtend 64
    | 0x17 => c.qs.nout.zeroExtend 64
    | 0x18 => c.qs.nodrop.zeroExtend 64
    | 0x19 => c.accCtl.zeroExtend 64
    | 0x58 => c.vecLast.zeroExtend 64
    | 0x59 => c.chkResidue
    | _ => 0

/-- The queues that a write of a special register enters (R222); none when it takes effect at issue or is ignored. -/
def srQueues (i : BitVec 8) : List QueueId :=
  match i.toNat with
  | 0x08 => [.mac]
  | 0x09 => [.acc]
  | 0x0A => [.vec]
  | 0x0B => [.qnt]
  | 0x0D => [.mac, .acc, .vec, .qnt, .dma, .coll]
  | 0x19 => [.acc]
  | n => if 0x10 ≤ n ∧ n ≤ 0x18 then [.qnt] else []

/-- RMODE after a write of FPCTL: DYN and the reserved values leave it (R87). -/
def rmodeWrite (old : BitVec 3) (v : Word) : BitVec 3 :=
  let m := v.extractLsb' 0 3
  if 5 ≤ m.toNat then old else m

/-- The effect of a write of a special register on the core, by the access type of each field (R10, R222). RO registers
ignore it. For FPCTL this is the register's own value; the copy that each queue sees is written by its entry. -/
def Core.mtsr (c : Core) (i : BitVec 8) (v : Word) : Core :=
  match i.toNat with
  | 0x07 => { c with waitLimit := if v.extractLsb' 0 32 < 0x10000#32 then 0x10000 else v.extractLsb' 0 32 }
  | 0x08 => c.clearFlags .mac (v.extractLsb' 0 16)
  | 0x09 => c.clearFlags .acc (v.extractLsb' 0 16)
  | 0x0A => c.clearFlags .vec (v.extractLsb' 0 16)
  | 0x0B => c.clearFlags .qnt (v.extractLsb' 0 16)
  | 0x0D => { c with fpctl := rmodeWrite c.fpctl v }
  | 0x0E => { c with seed := v }
  | 0x0F => { c with srStream := v.extractLsb' 0 32 }
  | 0x10 => { c with qs := { c.qs with sse := v } }
  | 0x11 => { c with qs := { c.qs with maxabs := v.extractLsb' 0 32 } }
  | 0x12 => { c with qs := { c.qs with nelem := v.extractLsb' 0 48 } }
  | 0x13 => { c with qs := { c.qs with nblk := v.extractLsb' 0 32 } }
  | 0x14 => { c with qs := { c.qs with nzblk := v.extractLsb' 0 32 } }
  | 0x15 => { c with qs := { c.qs with nsatblk := v.extractLsb' 0 32 } }
  | 0x16 => { c with qs := { c.qs with nnfblk := v.extractLsb' 0 32 } }
  | 0x17 => { c with qs := { c.qs with nout := v.extractLsb' 0 32 } }
  | 0x18 => { c with qs := { c.qs with nodrop := v.extractLsb' 0 32 } }
  | 0x19 =>
    let n := v.extractLsb' 0 17
    if 16 ≤ n.toNat ∧ n.toNat ≤ 65536 then { c with accCtl := n } else c
  | 0x59 => { c with chkResidue := v }
  | _ => c

/-- A counter field that saturates. -/
def satAdd (max n k : Nat) : Nat := min max (n + k)

/-- Counts residue mismatches, an escalation and core parity errors in CHK_RESIDUE (R151). -/
def Core.countChecks (c : Core) (det esc par : Nat) : Core :=
  let v := c.chkResidue.toNat
  { c with chkResidue := BitVec.ofNat 64 (satAdd (2 ^ 32 - 1) (bits v 0 32) det + 2 ^ 32 * satAdd 255 (bits v 32 8) esc
      + 2 ^ 40 * satAdd (2 ^ 24 - 1) (bits v 40 24) par) }

end Sys2Proof.Machine
end

