-- ==== Sys2Proof/Machine/Quant.lean ====
section
/-! DEFINITION. Codes, scales and statistics (04): codebook pairs (R68, R69), encoding of 128-element groups (R96 to R103),
the statistics (R105 to R107) and the adaptation of a scale record (R111, R112). Every step is exact but for the roundings
that R96 names. -/
namespace Sys2Proof.Machine

/-! ### Codebook pairs (R68 to R70) -/

/-- The format of the table that width w uses (R68). -/
def cbFmt (cb : Memory) (w : Nat) : FpFmt :=
  if (if w ≤ 4 then (cb.read8 0).getLsbD 0 else (cb.read8 0).getLsbD 1) then e5m2 else e4m3

/-- Entry c of the table that width w uses (R65), as a byte. -/
def cbByte (cb : Memory) (w c : Nat) : Byte := if w ≤ 4 then cb.read8 (0x10 + c) else cb.read8 (0x20 + c)

/-- Entry c as a value. -/
def cbEntry (cb : Memory) (w c : Nat) : FVal := decodeFp (cbFmt cb w) (cbByte cb w c).toNat

/-- The width-w prefix (R70) as exact values with their codes. -/
def cbPrefix (cb : Memory) (w : Nat) : List (Nat × Rat) :=
  (List.range (2 ^ w)).map fun c => (c, (cbEntry cb w c).toRat)

/-- CB_SCALE as a pattern. -/
def cbScaleBits (cb : Memory) : Nat := cb.readLe 4 4

/-- The scale s; a slot that nothing has loaded has none. -/
def cbScale (cb : Memory) : Rat :=
  if cbScaleBits cb = 0 then Config.unloadedScale else (decodeFp fp32 (cbScaleBits cb)).toRat

/-- A pattern that an entry other than entry 0 may hold (R69): finite and non-zero. -/
def cbValueOk (f : FpFmt) (x : Nat) : Bool :=
  let v := decodeFp f x
  !v.isNonfin && !v.isZero

/-- How many different values a table can hold: +0 and the finite non-zero values of its format, 253 of E4M3, 247 of E5M2. -/
def cbValues (f : FpFmt) : Nat := 1 + ((List.range 256).filter (cbValueOk f)).length

/-- No two of the numbers are the same. -/
def distinct : List Nat → Bool
  | [] => true
  | a :: l => l.all (a != ·) && distinct l

/-- One table is valid (R69): entry 0 is 0x00, the others are finite and non-zero, and no two have the same value. No format
has 256 permitted values, so a 256-entry table cannot meet the last condition. It is held to it for as many entries as the
format has values (log 145, DESIGN CHOICE). -/
def cbTableOk (f : FpFmt) (t : List Byte) : Bool :=
  match t with
  | [] => false
  | z :: rest => z == 0 && rest.all (fun b => cbValueOk f b.toNat) && distinct ((t.take (cbValues f)).map (·.toNat))

/-- A codebook pair of 288 bytes is valid (R69). -/
def cbOk (b : List Byte) : Bool :=
  let ctrl := ofLe (b.take 4)
  let scale := decodeFp fp32 (ofLe ((b.drop 4).take 4))
  let f (bit : Nat) : FpFmt := if ctrl.testBit bit then e5m2 else e4m3
  decide (ctrl < 4) && !scale.isNonfin && decide (0 < scale.toRat) && ((b.drop 8).take 8).all (· == 0)
    && cbTableOk (f 0) ((b.drop 16).take 16) && cbTableOk (f 1) ((b.drop 32).take 256)

/-! ### Block headers (R62, R67) -/

/-- A block header (R62). -/
def hdrWord (bexp wcode nout : Nat) : Nat := bexp * 2 ^ 8 + wcode * 2 ^ 5 + nout * 2 ^ 3
def hdrBexp (h : Nat) : Nat := bits h 8 8
def hdrWidth (h : Nat) : Nat := bits h 5 3 + 1
def hdrNout (h : Nat) : Nat := bits h 3 2

/-- The header checks of R67, and of R123 for a raw FP8 stream. -/
def hdrOk (d : Desc) (h : Nat) : Bool :=
  hdrNout h != 3 && h % 8 == 0 && decide (hdrWidth h ≤ d.sw + 1) &&
    (d.fmt == 9 || (hdrWidth h == 8 && hdrNout h == 0))

/-- Header k of a stream. -/
def streamHdr (m : Memory) (d : Desc) (k : Nat) : Nat := m.readLe (d.hdr + 2 * k) 2

/-! ### Encoding (R94 to R103) -/

/-- The parameters of `qnt.encode` and of a CODES drain (R94). -/
structure EncParams where
  cb     : Memory
  rot    : Bool
  widths : List Nat      -- width of each block in order
  nmax   : Nat
  ksh    : Nat
  bspan  : Nat
  sr     : Bool
  seed   : BitVec 64
  stream : BitVec 32

/-- What an encoding has built so far: the destination memory, the side entries written, the statistics and flags. -/
structure EncState where
  mem   : Memory
  nside : Nat
  qs    : QStats
  flags : Flags

/-- Sign of the Hadamard matrix (R96). -/
def hadNeg (i j : Nat) : Bool := (List.range 7).foldl (fun b k => b != (i.testBit k && j.testBit k)) false

/-- One rotated element (R97): the exact signed sum, rounded once to FP32 with RNE. -/
def rotElem (x : List FVal) (i : Nat) : FVal × Flags :=
  let signed := x.zipIdx.map fun (v, j) => if hadNeg i j then negV v else v
  let exact := signed.foldl (fun acc v => (addV .rne acc v).1) (.num false 0)
  let (b, fl) := roundRne fp32 exact
  (decodeFp fp32 b, fl)

/-- The rotation of each group of 128 (R97); the input where ROT is 0. -/
def rotate (rot : Bool) : Nat → List FVal → List FVal × Flags
  | 0, _ => ([], 0)
  | n + 1, xs =>
    if rot then
      let g := xs.take 128
      let ys := (List.range 128).map (rotElem g)
      let (rest, fl) := rotate rot n (xs.drop 128)
      (ys.map (·.1) ++ rest, ys.foldl (fun a y => a ||| y.2) fl)
    else (xs, 0)

/-- P and N of a prefix (R98): the largest and the smallest entry. -/
def prefixMax (es : List (Nat × Rat)) : Rat := es.foldl (fun m e => max m e.2) 0
def prefixMin (es : List (Nat × Rat)) : Rat := es.foldl (fun m e => min m e.2) 0

/-- Smallest integer x with m ≤ 2^(x - 127), for positive m. -/
def ceilLog2 (m : Rat) : Int :=
  let e := log2Ratio m.num.natAbs m.den
  if pow2 e = m then e else e + 1

/-- The block exponent of R98. -/
def blockExponent (vs : List Rat) (es : List (Nat × Rat)) (bspan : Nat) : Nat :=
  let P := prefixMax es
  let N := prefixMin es
  let m := vs.foldl (fun m v =>
    if 0 < v ∧ 0 < P then max m (v / P) else if v < 0 ∧ N < 0 then max m (v / N) else m) 0
  let lo : Int := 127 - bspan
  if m = 0 then lo.toNat else (min (max (ceilLog2 m + 127) lo) 127).toNat

def ratAbs (x : Rat) : Rat := if x < 0 then -x else x

/-- Code selection of R99 with RND = 0: the nearest entry, of two the one of smaller magnitude. -/
def selectNearest (es : List (Nat × Rat)) (u : Rat) : Nat :=
  match es with
  | [] => 0
  | e :: rest =>
    (rest.foldl (fun (best : Nat × Rat) e =>
      let d := ratAbs (u - e.2)
      let db := ratAbs (u - best.2)
      if d < db ∨ (d = db ∧ ratAbs e.2 < ratAbs best.2) then e else best) e).1

/-- Code selection of R99 with RND = 4 (stochastic). -/
def selectSr (es : List (Nat × Rat)) (u : Rat) (r : BitVec 16) : Nat :=
  match es with
  | [] => 0
  | e :: rest =>
    let big := rest.foldl (fun (b : Nat × Rat) e => if b.2 < e.2 then e else b) e
    let small := rest.foldl (fun (b : Nat × Rat) e => if e.2 < b.2 then e else b) e
    if big.2 ≤ u then big.1
    else if u < small.2 then small.1
    else
      let lo := (e :: rest).foldl (fun (b : Nat × Rat) e => if e.2 ≤ u ∧ b.2 < e.2 then e else b) small
      let hi := (e :: rest).foldl (fun (b : Nat × Rat) e => if u < e.2 ∧ e.2 < b.2 then e else b) big
      let q := (65536 * (u - lo.2) / (hi.2 - lo.2)).floor.toNat
      if 65536 ≤ q + r.toNat then hi.1 else lo.1

/-- The indices of a block by falling magnitude, of equals the lower index first (R102). -/
def byMagnitude (vs : List Rat) : List Nat :=
  (vs.zipIdx.mergeSort fun a b => decide (ratAbs b.1 < ratAbs a.1) ||
    (decide (ratAbs b.1 = ratAbs a.1) && decide (a.2 ≤ b.2))).map (·.2)

/-- How many outliers R102 asks for: the largest k ≤ NMAX with a_(k+1) > 0 and a_k > κ a_(k+1). -/
def outlierCount (mags : List Rat) (nmax ksh : Nat) : Nat :=
  let at_ (k : Nat) : Rat := mags.getD (k - 1) 0
  let okk (k : Nat) : Bool := decide (0 < at_ (k + 1)) && decide ((2 : Rat) ^ ksh * at_ (k + 1) < at_ k)
  if 2 ≤ nmax && okk 2 then 2 else if 1 ≤ nmax && okk 1 then 1 else 0

/-- A side list entry (R103). -/
def sideEntry (blk idx val : Nat) : Nat := blk % 2 ^ 32 * 2 ^ 32 + idx * 2 ^ 27 + val

/-- A block's payload of codes (R63). -/
def packCodes (w : Nat) (codes : List Nat) : Nat :=
  codes.foldr (fun c acc => c + 2 ^ w * acc) 0

def satInc32 (v : BitVec 32) (k : Nat) : BitVec 32 := BitVec.ofNat 32 (satAdd (2 ^ 32 - 1) v.toNat k)

/-- The block's sum of squared errors as an FP64 pattern (R106): the exact sum rounded once; infinite where an outlier has
rounded to a BF16 infinity. -/
def blockError (yb : List Rat) (dec : List FVal) (s : Rat) : Nat :=
  if dec.any FVal.isInf then encodeInf fp64 false
  else (roundMag fp64 .rne false false ((yb.zip dec).foldl (fun a p =>
    a + (s * p.2.toRat - p.1) * (s * p.2.toRat - p.1)) 0)).1

/-- A held QS_MAXABS lies below a magnitude: an infinity is above or below every one by its sign, a NaN, which software wrote,
counts as below (log 148, DESIGN CHOICE). -/
def maxabsBelow (old : FVal) (big : Rat) : Bool :=
  match old with
  | .num .. => decide (old.toRat < big)
  | .inf neg => neg
  | _ => true

/-- The statistics of one finite block (R105, R106). A |y| that is no FP32 value is rounded for QS_MAXABS with RNE (log 147,
DESIGN CHOICE), and where that gives an infinity it is the largest value from then on. -/
def addBlockStats (q : QStats) (yb : List Rat) (dec : List FVal) (s : Rat) (zblk sat : Bool) (nout ndrop : Nat) : QStats :=
  let e64 := blockError yb dec s
  let big := yb.foldl (fun m y => max m (ratAbs y)) 0
  { sse := BitVec.ofNat 64 (fpAdd fp64 .rne q.sse.toNat e64).1
    maxabs := if maxabsBelow (decodeFp fp32 q.maxabs.toNat) big then BitVec.ofNat 32 (roundMag fp32 .rne false false big).1 else q.maxabs
    nelem := BitVec.ofNat 48 (satAdd (2 ^ 48 - 1) q.nelem.toNat yb.length)
    nblk := satInc32 q.nblk 1
    nzblk := satInc32 q.nzblk (if zblk then 1 else 0)
    nsatblk := satInc32 q.nsatblk (if sat then 1 else 0)
    nnfblk := q.nnfblk
    nout := satInc32 q.nout nout
    nodrop := satInc32 q.nodrop ndrop }

/-- Writes block b of the output stream: its header and its slot of 4 × W bytes (R64). -/
def writeBlock (d : Desc) (m : Memory) (b h : Nat) (payload : Nat) : Memory :=
  (m.writeLe (d.hdr + 2 * b) 2 h).writeLe (d.pay + 4 * (d.sw + 1) * b) (4 * (d.sw + 1)) payload

/-- Encodes block b of the output stream (R96, R98 to R103). -/
def encodeBlock (p : EncParams) (d : Desc) (st : EncState) (b w : Nat) (yb : List FVal) : EncState :=
  if yb.any FVal.isNonfin then
    { st with
      mem := writeBlock d st.mem b (hdrWord 255 (w - 1) 0) 0
      qs := { st.qs with nblk := satInc32 st.qs.nblk 1, nnfblk := satInc32 st.qs.nnfblk 1 }
      flags := st.flags ||| fInvalid ||| fNonfin }
  else
    let s := cbScale p.cb
    let ys := yb.map FVal.toRat
    let vs := ys.map fun y => y / s
    let order := byMagnitude vs
    let want := outlierCount (order.map fun i => ratAbs (vs.getD i 0)) p.nmax p.ksh
    let n := min want (d.sideCap - st.nside)
    let out := order.take n
    let es := cbPrefix p.cb w
    let x := blockExponent ((vs.zipIdx.filter fun v => !out.contains v.2).map (·.1)) es p.bspan
    let scaled := vs.map fun v => v * pow2 (127 - (x : Int))
    let code (i : Nat) (u : Rat) : Nat :=
      if out.contains i then 0
      else if p.sr then selectSr es u (srBits p.seed p.stream (BitVec.ofNat 32 (32 * b + i)))
      else selectNearest es u
    let codes := scaled.zipIdx.map fun (u, i) => code i u
    let P := prefixMax es
    let N := prefixMin es
    let sat := scaled.zipIdx.any fun (u, i) =>
      !out.contains i && ((decide (0 < P) && decide (P < u)) || (decide (N < 0) && decide (u < N)))
    let oval (i : Nat) : Nat × Flags := roundRne bf16 (FVal.ofRat (vs.getD i 0))
    let outs := (List.range 32).filter out.contains
    let side := outs.map fun i => sideEntry b i (oval i).1
    let mem := (side.zipIdx).foldl (fun m (e, i) => Memory.writeLe m (d.side + 8 * (st.nside + i)) 8 e) st.mem
    let zblk := codes.all (· == 0) && n == 0 && ys.any (· != 0)
    let dec := codes.zipIdx.map fun (c, i) =>
      if out.contains i then decodeFp bf16 (oval i).1
      else FVal.ofRat ((es.getD c (0, 0)).2 * pow2 ((x : Int) - 127))
    { mem := writeBlock d mem b (hdrWord x (w - 1) n) (packCodes w codes)
      nside := st.nside + n
      qs := addBlockStats st.qs ys dec s zblk sat n (want - n)
      flags := st.flags ||| (if sat then fSat else 0) ||| (if zblk then fZblk else 0)
        ||| outs.foldl (fun a i => a ||| (oval i).2) 0 }

/-- Encodes consecutive blocks from block b. -/
def encodeBlocks (p : EncParams) (d : Desc) : List Nat → Nat → List FVal → EncState → EncState
  | [], _, _, st => st
  | w :: ws, b, ys, st => encodeBlocks p d ws (b + 1) (ys.drop 32) (encodeBlock p d st b w (ys.take 32))

/-- Encodes a whole input (R96). Also answers the first non-finite element after rotation, which a CODES drain records with
its own KIND (R86; log 149, DESIGN CHOICE: R86 does not say which element of a block of NaNs is recorded). -/
def encodeAll (p : EncParams) (d : Desc) (m : Memory) (qs : QStats) (x : List FVal) : EncState × Option (Nat × FVal) :=
  let (ys, fl) := rotate p.rot ((x.length + 127) / 128) x
  let st := encodeBlocks p d p.widths 0 ys ⟨m, 0, qs, fl⟩
  (st, (ys.zipIdx.find? fun y => y.1.isNonfin).map fun y => (y.2, y.1))

/-! ### The QNT instructions (R258 to R262): effects on a core -/

/-- The widths of an encode's blocks (R95): WIDTH, or the bytes of the width map. -/
def encodeWidths (c : Core) (e : QEntry) : List Nat :=
  let w := e.w
  let nb := (e.rd (fld w 39 4)).count / 32
  if w.getLsbD 26 then (c.ledge.readBytes (e.rd (fld w 31 4)).pay nb).map BitVec.toNat
  else List.replicate nb ((fld w 23 3).toNat + 1)

/-- The start checks of `qnt.encode` (R258, R259). A WIDTH above the slot width with WSRC 0 traps as a breach of R95 that names the output
descriptor (log 150, DEDUCED from R203 and R259). -/
def checkEncode (c : Core) (v : Env) (e : QEntry) : Except TrapC Unit := do
  let w := e.w
  let ds := fld w 39 4
  let dd := fld w 35 4
  let dw := fld w 31 4
  let src := e.rd ds
  let dst := e.rd dd
  need (1 ≤ src.fmt && src.fmt ≤ 3) (descTrap 0x1 ds)
  need (dst.fmt == fmtCODES) (descTrap 0x1 dd)
  checkStream c v ledgeOnly .source ds src
  checkStream c v ledgeOnly .result dd dst
  let rot := w.getLsbD 27
  need (src.count % (if rot then 128 else 32) == 0 && dst.count == src.count) (descTrap 0x4 ds)
  let nb := src.count / 32
  if w.getLsbD 26 then
    let m := e.rd dw
    need (m.fmt == 13) (descTrap 0x1 dw)
    checkStream c v ledgeOnly .source dw m
    need (m.count == nb) (descTrap 0x4 dw)
    need ((encodeWidths c e).all fun x => 1 ≤ x && x ≤ dst.sw + 1) (descTrap 0xC dw)
  else need ((fld w 23 3).toNat + 1 ≤ dst.sw + 1) (descTrap 0x4 dd)

/-- What `qnt.encode` does (R96, R258). -/
def doEncode (c : Core) (e : QEntry) : Core :=
  let w := e.w
  let src := e.rd (fld w 39 4)
  let dst := e.rd (fld w 35 4)
  let f := (fmtFp src.fmt).getD fp32
  let xs := (List.range src.count).map fun i => decodeFp f (streamElem c.ledge src i)
  let p : EncParams :=
    { cb := c.cb[(fld w 28 3).toNat]'(fld w 28 3).isLt, rot := w.getLsbD 27, widths := encodeWidths c e, nmax := (fld w 21 2).toNat,
      ksh := (fld w 18 3).toNat, bspan := (fld w 11 7).toNat, sr := fld w 8 3 == 4, seed := e.seed,
      stream := e.srStream + (fld w 0 8).zeroExtend 32 }
  let st := (encodeAll p dst c.ledge c.qs xs).1
  { c with ledge := st.mem, qs := st.qs }.addFlags .qnt st.flags

/-- `qnt.encode`: its checks, then its effect. -/
def effEncode (c : Core) (v : Env) (e : QEntry) : Except TrapC Core := do
  checkEncode c v e
  pure (doEncode c e)

/-- The codebook pair that `qnt.cbload` reads. -/
def cbloadPair (c : Core) (e : QEntry) : List Byte := c.ledge.readBytes (e.ledgeOff (fld e.w 35 5)) 288

/-- The start checks of `qnt.cbload` (R69, R260). -/
def checkCbload (c : Core) (e : QEntry) : Except TrapC Unit := do
  checkOff (e.ledgeOff (fld e.w 35 5)) 16 288
  need (cbOk (cbloadPair c e)) (dataTrap 0x6)

/-- What `qnt.cbload` does with the pair that it read at its start (R260). -/
def doCbload (c : Core) (e : QEntry) : Core :=
  { c with cb := c.cb.set (fld e.w 40 3).toNat (Memory.writeBytes [] 0 e.data) (fld e.w 40 3).isLt }

/-- `qnt.cbload`: its checks, then its effect. -/
def effCbload (c : Core) (e : QEntry) : Except TrapC Core := do
  checkCbload c e
  pure (doCbload c { e with data := cbloadPair c e })

/-- FP32 value of a scale record field. -/
def recF (m : Memory) (a : Nat) : FVal := decodeFp fp32 (m.readLe a 4)

/-- A scale record at an offset is valid (R111). -/
def recordOk (m : Memory) (a : Nat) : Bool :=
  let ctrl := m.readLe (a + 4) 4
  let okf (o : Nat) (lo : Rat) : Bool := let x := recF m (a + o); !x.isNonfin && decide (lo ≤ x.toRat)
  decide (ctrl < 2 ^ 13) && decide (bits ctrl 0 5 ≤ 16) && okf 0xC 1 && okf 0x10 0 && okf 0x14 0 && okf 0x18 0

/-- Text of R112: the smaller of |P| and |N| over the signs that the prefix holds. -/
def tableText (cb : Memory) (w : Nat) : Rat :=
  let es := cbPrefix cb w
  let P := prefixMax es
  let N := prefixMin es
  if P = 0 ∧ N = 0 then Config.unloadedText
  else if P = 0 then -N else if N = 0 then P else min P (-N)

/-- `a > b` of two FP32 values; false when a NaN takes part. -/
def fgt (a b : FVal) : Bool := !a.isNan && !b.isNan && !eqV a b && ltTotal b a

/-- The procedure of R112 on a record and a statistics block at ledge offsets: the memory with the record updated, and the
new CB_SCALE; none where R112 returns at once. The exponent comes from m_eff × margin / Text taken exactly (log 151, DEDUCED
from R112's comment). -/
def adapt (m : Memory) (rec_ st : Nat) (wide : Bool) (cb : Memory) : Option (Memory × Nat) :=
  let nnf := m.readLe (st + 0x24) 4
  let nblk := m.readLe (st + 0x18) 4
  let nelem := m.readLe (st + 0x10) 8
  if 0 < nnf ∨ nblk = 0 ∨ nelem = 0 then none
  else
    let mxB := m.readLe (st + 8) 4
    let sse := decodeFp fp64 (m.readLe st 8)
    let mse := decodeFp fp32 (finishFp fp32 .rne (divV sse (FVal.ofRat (nelem : Rat)))).1
    let satf : Rat := mkRat (m.readLe (st + 0x20) 4) nblk
    let zerof : Rat := mkRat (m.readLe (st + 0x1C) 4) nblk
    let ctrl := m.readLe (rec_ + 4) 4
    let hcount := bits ctrl 0 5
    let hptr := bits ctrl 5 4
    let wcomp := bits ctrl 10 3
    let mean := recF m (rec_ + 8)
    let mseOn := !wide && bits ctrl 9 1 == 0 && decide (4 ≤ hcount)
    let lim := decodeFp fp32 (finishFp fp32 .rne (mulV (recF m (rec_ + 0x18)) mean)).1
    let trigSat := decide ((recF m (rec_ + 0x10)).toRat < satf)
    let trig := trigSat || decide ((recF m (rec_ + 0x14)).toRat < zerof) || (mseOn && fgt mse lim)
    let mseB := (roundRne fp32 mse).1
    let (m1, hp, hc, meff) :=
      if trig then
        let m1 := (m.zeroFill (rec_ + 0x20) 64).writeLe (rec_ + 0x20) 4 mxB
        let m1 := if wide then m1 else m1.writeLe (rec_ + 8) 4 mseB
        let ad := m.readLe (rec_ + 0x1C) 4
        let m1 := m1.writeLe (rec_ + 0x1C) 4 (satAdd (2 ^ 32 - 1) ad 1)
        let mx := decodeFp fp32 mxB
        (m1, 1, 1, if trigSat then decodeFp fp32 (finishFp fp32 .rne (mulV (FVal.ofRat 2) mx)).1 else mx)
      else
        let m1 := m.writeLe (rec_ + 0x20 + 4 * hptr) 4 mxB
        let hp := (hptr + 1) % 16
        let hc := min (hcount + 1) 16
        let recent := (List.range hc).map fun i => recF m1 (rec_ + 0x20 + 4 * ((hp + 15 - i) % 16))
        let meff := recent.foldl (fun a b => if ltTotal a b then b else a) (.num false 0)
        let upd :=
          if mean.isZero then mseB
          else
            let dif := (finishFp fp32 .rne (subV .rne mse mean)).1
            let sixteenth := (finishFp fp32 .rne (divV (decodeFp fp32 dif) (FVal.ofRat 16))).1
            (finishFp fp32 .rne (addV .rne mean (decodeFp fp32 sixteenth))).1
        (if wide then m1 else m1.writeLe (rec_ + 8) 4 upd, hp, hc, meff)
    let text := tableText cb (wcomp + 1)
    let curB :=
      match meff with
      | .inf false => (roundMag fp32 .rne false false (pow2 127)).1
      | .num false mag =>
        if mag = 0 then m.readLe rec_ 4
        else
          let x := mag * (recF m (rec_ + 0xC)).toRat / text
          let ex := if 0 < x then ceilLog2 x else -126
          (roundMag fp32 .rne false false (pow2 (min (max ex (-126)) 127))).1
      | _ => m.readLe rec_ 4
    let ctrl' := hc + hp * 2 ^ 5 + (if wide then 2 ^ 9 else 0) + wcomp * 2 ^ 10
    some ((m1.writeLe rec_ 4 curB).writeLe (rec_ + 4) 4 ctrl', curB)

/-- The start checks of `qnt.adapt` (R261). -/
def checkAdapt (c : Core) (e : QEntry) : Except TrapC Unit := do
  let rr := e.ledgeOff (fld e.w 38 5)
  let rs := e.ledgeOff (fld e.w 33 5)
  let rcb := e.ledgeOff (fld e.w 28 5)
  need (rr % 32 == 0 && rs % 8 == 0 && rcb % 16 == 0) (dataTrap 0x3)
  need (rr + 96 ≤ ledgeSize && rs + 48 ≤ ledgeSize && rcb + 288 ≤ ledgeSize) (dataTrap 0x2)
  c.notReadOnly [(rr, 96), (rcb + 4, 4)] 0xF
  need (recordOk c.ledge rr) (dataTrap 0xA)

/-- The scale record and the statistics block that `qnt.adapt` reads. -/
def adaptInput (c : Core) (e : QEntry) : List Byte :=
  c.ledge.readBytes (e.ledgeOff (fld e.w 38 5)) 96 ++ c.ledge.readBytes (e.ledgeOff (fld e.w 33 5)) 48

/-- The ledge bytes that an entry reads at its start and keeps until it completes (R260, R261). -/
def QEntry.atStart (e : QEntry) (c : Core) : List Byte :=
  match e.op with
  | .qntCbload => cbloadPair c e
  | .qntAdapt => adaptInput c e
  | _ => []

/-- What `qnt.adapt` does with the record and the block that it read at its start (R112, R261). R112 runs on a copy that holds the
record at offset 0 and the block at offset 96. -/
def doAdapt (c : Core) (e : QEntry) : Core :=
  let rr := e.ledgeOff (fld e.w 38 5)
  let rcb := e.ledgeOff (fld e.w 28 5)
  let k := fld e.w 25 3
  let cb := c.cb[k.toNat]'k.isLt
  match adapt (Memory.writeBytes [] 0 e.data) 0 96 (e.w.getLsbD 24) cb with
  | none => c
  | some (m, cur) => { c with ledge := (c.ledge.writeBytes rr (m.readBytes 0 96)).writeLe (rcb + 4) 4 cur, cb := c.cb.set k.toNat (cb.writeLe 4 4 cur) k.isLt }

/-- `qnt.adapt`: its checks, then its effect. -/
def effAdapt (c : Core) (e : QEntry) : Except TrapC Core := do
  checkAdapt c e
  pure (doAdapt c { e with data := adaptInput c e })

/-- The 48-byte statistics block (R107, R262). -/
def statsBlock (q : QStats) : List Byte :=
  leBytes 8 q.sse.toNat ++ leBytes 8 q.maxabs.toNat ++ leBytes 8 q.nelem.toNat ++ leBytes 4 q.nblk.toNat
    ++ leBytes 4 q.nzblk.toNat ++ leBytes 4 q.nsatblk.toNat ++ leBytes 4 q.nnfblk.toNat ++ leBytes 4 q.nout.toNat
    ++ leBytes 4 q.nodrop.toNat

/-- The start checks of `qnt.sdump` (R262). -/
def checkSdump (c : Core) (e : QEntry) : Except TrapC Unit := do
  let a := e.ledgeOff (fld e.w 38 5)
  checkOff a 8 48
  c.ledgeWritable [(a, 48)] 0xF

/-- What `qnt.sdump` does (R262). -/
def doSdump (c : Core) (e : QEntry) : Core :=
  { c with ledge := c.ledge.writeBytes (e.ledgeOff (fld e.w 38 5)) (statsBlock c.qs), qs := QStats.reset }

/-- `qnt.sdump`: its checks, then its effect. -/
def effSdump (c : Core) (e : QEntry) : Except TrapC Core := do
  checkSdump c e
  pure (doSdump c e)

end Sys2Proof.Machine
end

