-- ==== Sys2Proof/Machine/Array.lean ====
section
/-! DEFINITION. The array and the accumulator tiles (05; 09 R240 to R250): expansion, weight buffers, the column step, the
stochastic and the Fixed-Rope accumulate, preload, correction lists, spills and drains, as effects on a core. -/
namespace Sys2Proof.Machine

/-! ### Expansion (R65, R123 to R126) -/

/-- The FP8 byte of element i of an expandable stream, and whether it is E5M2 (R125). -/
def expandByte (m : Memory) (d : Desc) (cb : Memory) (i : Nat) : Byte × Bool :=
  if d.fmt = 9 then
    let k := i / 32
    let w := hdrWidth (streamHdr m d k)
    let slot := m.readLe (d.pay + 4 * (d.sw + 1) * k) (4 * w)
    let code := bits slot (w * (i % 32)) w
    (cbByte cb w code, decide (cbFmt cb w = e5m2))
  else (m.read8 (d.pay + i), d.fmt == 11)

/-- An expanded element with its block exponent applied (R65, R126). -/
def elemValue (b : Byte) (e5 : Bool) (x : Nat) : FVal :=
  match e8m0 x with
  | none => defaultNan
  | some s =>
    match decodeFp (if e5 then e5m2 else e4m3) b.toNat with
    | .num n mag => .num n (mag * s)
    | v => v

/-- Element i of an expandable stream (R125). -/
def expandElem (m : Memory) (d : Desc) (cb : Memory) (i : Nat) : FVal :=
  let (b, e5) := expandByte m d cb i
  elemValue b e5 (hdrBexp (streamHdr m d (i / 32)))

/-- Formats the array accepts (R123). -/
def expandable (d : Desc) : Bool := d.fmt == 9 || d.fmt == 10 || d.fmt == 11

/-- The headers of blocks k0 to k0 + n - 1 pass R67 and R123. -/
def hdrsOk (m : Memory) (d : Desc) (k0 n : Nat) : Bool := (List.range n).all fun i => hdrOk d (streamHdr m d (k0 + i))

/-! ### Weight buffers (R127, R128, R240, R241) -/

/-- The start checks of `mac.wload` (R241). -/
def checkWload (c : Core) (v : Env) (e : QEntry) : Except TrapC Unit := do
  let w := e.w
  let ds := fld w 38 4
  let d := e.rd ds
  need (expandable d) (descTrap 0x1 ds)
  checkStream c v ledgeOnly .source ds d
  let k := (e.rg (fld w 30 5)).toNat
  need (d.count % 16384 == 0 && decide (k < d.count / 16384)) (descTrap 0x4 ds)
  need (hdrsOk c.ledge d (512 * k) 512) (descTrap 0x5 ds)

/-- What `mac.wload` does (R240). -/
def doWload (c : Core) (e : QEntry) : Core :=
  let w := e.w
  let d := e.rd (fld w 38 4)
  let k := (e.rg (fld w 30 5)).toNat
  let cb := c.cb[(fld w 35 3).toNat]'(fld w 35 3).isLt
  let elem (row col : Nat) : Byte × Bool := expandByte c.ledge d cb (32 * (512 * k + 4 * col + row / 32) + row % 32)
  let wb : WBuf :=
    { e := (List.range 16384).foldl (fun m i => KMap.set 0 m i (elem (i / 128) (i % 128)).1) []
      x := (List.range 512).foldl (fun m b => KMap.set 0 m b (BitVec.ofNat 8 (hdrBexp (streamHdr c.ledge d (512 * k + b))))) []
      e5 := (List.range 512).foldl (fun m b => KMap.set false m b (elem (32 * (b % 4)) (b / 4)).2) [] }
  { c with wb := c.wb.set (fld w 42 1).toNat wb (fld w 42 1).isLt }

/-- `mac.wload`: its checks, then its effect. -/
def effWload (c : Core) (v : Env) (e : QEntry) : Except TrapC Core := do
  checkWload c v e
  pure (doWload c e)

/-- The weight of row i and column j of a buffer, with its block exponent. -/
def WBuf.weight (b : WBuf) (i j : Nat) : FVal :=
  let blk := 4 * j + i / 32
  elemValue (KMap.get 0 b.e (128 * i + j)) (KMap.get false b.e5 blk) (KMap.get 0 b.x blk).toNat

/-! ### Column step (R126, R129) -/

/-- The exact products of a column. -/
def products (a : List FVal) (b : WBuf) (j : Nat) : List (FVal × Flags) :=
  a.zipIdx.map fun (v, i) => mulV v (b.weight i j)

/-- Rounds an exact sum of products once to FP32 with RNE (R126, R129): a NaN, or infinities of both signs, give the
default NaN with INVALID; an exact zero gives +0. -/
def columnStep (ps : List FVal) : Nat × Flags :=
  if ps.any FVal.isNan || (ps.contains (.inf true) && ps.contains (.inf false)) then (fp32.nanBits, fInvalid)
  else if ps.contains (.inf true) then (encodeInf fp32 true, 0)
  else if ps.contains (.inf false) then (encodeInf fp32 false, 0)
  else
    let z := ps.foldl (fun s p => s + p.toRat) 0
    if z = 0 then (0, 0) else roundRne fp32 (FVal.ofRat z)

/-! ### Accumulate (R132, R146, R148) -/

/-- One element of a standard tile: SR(element + value) (R132). A NaN operand gives the default NaN. -/
def accumulate (m : RMode) (el val : Nat) : Nat × Flags :=
  let a := decodeFp fp32 el
  let b := decodeFp fp32 val
  let (r, fl) := addV m a b
  if r.isNan then (fp32.nanBits, fl) else finishFp fp32 m (r, fl)

/-- The index of R81 for an accumulate. -/
def accIndex (t : BitVec 18) (row col : Nat) : Nat := t.toNat * 2 ^ 14 + row * 128 + col

/-- The non-finite marker of R146. -/
def frMarker : Int := -(2 ^ 127)
def frMax : Int := 2 ^ 127 - 1

/-- One term into a Fixed-Rope element (R146, R148). -/
def frAdd (anchor : Int) (V : Int) (term : FVal) : Int × Flags :=
  match term with
  | .num _ mag =>
    let x := term.toRat * pow2 (-anchor)
    let (i, ix) := roundToInt .rne x
    let big := decide (pow2 (anchor + 87) ≤ mag)
    let s := V + i
    let s' := if frMax < s then frMax else if s < -frMax then -frMax else s
    (if V = frMarker then frMarker else s', (if ix then fXrange ||| fInexact else 0) ||| (if big then fXrange else 0))
  | _ => (frMarker, fInvalid)

/-- The anchor exponent of a tile. -/
def Tile.A (t : Tile) : Int := toSigned 16 t.anchor.toNat

/-- Adds terms in order. -/
def frAddAll (anchor : Int) (V : Int) (ts : List FVal) : Int × Flags :=
  ts.foldl (fun (acc : Int × Flags) t => let (v, f) := frAdd anchor acc.1 t; (v, acc.2 ||| f)) (V, 0)

/-! ### Tile counters and spills (R131, R137, R139, R147) -/

/-- One tile step advances the counters (R131, R139, R147). -/
def Tile.advance (t : Tile) : Tile × Flags :=
  match t.mode with
  | .standard =>
    let full := decide (0x80000000 ≤ t.terms.toNat)
    ({ t with terms := BitVec.ofNat 32 (min 0x80000000 (t.terms.toNat + 128)), ssteps := t.ssteps + 1, t := t.t + 1 },
      if full then fLongsum else 0)
  | _ =>
    let full := decide (2 ^ 40 ≤ t.frTerms.toNat)
    ({ t with frTerms := BitVec.ofNat 41 (min (2 ^ 40) (t.frTerms.toNat + 128)) }, if full then fXrange else 0)

/-- A tile step would spill first (R137). -/
def Tile.mustSpill (t : Tile) : Bool := t.mode == .standard && t.ssteps == t.spillN

def Core.tile (c : Core) (n : Fin 16) : Tile := c.tiles[n]
def Core.setTile (c : Core) (n : Fin 16) (t : Tile) : Core := { c with tiles := c.tiles.set n t }

/-- Step 1 of a spill that entry e triggers (R137): the elements go to the spill engine and the tile restarts at +0. -/
def Core.spillStep (c : Core) (n : Fin 16) (e : QEntry) : Core :=
  let t := c.tile n
  { c.setTile n { t with elems := [], ssteps := 0 } with spills := c.spills ++ [⟨n, t.elems, e.op, e.iseq⟩] }

/-- The instruction that spills writes the spill area: not into a read-only section (R191; log 152, DESIGN CHOICE: the
preload that places the area does not trap, R245). -/
def Core.spillArea (c : Core) (n : Fin 16) : Except TrapC Unit :=
  if (c.tile n).spillBase then .ok () else c.notReadOnly [((c.tile n).spillAddr.toNat, 0x20000)] 0xF

/-- The four slots of the Fixed-Rope tile that holds slot n become FREE; a standard slot becomes FREE alone. A slot that is FREE, or a
member of a Fixed-Rope tile, keeps the counters of the tile that ended (log 177, DESIGN CHOICE). -/
def Core.endTile (c : Core) (n : Fin 16) : Core :=
  match (c.tile n).mode with
  | .fixedRope | .frMember =>
    { c with tiles := c.tiles.mapFinIdx fun i t _ => if i / 4 = n.val / 4 then { t with mode := .free } else t }
  | _ => c.setTile n { c.tile n with mode := .free }

/-- A tile slot that steps, lists, spills and drains may name (R144). -/
def Core.tileLive (c : Core) (n : Fin 16) : Bool :=
  let m := (c.tile n).mode
  m == .standard || m == .fixedRope

def tileOf (b : BitVec 4) : Fin 16 := ⟨b.toNat, b.isLt⟩

/-- The start checks of `mac.step` (R243). -/
def checkStep (c : Core) (v : Env) (e : QEntry) : Except TrapC Unit := do
  let w := e.w
  let n := tileOf (fld w 39 4)
  let row0 := (fld w 31 7).toNat
  let rows := (fld w 23 8).toNat
  let da := fld w 19 4
  let d := e.rd da
  need (expandable d) (descTrap 0x1 da)
  checkStream c v ledgeOnly .source da d
  let v0 := (e.rg (fld w 11 5)).toNat
  need (decide (1 ≤ rows) && decide (row0 + rows ≤ 128) && decide ((v0 + rows) * 128 ≤ d.count)) (descTrap 0x4 da)
  need (hdrsOk c.ledge d (4 * v0) (4 * rows)) (descTrap 0x5 da)
  need (c.tileLive n) (dataTrap 0x8)
  if (c.tile n).mustSpill then c.spillArea n else .ok ()

/-- What `mac.step` does (R131, R132, R242, R243). -/
def doStep (c : Core) (e : QEntry) : Core :=
  let w := e.w
  let n := tileOf (fld w 39 4)
  let row0 := (fld w 31 7).toNat
  let rows := (fld w 23 8).toNat
  let d := e.rd (fld w 19 4)
  let v0 := (e.rg (fld w 11 5)).toNat
  let c := if (c.tile n).mustSpill then c.spillStep n e else c
  let t := c.tile n
  let cb := c.cb[(fld w 16 3).toNat]'(fld w 16 3).isLt
  let wb := c.wb[(fld w 38 1).toNat]'(fld w 38 1).isLt
  let stream := e.srStream + (fld w 0 8).zeroExtend 32
  let std := t.mode == .standard
  let step (acc : Tile × Flags × Flags) (ij : Nat) : Tile × Flags × Flags :=
    let (t, fm, fa) := acc
    let i := ij / 128
    let j := ij % 128
    let row := row0 + i
    let a := (List.range 128).map fun k => expandElem c.ledge d cb (128 * (v0 + i) + k)
    let ps := (products a wb j).map (·.1)
    let key := 128 * row + j
    if std then
      let (z, f1) := columnStep ps
      let m : RMode := .sr (srBits e.seed stream (BitVec.ofNat 32 (accIndex t.t row j)))
      let (r, f2) := accumulate m (KMap.get 0 t.elems key).toNat z
      ({ t with elems := KMap.set 0 t.elems key (BitVec.ofNat 32 r) }, fm ||| f1, fa ||| f2)
    else
      let (V, f2) := frAddAll t.A (KMap.get 0 t.fr key) ps
      ({ t with fr := KMap.set 0 t.fr key V }, fm, fa ||| f2)
  let (t, fm, fa) := (List.range (128 * rows)).foldl step (t, 0, 0)
  let (t, fc) := t.advance
  ((c.setTile n t).addFlags .mac fm).addFlags .acc (fa ||| fc)

/-- `mac.step`: its checks, then its effect. -/
def effStep (c : Core) (v : Env) (e : QEntry) : Except TrapC Core := do
  checkStep c v e
  pure (doStep c e)

/-! ### Preload (R133, R136, R145, R244, R245) -/

/-- An element of a bias or residual stream, converted exactly to FP32 (R133): the bits of a BF16 value move up, so that a signalling NaN
stays one and no flag is set (log 178, DESIGN CHOICE). -/
def preElem (m : Memory) (d : Desc) (i : Nat) : Nat :=
  let b := streamElem m d i
  if d.fmt = 2 then b * 2 ^ 16 else b

/-- The checks of `acc.preload` (R136, R145, R245). -/
def checkPreload (c : Core) (v : Env) (e : QEntry) : Except TrapC Unit := do
  let w := e.w
  let n := tileOf (fld w 39 4)
  let src := (fld w 37 2).toNat
  let fr := w.getLsbD 36
  let ds := fld w 32 4
  let d := e.rd ds
  if src = 0 then pure () else do
    need (d.fmt == 1 || d.fmt == 2) (descTrap 0x1 ds)
    checkStream c v ledgeOnly .source ds d
    need (d.count == (if src = 1 then 128 else 16384)) (descTrap 0x4 ds)
  if fr then
    need (n.val % 4 == 0) (dataTrap 0x8)
    let A := toSigned 12 (fld w 14 12).toNat
    need (decide (-1200 ≤ A) && decide (A ≤ 1000)) (dataTrap 0x4)
  else
    let base := w.getLsbD 31
    let rs := fld w 26 5
    let a := if base then e.devAddr rs else e.ledgeOff rs
    let others := (List.range 16).filterMap fun i =>
      if h : i < 16 then
        let t := c.tile ⟨i, h⟩
        if i ≠ n.val ∧ t.mode = .standard ∧ t.spillBase = false then some (t.spillAddr.toNat, 0x20000) else none
      else none
    need (a % 8 == 0) (dataTrap 0x8)
    if base then need (v.user a 0x20000) (dataTrap 0x8)
    else need (decide (a + 0x20000 ≤ ledgeSize) && !anyOverlap [(a, 0x20000)] others) (dataTrap 0x8)

/-- What `acc.preload` does (R133, R145). -/
def doPreload (c : Core) (e : QEntry) : Core :=
  let w := e.w
  let n := tileOf (fld w 39 4)
  let src := (fld w 37 2).toNat
  let d := e.rd (fld w 32 4)
  let val (i : Nat) : Nat := if src = 0 then 0 else if src = 1 then preElem c.ledge d (i % 128) else preElem c.ledge d i
  if w.getLsbD 36 then
    let A := toSigned 12 (fld w 14 12).toNat
    let c := (List.range 4).foldl (fun (c : Core) i => if h : n.val + i < 16 then c.endTile ⟨n.val + i, h⟩ else c) c
    let res := (List.range 16384).foldl (fun (acc : KMap Int × Flags) i =>
      let (V, f) := frAdd A 0 (decodeFp fp32 (val i))
      (KMap.set 0 acc.1 i V, acc.2 ||| f)) ([], 0)
    let tiles := c.tiles.mapFinIdx fun i t _ =>
      if i = n.val then { t with mode := .fixedRope, elems := [], fr := res.1, terms := 0, t := 0, ssteps := 0, spilled := false,
                                 anchor := BitVec.ofInt 16 A, frTerms := 0 }
      else if i / 4 = n.val / 4 then { t with mode := .frMember } else t
    { c with tiles := tiles }.addFlags .acc res.2
  else
    let base := w.getLsbD 31
    let rs := fld w 26 5
    let a := if base then e.devAddr rs else e.ledgeOff rs
    let c := c.endTile n
    let elems := (List.range 16384).foldl (fun m i => KMap.set 0 m i (BitVec.ofNat 32 (val i))) []
    c.setTile n { c.tile n with mode := .standard, elems := if src = 0 then [] else elems, terms := 0, t := 0, ssteps := 0,
                                spillN := c.accCtl, spilled := false, spillBase := base, spillAddr := BitVec.ofNat 48 a }

/-- `acc.preload`: its checks, then its effect. -/
def effPreload (c : Core) (v : Env) (e : QEntry) : Except TrapC Core := do
  checkPreload c v e
  pure (doPreload c e)

/-! ### Correction lists (R134, R246) -/

/-- The element that a correction entry names (R134). -/
def saddKey (x : Nat) : Nat := 128 * bits x 39 7 + bits x 32 7

/-- The first k entries of a correction list. -/
def saddList (c : Core) (d : Desc) (k : Nat) : List Nat := (List.range k).map fun i => streamElem c.ledge d i

/-- The checks of `acc.sadd` (R134, R246). -/
def checkSadd (c : Core) (v : Env) (e : QEntry) : Except TrapC Unit := do
  let w := e.w
  let n := tileOf (fld w 39 4)
  let ds := fld w 35 4
  let d := e.rd ds
  need (d.fmt == fmtSADD) (descTrap 0x1 ds)
  checkStream c v ledgeOnly .source ds d
  let k := (e.rg (fld w 30 5)).toNat
  need (decide (k ≤ d.count)) (descTrap 0x4 ds)
  need (c.tileLive n) (dataTrap 0x8)
  let es := saddList c d k
  need (es.all (fun x => x / 2 ^ 46 == 0) && (es.map saddKey).Pairwise (· ≠ ·)) (descTrap 0xF ds)
  if (c.tile n).mustSpill then c.spillArea n else .ok ()

/-- What `acc.sadd` does (R134, R246). -/
def doSadd (c : Core) (e : QEntry) : Core :=
  let w := e.w
  let n := tileOf (fld w 39 4)
  let es := saddList c (e.rd (fld w 35 4)) (e.rg (fld w 30 5)).toNat
  let c := if (c.tile n).mustSpill then c.spillStep n e else c
  let stream := e.srStream + (fld w 0 8).zeroExtend 32
  let step (acc : Tile × Flags) (x : Nat) : Tile × Flags :=
    let (t, fa) := acc
    let key := saddKey x
    if t.mode = .standard then
      let m : RMode := .sr (srBits e.seed stream (BitVec.ofNat 32 (accIndex t.t (key / 128) (key % 128))))
      let (r, f) := accumulate m (KMap.get 0 t.elems key).toNat (bits x 0 32)
      ({ t with elems := KMap.set 0 t.elems key (BitVec.ofNat 32 r) }, fa ||| f)
    else
      let (V, f) := frAdd t.A (KMap.get 0 t.fr key) (decodeFp fp32 (bits x 0 32))
      ({ t with fr := KMap.set 0 t.fr key V }, fa ||| f)
  let (t, fa) := es.foldl step (c.tile n, 0)
  let (t, fc) := t.advance
  (c.setTile n t).addFlags .acc (fa ||| fc)

/-- `acc.sadd`: its checks, then its effect. -/
def effSadd (c : Core) (v : Env) (e : QEntry) : Except TrapC Core := do
  checkSadd c v e
  pure (doSadd c e)

/-! ### Spill, free, drain (R135, R137, R247 to R249) -/

/-- The checks of `acc.spill` (R144). -/
def checkSpill (c : Core) (e : QEntry) : Except TrapC Unit := do
  let n := tileOf (fld e.w 39 4)
  need ((c.tile n).mode == .standard) (dataTrap 0x8)
  if (c.tile n).ssteps = 0 then .ok () else c.spillArea n

/-- What `acc.spill` does (R137, R247). -/
def doSpill (c : Core) (e : QEntry) : Core :=
  let n := tileOf (fld e.w 39 4)
  if (c.tile n).ssteps = 0 then c else c.spillStep n e

/-- `acc.spill`: its checks, then its effect. -/
def effSpill (c : Core) (e : QEntry) : Except TrapC Core := do
  checkSpill c e
  pure (doSpill c e)

/-- The check of `acc.free` (R247). -/
def checkFree (c : Core) (e : QEntry) : Except TrapC Unit :=
  need ((c.tile (tileOf (fld e.w 39 4))).mode != .frMember) (dataTrap 0x8)

/-- What `acc.free` does (R247). -/
def doFree (c : Core) (e : QEntry) : Core :=
  let n := tileOf (fld e.w 39 4)
  if (c.tile n).mode = .free then c else c.endTile n

/-- `acc.free`: its check, then its effect. -/
def effFree (c : Core) (e : QEntry) : Except TrapC Core := do
  checkFree c e
  pure (doFree c e)

/-- Step 2 of the first waiting spill (R137): the first spill stores, later ones add with RNE. Answers the core, the device
memory and the flags. -/
def spillBackground (c : Core) (dev : Memory) : Core × Memory :=
  match c.spills with
  | [] => (c, dev)
  | j :: rest =>
    let t := c.tile j.tile
    let m0 := if t.spillBase then dev else c.ledge
    let a := t.spillAddr.toNat
    let (m1, fl) := (List.range 16384).foldl (fun (acc : Memory × Flags) i =>
      let x := fpConvert fp32 fp64 .rne false (KMap.get 0 j.elems i).toNat
      if t.spilled then
        let (s, f) := fpAdd fp64 .rne (acc.1.readLe (a + 8 * i) 8) x.1
        (acc.1.writeLe (a + 8 * i) 8 s, acc.2 ||| f)
      else (acc.1.writeLe (a + 8 * i) 8 x.1, acc.2)) (m0, 0)
    let c := ({ c with spills := rest }.setTile j.tile { t with spilled := true }).addFlags .acc fl
    if t.spillBase then (c, m1) else ({ c with ledge := m1 }, dev)

/-- The value a drain takes for element i (R135, R148), with the flags of the FP64 addition. -/
def drainValue (c : Core) (dev : Memory) (t : Tile) (i : Nat) : FVal × Flags :=
  if t.mode = .standard then
    let el := (KMap.get 0 t.elems i).toNat
    if t.spilled then
      let m := if t.spillBase then dev else c.ledge
      let (s, f) := finishFp fp64 .rne (addV .rne (decodeFp fp64 (m.readLe (t.spillAddr.toNat + 8 * i) 8)) (decodeFp fp32 el))
      (decodeFp fp64 s, f)
    else (decodeFp fp32 el, 0)
  else
    let V := KMap.get 0 t.fr i
    if V = frMarker then (defaultNan, 0) else (FVal.ofRat ((V : Rat) * pow2 t.A), 0)

/-- KIND of NONFIN_POS (R86). -/
def nonfinKind : FVal → BitVec 2
  | .inf false => 1
  | .inf true => 2
  | _ => 0

/-- The stream format that a DFMT requires (R249). -/
def drainFmt (dfmt : Nat) : Nat := if dfmt = 6 then 9 else if dfmt = 7 then 15 else dfmt

/-- The checks of `acc.drain` (R249). -/
def checkDrain (c : Core) (v : Env) (e : QEntry) : Except TrapC Unit := do
  let w := e.w
  let n := tileOf (fld w 39 4)
  let dd := fld w 35 4
  let d := e.rd dd
  let dfmt := (fld w 32 3).toNat
  let width := (fld w 20 3).toNat + 1
  need (d.fmt == drainFmt dfmt) (descTrap 0x1 dd)
  checkStream c v ledgeOnly .result dd d
  need (d.count == 16384 && (dfmt != 6 || decide (width ≤ d.sw + 1))) (descTrap 0x4 dd)
  need (c.tileLive n) (dataTrap 0x8)
  need (dfmt != 7 || (c.tile n).mode == .fixedRope) (dataTrap 0x8)

/-- What `acc.drain` does (R86, R135, R148, R248, R249). -/
def doDrain (c : Core) (v : Env) (e : QEntry) : Core :=
  let w := e.w
  let n := tileOf (fld w 39 4)
  let d := e.rd (fld w 35 4)
  let dfmt := (fld w 32 3).toNat
  let width := (fld w 20 3).toNat + 1
  let t := c.tile n
  let fr := t.mode == .fixedRope
  let rsel := if fr then .rne else rselOf (fld w 29 3) c.fpq[1]
  let stream := e.srStream + (fld w 0 8).zeroExtend 32
  let pos (i : Nat) (k : FVal) : BitVec 32 :=
    nonfinWord (nonfinKind k) (fld w 39 4) (BitVec.ofNat 7 (i / 128)) (BitVec.ofNat 7 (i % 128))
  let src := (List.range 16384).map fun i => drainValue c v.mem t i
  let fsrc : Flags := src.foldl (fun a x => a ||| x.2) 0
  let c' := if dfmt = 6 then
      let xs := src.map fun x => if fr then decodeFp fp32 (roundRne fp32 x.1).1 else x.1
      let f0 : Flags := if fr then src.foldl (fun a x => a ||| (roundRne fp32 x.1).2) 0 else 0
      let p : EncParams :=
        { cb := c.cb[(fld w 24 3).toNat]'(fld w 24 3).isLt, rot := w.getLsbD 23, widths := List.replicate 512 width,
          nmax := (fld w 18 2).toNat, ksh := (fld w 15 3).toNat, bspan := (fld w 8 7).toNat, sr := fld w 29 3 == 4,
          seed := e.seed, stream := stream }
      let (st, nf) := encodeAll p d c.ledge c.qs xs
      let c := { c with ledge := st.mem, qs := st.qs }.addFlags .acc ((st.flags &&& ~~~fNonfin) ||| f0 ||| fsrc)
      match nf with
        | some (i, k) => c.recordNonfin (pos i k)
        | none => c
    else if dfmt = 7 then
      let ledge := (List.range 16384).foldl (fun m i =>
        Memory.writeLe m (d.pay + 16 * i) 16 (ofSigned 128 (KMap.get 0 t.fr i))) c.ledge
      let nf := (List.range 16384).find? fun i => KMap.get 0 t.fr i = frMarker
      match nf with
        | some i => { c with ledge := ledge }.recordNonfin (pos i defaultNan)
        | none => { c with ledge := ledge }
    else
      let f := (fmtFp dfmt).getD fp32
      let outs : List (Nat × Flags) := src.zipIdx.map fun (x, i) => roundFp f (rsel.mode e.seed stream i) (w.getLsbD 28) x.1
      let ledge := outs.zipIdx.foldl (fun m (o, i) => Memory.writeLe m (d.pay + fmtSize d.fmt * i) (fmtSize d.fmt) o.1) c.ledge
      let c := { c with ledge := ledge }.addFlags .acc (outs.foldl (fun (a : Flags) (o : Nat × Flags) => a ||| o.2) fsrc)
      let nf := outs.zipIdx.find? fun o => (decodeFp f o.1.1).isNonfin
      match nf with
        | some (o, i) => c.recordNonfin (pos i (decodeFp f o.1))
        | none => c
  if w.getLsbD 27 then c' else c'.endTile n

/-- `acc.drain`: its checks, then its effect. -/
def effDrain (c : Core) (v : Env) (e : QEntry) : Except TrapC Core := do
  checkDrain c v e
  pure (doDrain c v e)

end Sys2Proof.Machine
end

