-- ==== Sys2Proof/Machine/Dma.lean ====
section
/-! DEFINITION. The DMA queue's transfers (08 R228 to R231, R235), the atomic adds of Base Camp (10 R277, R281) and the
counter word of 07 R189, as effects on a core and on device memory. -/
namespace Sys2Proof.Machine

/-! ### Atomic adds (R281) -/

/-- The conditions a region records (R281), as bits of BC_RGN_HI. -/
abbrev Conds := List (Nat × Nat)

/-- One atomic add by ADD_TYPE: the sum and the bits [18:16] of BC_RGN_HI to set. -/
def atomicAdd (ty old src : Nat) : Nat × List Nat :=
  match ty with
  | 1 | 2 =>
    let f := if ty = 1 then fp32 else fp64
    let (r, fl) := fpAdd f .rne old src
    (r, (if fl &&& fOverflow ≠ 0 then [16] else []) ++ (if (decodeFp f r).isNan then [17] else []))
  | _ =>
    let a := toSigned 128 old
    let b := toSigned 128 src
    if a = frMarker ∨ b = frMarker then (ofSigned 128 frMarker, [17])
    else
      let s := a + b
      if frMax < s then (ofSigned 128 frMax, [18])
      else if s < -frMax then (ofSigned 128 (-frMax), [18])
      else (ofSigned 128 s, [])

/-- The destination FMT that an ADD_TYPE requires (R277). -/
def addFmt (ty : Nat) : Nat := if ty = 1 then 1 else if ty = 2 then 0 else 15

/-- The result of a transfer: core, device memory and region conditions. -/
structure DmaRes where
  core  : Core
  mem   : Memory
  conds : Conds

/-- Reads n bytes in a space: 0 ledge, else device. -/
def readSpace (c : Core) (v : Env) (space a n : Nat) : List Byte :=
  if space = 0 then c.ledge.readBytes a n else v.mem.readBytes a n

/-- Stores bytes in a space. -/
def DmaRes.store (r : DmaRes) (space a : Nat) (bs : List Byte) : DmaRes :=
  if space = 0 then { r with core := { r.core with ledge := r.core.ledge.writeBytes a bs } }
  else { r with mem := r.mem.writeBytes a bs }

/-- Stores one element of `sz` bytes: plainly, or by the atomic add of the region it lies in (R277). -/
def DmaRes.storeElem (r : DmaRes) (v : Env) (space a sz val : Nat) : DmaRes :=
  if space = 0 then r.store 0 a (leBytes sz val)
  else
    match v.regionAt a with
    | some g =>
      if g.addType = 0 then r.store 1 a (leBytes sz val)
      else
        let (s, cs) := atomicAdd g.addType (r.mem.readLe a sz) val
        { r with mem := r.mem.writeLe a sz s, conds := r.conds ++ cs.map fun b => (g.idx, b) }
    | none => r.store 1 a (leBytes sz val)

/-- The regions that a device destination touches accept its format (R277). -/
def addTypesOk (v : Env) (d : Desc) (rs : List (Nat × Nat)) : Bool :=
  d.space != 1 || v.bc.all fun g =>
    g.addType == 0 || !anyOverlap rs [(g.lo, g.len)] || d.fmt == addFmt g.addType

def dmaSpaces : Spaces := ⟨true, true, false⟩

/-- The counter word of a DMA or COLL instruction: none when RC is g0 (R228, R263). -/
def counterOf (e : QEntry) (rc : BitVec 5) : Option Nat := if rc = 0 then none else some (e.devAddr rc)

/-- The checks of a counter word at start (R231). -/
def needCounter (v : Env) (k : Option Nat) : Except TrapC Unit :=
  match k with
  | none => .ok ()
  | some a => checkCounter v a

/-- The add into the counter word that ends a transfer (R189, R281): unsigned, modulo 2^64. -/
def addCounter (m : Memory) (k : Option Nat) (inc : Nat) : Memory :=
  match k with
  | none => m
  | some a => m.writeLe a 8 ((m.readLe a 8 + inc) % 2 ^ 64)

/-- A device destination lies in a region whose ADD_TYPE adds (R277). -/
def addsInto (v : Env) (d : Desc) (rs : List (Nat × Nat)) : Bool :=
  d.space == 1 && v.bc.any fun g => g.addType != 0 && anyOverlap rs [(g.lo, g.len)]

/-- The start checks of `dma.copy` (R231). -/
def checkCopy (c : Core) (v : Env) (e : QEntry) : Except TrapC Unit := do
  let ds := fld e.w 39 4
  let dd := fld e.w 35 4
  let s := e.rd ds
  let d := e.rd dd
  let k := counterOf e (fld e.w 29 5)
  need (s.fmt == d.fmt && s.sw == d.sw && s.count == d.count && s.sideCap == d.sideCap) (descTrap 0x1 dd)
  checkStream c v dmaSpaces .source ds s
  checkStream c v dmaSpaces .transfer dd d
  needCounter v k
  need (addTypesOk v d d.ranges) (descTrap 0x1 dd)
  need (s.space != d.space || !anyOverlap s.ranges d.ranges) (descTrap 0x9 dd)

/-- What `dma.copy` does (R229). -/
def doCopy (c : Core) (v : Env) (e : QEntry) : DmaRes :=
  let s := e.rd (fld e.w 39 4)
  let d := e.rd (fld e.w 35 4)
  let k := counterOf e (fld e.w 29 5)
  let r0 : DmaRes := ⟨c, v.mem, []⟩
  let r :=
    if addsInto v d d.ranges then
      let sz := fmtSize d.fmt
      let vals := (List.range d.count).map fun i => ofLe (readSpace c v s.space (s.pay + sz * i) sz)
      vals.zipIdx.foldl (fun (r : DmaRes) x => r.storeElem v 1 (d.pay + sz * x.2) sz x.1) r0
    else
      (s.ranges.zip d.ranges).foldl (fun (r : DmaRes) p => r.store d.space p.2.1 (readSpace c v s.space p.1.1 p.1.2)) r0
  { r with mem := addCounter r.mem k (fld e.w 21 8).toNat }

/-- `dma.copy`: its checks, then its effect. -/
def effCopy (c : Core) (v : Env) (e : QEntry) : Except TrapC DmaRes := do
  checkCopy c v e
  pure (doCopy c v e)

/-- The row start addresses of `dma.copy2d`. -/
def rowsAt (d : Desc) (stride rows : Nat) : List Nat := (List.range rows).map fun r => d.pay + r * stride

/-- The checks of one side of `dma.copy2d` on every row (R231). -/
def checkRows (c : Core) (v : Env) (u : StreamUse) (dn : BitVec 4) (d : Desc) (rows : List Nat) (n : Nat) : Except TrapC Unit := do
  need (rows.all fun a => a % fmtAlign d.fmt == 0) (descTrap 0x3 dn)
  let rs := rows.map fun a => (a, n)
  if d.space = 0 then
    need (rs.all fun r => r.1 + r.2 ≤ ledgeSize) (descTrap 0x2 dn)
    c.mayWrite u rs dn
  else need (rs.all fun r => v.granted r.1 r.2) (descTrap 0x2 dn)

/-- No two of the ranges share a byte. -/
def disjointAll : List (Nat × Nat) → Bool
  | [] => true
  | r :: rs => !anyOverlap [r] rs && disjointAll rs

/-- The start checks of `dma.copy2d` (R231). -/
def checkCopy2d (c : Core) (v : Env) (e : QEntry) : Except TrapC Unit := do
  let ds := fld e.w 39 4
  let dd := fld e.w 35 4
  let s := e.rd ds
  let d := e.rd dd
  let k := counterOf e (fld e.w 29 5)
  need (s.fmt == d.fmt && s.sw == d.sw && s.count == d.count && s.sideCap == d.sideCap && fmtPlain s.fmt) (descTrap 0x1 dd)
  checkStream c v dmaSpaces .source ds s
  checkStream c v dmaSpaces .transfer dd d
  needCounter v k
  let rows := (e.rg (fld e.w 16 5)).toNat
  need (decide (1 ≤ rows) && decide (rows ≤ 2 ^ 20)) (dataTrap 0x4)
  let n := s.count * fmtSize s.fmt
  let srows := rowsAt s (e.devAddr (fld e.w 11 5)) rows
  let drows := rowsAt d (e.devAddr (fld e.w 6 5)) rows
  checkRows c v .source ds s srows n
  checkRows c v .transfer dd d drows n
  let dr := drows.map fun a => (a, n)
  need (addTypesOk v d dr) (descTrap 0x1 dd)
  need (disjointAll dr && (s.space != d.space || !anyOverlap (srows.map fun a => (a, n)) dr)) (descTrap 0x9 dd)

/-- What `dma.copy2d` does (R229). -/
def doCopy2d (c : Core) (v : Env) (e : QEntry) : DmaRes :=
  let s := e.rd (fld e.w 39 4)
  let d := e.rd (fld e.w 35 4)
  let k := counterOf e (fld e.w 29 5)
  let rows := (e.rg (fld e.w 16 5)).toNat
  let srows := rowsAt s (e.devAddr (fld e.w 11 5)) rows
  let drows := rowsAt d (e.devAddr (fld e.w 6 5)) rows
  let r0 : DmaRes := ⟨c, v.mem, []⟩
  let sz := fmtSize d.fmt
  let r := (srows.zip drows).foldl (fun (r : DmaRes) p =>
    (List.range s.count).foldl (fun (r : DmaRes) i =>
      r.storeElem v d.space (p.2 + sz * i) sz (ofLe (readSpace c v s.space (p.1 + sz * i) sz))) r) r0
  { r with mem := addCounter r.mem k (fld e.w 21 8).toNat }

/-- `dma.copy2d`: its checks, then its effect. -/
def effCopy2d (c : Core) (v : Env) (e : QEntry) : Except TrapC DmaRes := do
  checkCopy2d c v e
  pure (doCopy2d c v e)

/-- The start checks of `dma.fill` (R231). -/
def checkFill (c : Core) (v : Env) (e : QEntry) : Except TrapC Unit := do
  let dd := fld e.w 35 4
  let d := e.rd dd
  let k := counterOf e (fld e.w 29 5)
  need (fmtPlain d.fmt) (descTrap 0x1 dd)
  checkStream c v dmaSpaces .transfer dd d
  needCounter v k

/-- What `dma.fill` does (R229): stores plainly whatever the region's ADD_TYPE (R277). -/
def doFill (c : Core) (v : Env) (e : QEntry) : DmaRes :=
  let d := e.rd (fld e.w 35 4)
  let k := counterOf e (fld e.w 29 5)
  let val := (e.rg (fld e.w 16 5)).toNat
  let sz := fmtSize d.fmt
  let bs := ((List.range d.count).map fun _ => leBytes sz val).flatten
  let r := (DmaRes.mk c v.mem []).store d.space d.pay bs
  { r with mem := addCounter r.mem k (fld e.w 21 8).toNat }

/-- `dma.fill`: its checks, then its effect. -/
def effFill (c : Core) (v : Env) (e : QEntry) : Except TrapC DmaRes := do
  checkFill c v e
  pure (doFill c v e)

/-- The start checks of `chk.sig` (R235). -/
def checkSig (c : Core) (v : Env) (e : QEntry) : Except TrapC Unit := do
  let ds := fld e.w 39 4
  let s := e.rd ds
  checkStream c v dmaSpaces .source ds s
  let a := e.ledgeOff (fld e.w 33 5)
  checkOff a 4 4
  c.ledgeWritable [(a, 4)] 0xF
  need (s.space != 0 || !anyOverlap s.ranges [(a, 4)]) (descTrap 0x9 ds)

/-- What `chk.sig` does (R235): CRC-32C of the stream's bytes to the ledge. -/
def doSig (c : Core) (v : Env) (e : QEntry) : DmaRes :=
  let s := e.rd (fld e.w 39 4)
  let bs := (s.ranges.map fun r => readSpace c v s.space r.1 r.2).flatten
  let crc := crc32c ((e.rg (fld e.w 28 5)).extractLsb' 0 32) bs
  (DmaRes.mk c v.mem []).store 0 (e.ledgeOff (fld e.w 33 5)) (leBytes 4 crc.toNat)

/-- `chk.sig`: its checks, then its effect. -/
def effSig (c : Core) (v : Env) (e : QEntry) : Except TrapC DmaRes := do
  checkSig c v e
  pure (doSig c v e)

end Sys2Proof.Machine
end

