-- ==== Sys2Proof/Machine/Crypto.lean ====
section
/-! DEFINITION. The published standards of 00 R11 in the parts that 11, 13, 15 and 19 use: SHA-256 (FIPS 180-4), HMAC (FIPS 198-1) and
HKDF (RFC 5869), AES-256 (FIPS 197) with GCM (SP 800-38D), XTS (IEEE 1619) and CMAC (SP 800-38B), HSS/LMS (RFC 8554) and ML-KEM-1024
(FIPS 203). Inputs and outputs are bytes as they lie in their objects. Keys and random seeds come from `Config` (log 8). -/
namespace Sys2Proof.Machine

/-- Exclusive or of two byte strings, as long as the shorter. -/
def xorBytes (a b : List Byte) : List Byte := List.zipWith (· ^^^ ·) a b

/-! ### SHA-256 -/

/-- The constants of SHA-256 (FIPS 180-4, 4.2.2). -/
def shaK : List (BitVec 32) :=
  [0x428A2F98, 0x71374491, 0xB5C0FBCF, 0xE9B5DBA5, 0x3956C25B, 0x59F111F1, 0x923F82A4, 0xAB1C5ED5] ++
  [0xD807AA98, 0x12835B01, 0x243185BE, 0x550C7DC3, 0x72BE5D74, 0x80DEB1FE, 0x9BDC06A7, 0xC19BF174] ++
  [0xE49B69C1, 0xEFBE4786, 0xFC19DC6, 0x240CA1CC, 0x2DE92C6F, 0x4A7484AA, 0x5CB0A9DC, 0x76F988DA] ++
  [0x983E5152, 0xA831C66D, 0xB00327C8, 0xBF597FC7, 0xC6E00BF3, 0xD5A79147, 0x6CA6351, 0x14292967] ++
  [0x27B70A85, 0x2E1B2138, 0x4D2C6DFC, 0x53380D13, 0x650A7354, 0x766A0ABB, 0x81C2C92E, 0x92722C85] ++
  [0xA2BFE8A1, 0xA81A664B, 0xC24B8B70, 0xC76C51A3, 0xD192E819, 0xD6990624, 0xF40E3585, 0x106AA070] ++
  [0x19A4C116, 0x1E376C08, 0x2748774C, 0x34B0BCB5, 0x391C0CB3, 0x4ED8AA4A, 0x5B9CCA4F, 0x682E6FF3] ++
  [0x748F82EE, 0x78A5636F, 0x84C87814, 0x8CC70208, 0x90BEFFFA, 0xA4506CEB, 0xBEF9A3F7, 0xC67178F2]

/-- The eight working variables. -/
structure ShaState where
  a : BitVec 32
  b : BitVec 32
  c : BitVec 32
  d : BitVec 32
  e : BitVec 32
  f : BitVec 32
  g : BitVec 32
  h : BitVec 32
deriving DecidableEq, Repr

def shaInit : ShaState := ⟨0x6A09E667, 0xBB67AE85, 0x3C6EF372, 0xA54FF53A, 0x510E527F, 0x9B05688C, 0x1F83D9AB, 0x5BE0CD19⟩

/-- The next word of the message schedule, from the words so far, newest first. -/
def shaNext (w : List (BitVec 32)) : BitVec 32 :=
  let at_ (i : Nat) : BitVec 32 := w[i]?.getD 0
  let s0 (x : BitVec 32) : BitVec 32 := x.rotateRight 7 ^^^ x.rotateRight 18 ^^^ x >>> 3
  let s1 (x : BitVec 32) : BitVec 32 := x.rotateRight 17 ^^^ x.rotateRight 19 ^^^ x >>> 10
  s1 (at_ 1) + at_ 6 + s0 (at_ 14) + at_ 15

/-- The 64 words of a block's schedule, oldest first. -/
def shaSchedule (block : List (BitVec 32)) : List (BitVec 32) :=
  ((List.range 48).foldl (fun (w : List (BitVec 32)) _ => shaNext w :: w) block.reverse).reverse

/-- One round. -/
def ShaState.round (s : ShaState) (kw : BitVec 32) : ShaState :=
  let t1 := s.h + (s.e.rotateRight 6 ^^^ s.e.rotateRight 11 ^^^ s.e.rotateRight 25) + ((s.e &&& s.f) ^^^ (~~~ s.e &&& s.g)) + kw
  let t2 := (s.a.rotateRight 2 ^^^ s.a.rotateRight 13 ^^^ s.a.rotateRight 22) +
    ((s.a &&& s.b) ^^^ (s.a &&& s.c) ^^^ (s.b &&& s.c))
  ⟨t1 + t2, s.a, s.b, s.c, s.d + t1, s.e, s.f, s.g⟩

/-- One block of 64 bytes. -/
def ShaState.block (s : ShaState) (b : List Byte) : ShaState :=
  let w := shaSchedule ((List.range 16).map fun i => BitVec.ofNat 32 (beField b (4 * i) 4))
  let t := (List.zip shaK w).foldl (fun (t : ShaState) x => t.round (x.1 + x.2)) s
  ⟨s.a + t.a, s.b + t.b, s.c + t.c, s.d + t.d, s.e + t.e, s.f + t.f, s.g + t.g, s.h + t.h⟩

def ShaState.bytes (s : ShaState) : List Byte := [s.a, s.b, s.c, s.d, s.e, s.f, s.g, s.h].flatMap fun x => beBytes 4 x.toNat

/-- A message with its padding. -/
def shaPad (m : List Byte) : List Byte :=
  m ++ [0x80] ++ List.replicate ((119 - m.length % 64) % 64) 0 ++ beBytes 8 (8 * m.length)

/-- SHA-256, 32 bytes. -/
def sha256 (m : List Byte) : List Byte :=
  let p := shaPad m
  ((List.range (p.length / 64)).foldl (fun (s : ShaState) i => s.block ((p.drop (64 * i)).take 64)) shaInit).bytes

/-! ### HMAC and HKDF with SHA-256 -/

/-- HMAC: key, message. -/
def hmac (key msg : List Byte) : List Byte :=
  let k := padTo 64 (if key.length ≤ 64 then key else sha256 key)
  sha256 (k.map (· ^^^ 0x5C) ++ sha256 (k.map (· ^^^ 0x36) ++ msg))

/-- HKDF-Expand of a key to n bytes. -/
def hkdfExpand (prk info : List Byte) (n : Nat) : List Byte :=
  (((List.range ((n + 31) / 32)).foldl (fun (t : List Byte × List Byte) i =>
    let b := hmac prk (t.2 ++ info ++ [BitVec.ofNat 8 (i + 1)])
    (t.1 ++ b, b)) ([], [])).1).take n

/-- HKDF: salt, key material, info, bytes wanted. -/
def hkdf (salt ikm info : List Byte) (n : Nat) : List Byte := hkdfExpand (hmac salt ikm) info n

/-! ### AES-256 -/

/-- The S-box of AES (FIPS 197). -/
def aesSbox : List Nat :=
  [0x63, 0x7C, 0x77, 0x7B, 0xF2, 0x6B, 0x6F, 0xC5, 0x30, 0x1, 0x67, 0x2B, 0xFE, 0xD7, 0xAB, 0x76] ++
  [0xCA, 0x82, 0xC9, 0x7D, 0xFA, 0x59, 0x47, 0xF0, 0xAD, 0xD4, 0xA2, 0xAF, 0x9C, 0xA4, 0x72, 0xC0] ++
  [0xB7, 0xFD, 0x93, 0x26, 0x36, 0x3F, 0xF7, 0xCC, 0x34, 0xA5, 0xE5, 0xF1, 0x71, 0xD8, 0x31, 0x15] ++
  [0x4, 0xC7, 0x23, 0xC3, 0x18, 0x96, 0x5, 0x9A, 0x7, 0x12, 0x80, 0xE2, 0xEB, 0x27, 0xB2, 0x75] ++
  [0x9, 0x83, 0x2C, 0x1A, 0x1B, 0x6E, 0x5A, 0xA0, 0x52, 0x3B, 0xD6, 0xB3, 0x29, 0xE3, 0x2F, 0x84] ++
  [0x53, 0xD1, 0x0, 0xED, 0x20, 0xFC, 0xB1, 0x5B, 0x6A, 0xCB, 0xBE, 0x39, 0x4A, 0x4C, 0x58, 0xCF] ++
  [0xD0, 0xEF, 0xAA, 0xFB, 0x43, 0x4D, 0x33, 0x85, 0x45, 0xF9, 0x2, 0x7F, 0x50, 0x3C, 0x9F, 0xA8] ++
  [0x51, 0xA3, 0x40, 0x8F, 0x92, 0x9D, 0x38, 0xF5, 0xBC, 0xB6, 0xDA, 0x21, 0x10, 0xFF, 0xF3, 0xD2] ++
  [0xCD, 0xC, 0x13, 0xEC, 0x5F, 0x97, 0x44, 0x17, 0xC4, 0xA7, 0x7E, 0x3D, 0x64, 0x5D, 0x19, 0x73] ++
  [0x60, 0x81, 0x4F, 0xDC, 0x22, 0x2A, 0x90, 0x88, 0x46, 0xEE, 0xB8, 0x14, 0xDE, 0x5E, 0xB, 0xDB] ++
  [0xE0, 0x32, 0x3A, 0xA, 0x49, 0x6, 0x24, 0x5C, 0xC2, 0xD3, 0xAC, 0x62, 0x91, 0x95, 0xE4, 0x79] ++
  [0xE7, 0xC8, 0x37, 0x6D, 0x8D, 0xD5, 0x4E, 0xA9, 0x6C, 0x56, 0xF4, 0xEA, 0x65, 0x7A, 0xAE, 0x8] ++
  [0xBA, 0x78, 0x25, 0x2E, 0x1C, 0xA6, 0xB4, 0xC6, 0xE8, 0xDD, 0x74, 0x1F, 0x4B, 0xBD, 0x8B, 0x8A] ++
  [0x70, 0x3E, 0xB5, 0x66, 0x48, 0x3, 0xF6, 0xE, 0x61, 0x35, 0x57, 0xB9, 0x86, 0xC1, 0x1D, 0x9E] ++
  [0xE1, 0xF8, 0x98, 0x11, 0x69, 0xD9, 0x8E, 0x94, 0x9B, 0x1E, 0x87, 0xE9, 0xCE, 0x55, 0x28, 0xDF] ++
  [0x8C, 0xA1, 0x89, 0xD, 0xBF, 0xE6, 0x42, 0x68, 0x41, 0x99, 0x2D, 0xF, 0xB0, 0x54, 0xBB, 0x16]

def subByte (b : Byte) : Byte := BitVec.ofNat 8 (aesSbox[b.toNat]?.getD 0)

/-- Multiplication by x in the field of AES. -/
def xtime (b : Byte) : Byte := (b <<< 1) ^^^ (if b.getLsbD 7 then 0x1B else 0)

/-- The round constant of a multiple of eight words. -/
def aesRcon (n : Nat) : Byte := (List.range n).foldl (fun b _ => xtime b) 1

/-- The 60 words of the key schedule. -/
def aesKeys (key : List Byte) : List (List Byte) :=
  ((List.range 52).foldl (fun (w : List (List Byte)) j =>
    let i := j + 8
    let t := w[0]?.getD []
    let t := if i % 8 = 0 then
        xorBytes ((t.drop 1 ++ t.take 1).map subByte) [aesRcon (i / 8 - 1), 0, 0, 0]
      else if i % 8 = 4 then t.map subByte else t
    xorBytes (w[7]?.getD []) t :: w)
    (((List.range 8).map fun i => (key.drop (4 * i)).take 4).reverse)).reverse

/-- A round's key, 16 bytes. -/
def roundKey (w : List (List Byte)) (r : Nat) : List Byte := ((w.drop (4 * r)).take 4).flatten

def shiftRows (s : List Byte) : List Byte := (List.range 16).map fun i => s[(i + 4 * (i % 4)) % 16]?.getD 0

def mixColumns (s : List Byte) : List Byte := (List.range 16).map fun i =>
  let a (k : Nat) : Byte := s[4 * (i / 4) + (i + k) % 4]?.getD 0
  xtime (a 0) ^^^ xtime (a 1) ^^^ a 1 ^^^ a 2 ^^^ a 3

/-- Encrypts a block of 16 bytes under a key of 32. -/
def aes256 (key block : List Byte) : List Byte :=
  let w := aesKeys key
  let s := (List.range 13).foldl (fun (s : List Byte) r =>
    xorBytes (mixColumns (shiftRows (s.map subByte))) (roundKey w (r + 1))) (xorBytes block (roundKey w 0))
  xorBytes (shiftRows (s.map subByte)) (roundKey w 14)

/-! ### The inverse cipher -/

def invSubByte (b : Byte) : Byte := BitVec.ofNat 8 (aesSbox.findIdx (· == b.toNat))

def invShiftRows (s : List Byte) : List Byte := (List.range 16).map fun i => s[(i + 12 * (i % 4)) % 16]?.getD 0

def invMixColumns (s : List Byte) : List Byte := (List.range 16).map fun i =>
  let a (k : Nat) : Byte := s[4 * (i / 4) + (i + k) % 4]?.getD 0
  let x2 (b : Byte) : Byte := xtime b
  let x4 (b : Byte) : Byte := xtime (x2 b)
  let x8 (b : Byte) : Byte := xtime (x4 b)
  (x8 (a 0) ^^^ x4 (a 0) ^^^ x2 (a 0)) ^^^ (x8 (a 1) ^^^ x2 (a 1) ^^^ a 1) ^^^ (x8 (a 2) ^^^ x4 (a 2) ^^^ a 2) ^^^ (x8 (a 3) ^^^ a 3)

/-- Decrypts a block of 16 bytes under a key of 32. -/
def aes256Inv (key block : List Byte) : List Byte :=
  let w := aesKeys key
  let s := (List.range 13).foldl (fun (s : List Byte) r =>
    invMixColumns (xorBytes ((invShiftRows s).map invSubByte) (roundKey w (13 - r)))) (xorBytes block (roundKey w 14))
  xorBytes ((invShiftRows s).map invSubByte) (roundKey w 0)

/-! ### AES-GCM -/

/-- Multiplication in the field of GHASH, bit 0 of the standard being the most significant. -/
def ghashMul (x y : BitVec 128) : BitVec 128 :=
  ((List.range 128).foldl (fun (t : BitVec 128 × BitVec 128) i =>
    (if x.getLsbD (127 - i) then t.1 ^^^ t.2 else t.1,
      (t.2 >>> 1) ^^^ (if t.2.getLsbD 0 then BitVec.ofNat 128 (0xE1 <<< 120) else 0))) (0, y)).1

/-- Bytes in blocks of 16, the last one filled up with zeros. -/
def blocks16 (b : List Byte) : List (List Byte) :=
  (List.range ((b.length + 15) / 16)).map fun i => padTo 16 ((b.drop (16 * i)).take 16)

def ghash (h : BitVec 128) (bs : List (List Byte)) : BitVec 128 :=
  bs.foldl (fun (y : BitVec 128) b => ghashMul (y ^^^ BitVec.ofNat 128 (ofBe b)) h) 0

/-- The key stream of GCM from a counter block on, over the blocks of a text. -/
def gcmCtr (key nonce : List Byte) (from_ : Nat) (t : List Byte) : List Byte :=
  (blocks16 t).zipIdx.flatMap fun b =>
    xorBytes ((t.drop (16 * b.2)).take 16) (aes256 key (nonce ++ beBytes 4 (from_ + b.2)))

/-- The tag over additional data and a ciphertext, 16 bytes, with a nonce of 12 bytes. -/
def gcmTag (key nonce aad c : List Byte) : List Byte :=
  let h := BitVec.ofNat 128 (ofBe (aes256 key (List.replicate 16 0)))
  let lens := beBytes 8 (8 * aad.length) ++ beBytes 8 (8 * c.length)
  gcmCtr key nonce 1 (beBytes 16 (ghash h (blocks16 aad ++ blocks16 c ++ [lens])).toNat)

/-- Sealing: ciphertext and tag. -/
def gcmSeal (key nonce aad p : List Byte) : List Byte × List Byte :=
  let c := gcmCtr key nonce 2 p
  (c, gcmTag key nonce aad c)

/-- Opening: none where the tag fails. -/
def gcmOpen (key nonce aad c tag : List Byte) : Option (List Byte) :=
  if tag = gcmTag key nonce aad c then some (gcmCtr key nonce 2 c) else none

/-! ### AES-XTS -/

/-- Multiplication of a tweak by alpha (IEEE 1619). -/
def xtsNext (t : List Byte) : List Byte :=
  let v := ofLe t
  leBytes 16 ((2 * v % 2 ^ 128) ^^^ (if 2 ^ 127 ≤ v then 0x87 else 0))

/-- Encryption of a data unit of whole blocks under a key pair of 64 bytes, with the data unit's number. -/
def xtsSeal (keys : List Byte) (unit : Nat) (p : List Byte) : List Byte :=
  ((blocks16 p).foldl (fun (a : List Byte × List Byte) b =>
    (a.1 ++ xorBytes (aes256 (keys.take 32) (xorBytes b a.2)) a.2, xtsNext a.2))
    ([], aes256 (keys.drop 32) (leBytes 16 unit))).1

/-- Decryption of a data unit. -/
def xtsOpen (keys : List Byte) (unit : Nat) (p : List Byte) : List Byte :=
  ((blocks16 p).foldl (fun (a : List Byte × List Byte) b =>
    (a.1 ++ xorBytes (aes256Inv (keys.take 32) (xorBytes b a.2)) a.2, xtsNext a.2))
    ([], aes256 (keys.drop 32) (leBytes 16 unit))).1

/-! ### AES-CMAC and the key derivation of IEEE 802.1X -/

/-- Doubling of a block (SP 800-38B). -/
def cmacDouble (b : List Byte) : List Byte :=
  let v := ofBe b
  beBytes 16 ((2 * v % 2 ^ 128) ^^^ (if 2 ^ 127 ≤ v then 0x87 else 0))

def cmac (key m : List Byte) : List Byte :=
  let k1 := cmacDouble (aes256 key (List.replicate 16 0))
  let n := (m.length - 1) / 16
  let last := m.drop (16 * n)
  let last := if last.length = 16 then xorBytes last k1 else xorBytes (padTo 16 (last ++ [0x80])) (cmacDouble k1)
  aes256 key (xorBytes last ((blocks16 (m.take (16 * n))).foldl (fun (y : List Byte) b => aes256 key (xorBytes y b))
    (List.replicate 16 0)))

/-- KDF of IEEE 802.1X-2020, 6.2.1, to 32 bytes: key, label, context. -/
def kdf1x (key label context : List Byte) : List Byte :=
  [1, 2].flatMap fun i => cmac key ([i] ++ label ++ [0] ++ context ++ beBytes 2 256)

/-! ### HSS/LMS -/

/-- Parameters of an LM-OTS type 1 to 4 (RFC 8554, table 1): w, p, ls. -/
def lmotsParams : Nat → Option (Nat × Nat × Nat)
  | 1 => some (1, 265, 7)
  | 2 => some (2, 133, 6)
  | 3 => some (4, 67, 4)
  | 4 => some (8, 34, 0)
  | _ => none

/-- Height of an LMS_SHA256_M32 type 5 to 9. -/
def lmsHeight : Nat → Option Nat
  | 5 => some 5
  | 6 => some 10
  | 7 => some 15
  | 8 => some 20
  | 9 => some 25
  | _ => none

/-- Digit i of a string in digits of w bits. -/
def lmCoef (s : List Byte) (i w : Nat) : Nat :=
  ((s[i * w / 8]?.getD 0).toNat / 2 ^ (8 - (w * (i % (8 / w)) + w))) % 2 ^ w

/-- The digits of a message digest with its checksum. -/
def lmDigits (w p ls : Nat) (q : List Byte) : List Nat :=
  let sum := (List.range (256 / w)).foldl (fun n i => n + (2 ^ w - 1 - lmCoef q i w)) 0
  let s := q ++ beBytes 2 (sum * 2 ^ ls)
  (List.range p).map fun i => lmCoef s i w

/-- Steps from_ to to_ of chain i of LM-OTS. -/
def lmChain (id : List Byte) (q i : Nat) (tmp : List Byte) (from_ to_ : Nat) : List Byte :=
  (List.range (to_ - from_)).foldl (fun (t : List Byte) j =>
    sha256 (id ++ beBytes 4 q ++ beBytes 2 i ++ beBytes 1 (from_ + j) ++ t)) tmp

/-- The public key that an LM-OTS signature (after its type) leads to. -/
def lmotsCandidate (id : List Byte) (q w p ls : Nat) (msg sig : List Byte) : List Byte :=
  let d := lmDigits w p ls (sha256 (id ++ beBytes 4 q ++ [0x81, 0x81] ++ sig.take 32 ++ msg))
  sha256 (id ++ beBytes 4 q ++ [0x80, 0x80] ++ (d.zipIdx.flatMap fun a =>
    lmChain id q a.2 ((sig.drop (32 + 32 * a.2)).take 32) a.1 (2 ^ w - 1)))

/-- The root that a path leads to from node n. -/
def lmsRoot (id : List Byte) : Nat → List Byte → List (List Byte) → List Byte
  | _, t, [] => t
  | n, t, s :: path =>
    let pair := if n % 2 = 1 then s ++ t else t ++ s
    lmsRoot id (n / 2) (sha256 (id ++ beBytes 4 (n / 2) ++ [0x83, 0x83] ++ pair)) path

/-- Length of an LMS signature whose public key names the types. -/
def lmsSigLen (h p : Nat) : Nat := 4 + 4 + 32 + 32 * p + 4 + 32 * h

/-- An LMS signature under a public key of 56 bytes. -/
def lmsVerify (key msg sig : List Byte) : Bool :=
  match lmsHeight (beField key 0 4), lmotsParams (beField key 4 4) with
  | some h, some (w, p, ls) =>
    let id := (key.drop 8).take 16
    let q := beField sig 0 4
    let at_ := 4 + 4 + 32 + 32 * p
    let k := lmotsCandidate id q w p ls msg ((sig.drop 8).take (32 + 32 * p))
    let leaf := sha256 (id ++ beBytes 4 (2 ^ h + q) ++ [0x82, 0x82] ++ k)
    let path := (List.range h).map fun i => (sig.drop (at_ + 4 + 32 * i)).take 32
    sig.length == lmsSigLen h p && beField sig 4 4 == beField key 4 4 && beField sig at_ 4 == beField key 0 4 &&
    decide (q < 2 ^ h) && lmsRoot id (2 ^ h + q) leaf path == (key.drop 24).take 32
  | _, _ => false

/-- The levels of an HSS signature from a public key on, n of them signing the next one's key. -/
def hssLevels (msg : List Byte) : Nat → List Byte → List Byte → Bool
  | 0, key, sig => lmsVerify key msg sig
  | n + 1, key, sig =>
    match lmsHeight (beField key 0 4), lmotsParams (beField key 4 4) with
    | some h, some (_, p, _) =>
      let len := lmsSigLen h p
      let next := (sig.drop len).take 56
      lmsVerify key next (sig.take len) && hssLevels msg n next (sig.drop (len + 56))
    | _, _ => false

/-- HSS verification: public key of 60 bytes, message, signature; L from 1 to 3 (R489). -/
def hssVerify (key msg sig : List Byte) : Bool :=
  let l := beField key 0 4
  key.length == 60 && decide (1 ≤ l) && decide (l ≤ 3) && beField sig 0 4 + 1 == l && hssLevels msg (l - 1) (key.drop 4) (sig.drop 4)

/-- The one type of firmware, probe sets and device certificates (R489): L = 2, both levels of height 20 with W = 8. -/
def hssVerifyFixed (key msg sig : List Byte) : Bool :=
  beField key 0 4 == 2 && beField key 4 4 == 8 && beField key 8 4 == 4 && beField sig 1776 4 == 8 && beField sig 1780 4 == 4 &&
  sig.length == 3604 && hssVerify key msg sig

/-- A private element of LM-OTS (RFC 8554, appendix A). -/
def lmSecret (id seed : List Byte) (q i : Nat) : List Byte := sha256 (id ++ beBytes 4 q ++ beBytes 2 i ++ [0xFF] ++ seed)

/-- The LM-OTS public key of a leaf, W = 8. -/
def lmotsPublic (id seed : List Byte) (q : Nat) : List Byte :=
  sha256 (id ++ beBytes 4 q ++ [0x80, 0x80] ++ ((List.range 34).flatMap fun i => lmChain id q i (lmSecret id seed q i) 0 255))

/-- Node r of a tree of height 20 whose subtree has height d. -/
def lmsNode (id seed : List Byte) : Nat → Nat → List Byte
  | 0, r => sha256 (id ++ beBytes 4 r ++ [0x82, 0x82] ++ lmotsPublic id seed (r - 2 ^ 20))
  | d + 1, r => sha256 (id ++ beBytes 4 r ++ [0x83, 0x83] ++ lmsNode id seed d (2 * r) ++ lmsNode id seed d (2 * r + 1))

/-- A tree's public key, 56 bytes. -/
def lmsPublic (id seed : List Byte) : List Byte := beBytes 4 8 ++ beBytes 4 4 ++ id ++ lmsNode id seed 20 1

/-- A signature by leaf q of a tree, with the randomizer C. -/
def lmsSign (id seed : List Byte) (q : Nat) (c msg : List Byte) : List Byte :=
  let d := lmDigits 8 34 0 (sha256 (id ++ beBytes 4 q ++ [0x81, 0x81] ++ c ++ msg))
  beBytes 4 q ++ beBytes 4 4 ++ c ++ (d.zipIdx.flatMap fun a => lmChain id q a.2 (lmSecret id seed q a.2) 0 a.1) ++ beBytes 4 8 ++
  ((List.range 20).flatMap fun i => lmsNode id seed i (((2 ^ 20 + q) / 2 ^ i) ^^^ 1))

/-- Identifier and seed of a tree of the identity key, generated from DEV_SEED (R493). -/
def idTree (t : Option Nat) : List Byte × List Byte :=
  let x := Config.idTree Config.devSeed t
  (beBytes 16 x.1.toNat, beBytes 32 x.2.toNat)

/-- The identity public key, 60 bytes: two levels, and the top tree's key (R489). -/
def idPublic : List Byte := beBytes 4 2 ++ lmsPublic (idTree none).1 (idTree none).2

/-- Bottom tree t's public key, 56 bytes, and its signature by leaf t of the top tree (R495). -/
def treePublic (t : Nat) : List Byte := lmsPublic (idTree (some t)).1 (idTree (some t)).2
def treeSign (t : Nat) : List Byte :=
  lmsSign (idTree none).1 (idTree none).2 t (beBytes 32 (Config.idRandom t none).toNat) (treePublic t)

/-- The identity key's signature, 3,604 bytes (R489, R493, R494): the top tree's leaf t has signed bottom tree t, whose leaf b signs
the message. -/
def hssSign (treeSig : List Byte) (t b : Nat) (msg : List Byte) : List Byte :=
  let bot := idTree (some t)
  beBytes 4 1 ++ treeSig ++ treePublic t ++ lmsSign bot.1 bot.2 b (beBytes 32 (Config.idRandom t (some b)).toNat) msg

/-- The SHA-256 of a public key as a number, byte 0 in bits 7 to 0. -/
def keyHash (key : List Byte) : BitVec 256 := BitVec.ofNat 256 (ofLe (sha256 key))

/-- The device certificate, 3,860 bytes (R493): a body of 256 bytes with the serial number, the stepping and the identity public key,
then Tugeco's signature. Where these lie in the body is DESIGN CHOICE (log 9). -/
def deviceCert : List Byte :=
  padTo 256 (leBytes 8 Config.serialLo.toNat ++ leBytes 8 Config.serialHi.toNat ++ [0xB0] ++ idPublic) ++
    padTo 3604 (Config.certSignature.take 3604)

/-! ### Keccak (FIPS 202) -/

/-- Round constants of Keccak-f[1600] (FIPS 202). -/
def keccakRc : List (BitVec 64) :=
  [0x1, 0x8082, 0x800000000000808A, 0x8000000080008000] ++
  [0x808B, 0x80000001, 0x8000000080008081, 0x8000000000008009] ++
  [0x8A, 0x88, 0x80008009, 0x8000000A] ++
  [0x8000808B, 0x800000000000008B, 0x8000000000008089, 0x8000000000008003] ++
  [0x8000000000008002, 0x8000000000000080, 0x800A, 0x800000008000000A] ++
  [0x8000000080008081, 0x8000000000008080, 0x80000001, 0x8000000080008008]

/-- Rotation of lane x + 5 y (FIPS 202). -/
def keccakRot : List Nat :=
  [0, 1, 62, 28, 27] ++
  [36, 44, 6, 55, 20] ++
  [3, 10, 43, 25, 39] ++
  [41, 45, 15, 21, 8] ++
  [18, 2, 61, 56, 14]

/-- One round of Keccak-f[1600]. -/
def keccakRound (a : List (BitVec 64)) (rc : BitVec 64) : List (BitVec 64) :=
  let at_ (l : List (BitVec 64)) (i : Nat) : BitVec 64 := l[i]?.getD 0
  let c := (List.range 5).map fun x => at_ a x ^^^ at_ a (x + 5) ^^^ at_ a (x + 10) ^^^ at_ a (x + 15) ^^^ at_ a (x + 20)
  let d := (List.range 5).map fun x => at_ c ((x + 4) % 5) ^^^ (at_ c ((x + 1) % 5)).rotateLeft 1
  let a := (List.range 25).map fun i => at_ a i ^^^ at_ d (i % 5)
  let b := (List.range 25).map fun i =>
    let x := i % 5
    let y := i / 5
    -- lane (x, y) comes from (x + 3 y, x)
    let j := (x + 3 * y) % 5 + 5 * x
    (at_ a j).rotateLeft (keccakRot[j]?.getD 0)
  (List.range 25).map fun i =>
    let x := i % 5
    let y := i / 5 * 5
    at_ b i ^^^ (~~~ at_ b ((x + 1) % 5 + y) &&& at_ b ((x + 2) % 5 + y)) ^^^ (if i = 0 then rc else 0)

def keccakF (a : List (BitVec 64)) : List (BitVec 64) := keccakRc.foldl keccakRound a

/-- The sponge: rate in bytes, domain byte, message, bytes wanted. -/
def sponge (rate : Nat) (dom : Byte) (m : List Byte) (n : Nat) : List Byte :=
  let z := rate - 1 - m.length % rate
  let p := m ++ (if z = 0 then [dom ^^^ 0x80] else [dom] ++ List.replicate (z - 1) 0 ++ [0x80])
  let lanes (b : List Byte) : List (BitVec 64) := (List.range 25).map fun i => BitVec.ofNat 64 (ofLe ((b.drop (8 * i)).take 8))
  let s := (List.range (p.length / rate)).foldl (fun (s : List (BitVec 64)) i =>
    keccakF (List.zipWith (· ^^^ ·) s (lanes ((p.drop (rate * i)).take rate)))) (List.replicate 25 0)
  let out (s : List (BitVec 64)) : List Byte := (s.flatMap fun x => leBytes 8 x.toNat).take rate
  (((List.range ((n + rate - 1) / rate)).foldl (fun (t : List Byte × List (BitVec 64)) _ => (t.1 ++ out t.2, keccakF t.2))
    ([], s)).1).take n

def sha3_256 (m : List Byte) : List Byte := sponge 136 6 m 32
def sha3_512 (m : List Byte) : List Byte := sponge 72 6 m 64
def shake128 (m : List Byte) (n : Nat) : List Byte := sponge 168 0x1F m n
def shake256 (m : List Byte) (n : Nat) : List Byte := sponge 136 0x1F m n

/-! ### ML-KEM-1024 (FIPS 203) -/

/-- The modulus q. -/
def kemQ : Nat := 3329

/-- A polynomial: 256 coefficients below q. -/
abbrev Poly := List Nat

def polyAdd (a b : Poly) : Poly := List.zipWith (fun x y => (x + y) % kemQ) a b
def polySub (a b : Poly) : Poly := List.zipWith (fun x y => (x + kemQ - y) % kemQ) a b
def polySum (l : List Poly) : Poly := l.foldl polyAdd (List.replicate 256 0)

/-- 17 to a power, modulo q: 17 is a 256th root of unity. -/
def kemZeta (n : Nat) : Nat := (List.range (n % 256)).foldl (fun x _ => x * 17 % kemQ) 1

/-- The seven bits of i reversed. -/
def bitRev7 (i : Nat) : Nat := (List.range 7).foldl (fun n k => n + (i / 2 ^ k % 2) * 2 ^ (6 - k)) 0

/-- The exponent of the root of factor i of X^256 + 1. -/
def kemExp (i : Nat) : Nat := 2 * bitRev7 i + 1

/-- The number-theoretic transform: the remainders modulo X^2 - 17^(2 BitRev7(i) + 1). -/
def ntt (f : Poly) : Poly :=
  (List.range 256).map fun k =>
    let r := kemZeta (kemExp (k / 2))
    ((List.range 128).foldl (fun (t : Nat × Nat) j => ((t.1 + (f[2 * j + k % 2]?.getD 0) * t.2) % kemQ, t.2 * r % kemQ)) (0, 1)).1

/-- Its inverse; 3303 is the inverse of 128. -/
def nttInv (f : Poly) : Poly :=
  (List.range 256).map fun k =>
    ((List.range 128).foldl (fun t i => (t + (f[2 * i + k % 2]?.getD 0) * kemZeta (256 * 128 - kemExp i * (k / 2))) % kemQ) 0) *
      3303 % kemQ

/-- The product of two transforms. -/
def nttMul (a b : Poly) : Poly :=
  (List.range 256).map fun k =>
    let i := k / 2
    let x (p : Poly) (j : Nat) : Nat := p[2 * i + j]?.getD 0
    if k % 2 = 0 then (x a 0 * x b 0 + x a 1 * x b 1 % kemQ * kemZeta (kemExp i)) % kemQ
    else (x a 0 * x b 1 + x a 1 * x b 0) % kemQ

/-- ByteEncode of d-bit coefficients, and ByteDecode. -/
def polyBytes (d : Nat) (f : Poly) : List Byte :=
  leBytes (32 * d) (f.zipIdx.foldl (fun n x => n + x.1 * 2 ^ (d * x.2)) 0)
def bytesPoly (d : Nat) (b : List Byte) : Poly :=
  let v := ofLe b
  (List.range 256).map fun i => let x := v / 2 ^ (d * i) % 2 ^ d; if d = 12 then x % kemQ else x

def kemCompress (d : Nat) (f : Poly) : Poly := f.map fun x => (x * 2 ^ (d + 1) + kemQ) / (2 * kemQ) % 2 ^ d
def kemDecompress (d : Nat) (f : Poly) : Poly := f.map fun y => (2 * y * kemQ + 2 ^ d) / 2 ^ (d + 1)

/-- Rejection sampling of a transform from bytes, three at a time. -/
def sampleNtt (b : List Byte) : Poly :=
  ((List.range (b.length / 3)).flatMap fun i =>
    let x (j : Nat) : Nat := (b[3 * i + j]?.getD 0).toNat
    [x 0 + 256 * (x 1 % 16), x 1 / 16 + 16 * x 2].filter (· < kemQ)).take 256

/-- Centred binomial sampling with eta = 2. -/
def sampleCbd (b : List Byte) : Poly :=
  let v := ofLe b
  (List.range 256).map fun i =>
    let x (j : Nat) : Nat := v / 2 ^ (4 * i + j) % 2
    (x 0 + x 1 + kemQ - x 2 - x 3) % kemQ

def kemNoise (seed : List Byte) (n : Nat) : Poly := sampleCbd (shake256 (seed ++ [BitVec.ofNat 8 n]) 128)

/-- Entry (i, j) of the matrix. -/
def kemMatrix (rho : List Byte) (i j : Nat) : Poly := sampleNtt (shake128 (rho ++ [BitVec.ofNat 8 j, BitVec.ofNat 8 i]) 1344)

/-- Key generation from d: the encapsulation key and the secret transforms. -/
def kpkeGen (d : List Byte) : List Byte × List Poly :=
  let g := sha3_512 (d ++ [4])
  let rho := g.take 32
  let sigma := g.drop 32
  let s := (List.range 4).map fun i => ntt (kemNoise sigma i)
  let t := (List.range 4).map fun i =>
    polyAdd (polySum ((List.range 4).map fun j => nttMul (kemMatrix rho i j) (s[j]?.getD []))) (ntt (kemNoise sigma (4 + i)))
  (t.flatMap (polyBytes 12) ++ rho, s)

/-- Encryption of 32 bytes under an encapsulation key with randomness r. -/
def kpkeEncrypt (ek m r : List Byte) : List Byte :=
  let t := (List.range 4).map fun i => bytesPoly 12 ((ek.drop (384 * i)).take 384)
  let rho := ek.drop 1536
  let y := (List.range 4).map fun i => ntt (kemNoise r i)
  let u := (List.range 4).map fun i =>
    polyAdd (nttInv (polySum ((List.range 4).map fun j => nttMul (kemMatrix rho j i) (y[j]?.getD [])))) (kemNoise r (4 + i))
  let mu := kemDecompress 1 (bytesPoly 1 m)
  let v := polyAdd (polyAdd (nttInv (polySum (List.zipWith nttMul t y))) (kemNoise r 8)) mu
  (u.flatMap fun p => polyBytes 11 (kemCompress 11 p)) ++ polyBytes 5 (kemCompress 5 v)

/-- Decryption with the secret transforms. -/
def kpkeDecrypt (s : List Poly) (c : List Byte) : List Byte :=
  let u := (List.range 4).map fun i => kemDecompress 11 (bytesPoly 11 ((c.drop (352 * i)).take 352))
  let v := kemDecompress 5 (bytesPoly 5 (c.drop 1408))
  polyBytes 1 (kemCompress 1 (polySub v (nttInv (polySum (List.zipWith nttMul s (u.map ntt))))))

/-- Decapsulation from the seeds d and z, with implicit rejection. -/
def kemDecapsOf (d z ct : List Byte) : List Byte :=
  let g := kpkeGen d
  let m := kpkeDecrypt g.2 ct
  let k := sha3_512 (m ++ sha3_256 g.1)
  if kpkeEncrypt g.1 m (k.drop 32) = ct then k.take 32 else shake256 (z ++ ct) 32

/-- The encapsulation key of a key generation, and its decapsulation (R498). -/
def kemEncapsKey (n : Nat) : List Byte := (kpkeGen (Config.kemSeed n).1).1
def kemDecaps (n : Nat) (ct : List Byte) : List Byte := kemDecapsOf (Config.kemSeed n).1 (Config.kemSeed n).2 ct

end Sys2Proof.Machine
end

