-- ==== Sys2Proof/Machine/HostState.lean ====
section
/-! DEFINITION. The state of the host transport, the command journal and the configuration transactions (02, 10, 12, 15,
16): sessions with their queues and EVENTs, images, accepted commands, open and closed transactions, and what the S4 has
sent. Plain data. -/
namespace Sys2Proof.Machine

/-! ### Status values (R542) and event numbers (R545) -/

abbrev Status := BitVec 16
def stOK : Status := 0x0000
def stDUPLICATE : Status := 0x0001
def stREJECTED_CAPACITY : Status := 0x0002
def stREJECTED_VERSION : Status := 0x0003
def stABORTED_MISMATCH : Status := 0x0004
def stABORTED_STALL : Status := 0x0005
def stABORTED_NORM : Status := 0x0006
def stSOURCE_LOST : Status := 0x0007
def stQUARANTINED : Status := 0x0008
def stSEALED_REFUSED : Status := 0x0009
def stPOWER_RETREAT : Status := 0x000A
def stTXN_CONFLICT : Status := 0x000B
def stBAD_SIGNATURE : Status := 0x000C
def stPARITY_UNRECOVERED : Status := 0x000D
def stNOT_ADMITTED : Status := 0x000E
def stPREEMPTED : Status := 0x000F

def evWIDE_ALL : BitVec 16 := 0x0001
def evNORM_JUMP : BitVec 16 := 0x0002
def evESTIMATOR_UNTRUSTED : BitVec 16 := 0x0003
def evRETREAT_STAGE : BitVec 16 := 0x0004
def evCORE_QUARANTINED : BitVec 16 := 0x0005
def evSLICE_RETIRED : BitVec 16 := 0x0006
def evSTACK_RETIRED : BitVec 16 := 0x0007
def evPORT_DOWN : BitVec 16 := 0x0008
def evGUIDE_CORE_LOST : BitVec 16 := 0x0009
def evUNIT_RETURNED : BitVec 16 := 0x000A
def evPROBE_FAIL : BitVec 16 := 0x000B
def evPROBE_SET_ROLLBACK : BitVec 16 := 0x000C
def evCAIRN_NEW : BitVec 16 := 0x000D
def evLMS_LOW : BitVec 16 := 0x000E
def evFW_FALLBACK : BitVec 16 := 0x000F

/-- Device states (R24). -/
inductive DState where
  | off | boot | admitted | service | degraded | retreat | safe
deriving DecidableEq, Repr

/-- DSTATE of R401. -/
def DState.code : DState → Nat
  | .off => 0
  | .boot => 1
  | .admitted => 2
  | .service => 3
  | .degraded => 4
  | .retreat => 5
  | .safe => 6

/-! ### Events and sent messages -/

/-- An EVENT's body (R412). -/
inductive EventBody where
  | completion (queue : BitVec 16) (seq : BitVec 48) (status : Status) (flags : BitVec 16) (nonfin : BitVec 32)
      (result : BitVec 32) (version : BitVec 48) (snap : Word) (energyMj : Word)
  | device (enum : BitVec 16) (snap : Word) (detail : BitVec 128)
deriving DecidableEq, Repr

/-- Where a session's messages last came from on a network (R413). -/
structure PeerAddr where
  port    : HPort
  ip      : IpAddr
  udp     : BitVec 16
  mac     : MacAddr
deriving DecidableEq, Repr

/-- What the S4 sends (log 15): answers to messages, EVENTs, flits to a Meloend neighbour, frames and management answers. -/
inductive Output where
  | helloAck (h : MsgHdr) (status : Status) (ver isa nq : BitVec 8) (dstate : DState) (maxdata : BitVec 16)
      (features : BitVec 64) (session : BitVec 32) (devid : BitVec 16) (resumed : BitVec 8) (snap : Word)
      (qrecs : List (BitVec 48 × BitVec 48 × Bool))
  | ack (h : MsgHdr) (status : Status) (cstate : BitVec 8) (cstatus : Status) (nextExp : BitVec 48)
  | nack (h : MsgHdr) (status : Status) (nextExp : BitVec 48)
  | dataResp (h : MsgHdr) (status : Status) (addr : BitVec 64) (data : List Byte)
  | regResp (h : MsgHdr) (status : Status) (addr : BitVec 64) (snap : Word) (words : List Word)
  | event (session : BitVec 32) (dest : PeerAddr) (frame : Frame) (eseq : BitVec 64) (retx : Bool) (body : EventBody)
  | attestResp (h : MsgHdr) (aop : BitVec 8) (status : Status) (part nparts : BitVec 8) (total : Nat) (body : List Byte)
  | bye (session : BitVec 32)
  | byeTo (h : MsgHdr)
  | flit (p : MPort) (f : FlitHdr) (m : Option Lctl)
  | coll (p : MPort) (f : FlitHdr) (k : CollPkt) (i : Nat)          -- flit i of the packet
  | sealed (p : MPort) (n : Nat) (cipher tag : List Byte)            -- n flits on a link that encrypts, and the trailer's tag
  | mka (port : HPort) (peer : MacAddr) (prio : BitVec 8) (sak : Nat) (body : List Byte)
  | arpReply (port : HPort) (targetMac : MacAddr) (targetIp : IpAddr)
  | icmpReply (port : HPort) (dst : IpAddr) (payload : List Byte)
  | naReply (port : HPort) (dst : MacAddr) (ip : IpAddr)
  | mgmt (status : BitVec 8) (snap : Word) (words : List Word)
deriving DecidableEq, Repr

/-! ### Sessions (R397 to R416) -/

/-- STATE of ELO_SESSi (R421); a free slot is not listed. -/
inductive SessState where
  | opened | admitted | closing
deriving DecidableEq, Repr

/-- One command queue (R33, R38, R405). `done` keeps the statuses the S4 still holds. -/
structure CmdQueue where
  nextExp    : BitVec 48
  ahead      : List (BitVec 48)
  lastDone   : Option (BitVec 48)
  held       : Bool
  aheadDrops : BitVec 16
  done       : List (BitVec 48 × Status)
  /-- commands at or below this number lost their status in a cold reset (CSTATE 3 of R411) -/
  lostUpTo   : Option (BitVec 48)
deriving DecidableEq, Repr

def CmdQueue.new : CmdQueue := ⟨0, [], none, false, 0, [], none⟩

/-- An open transaction (R430): its shadow by register address, value and mask. -/
structure OpenTxn where
  id     : BitVec 64
  base   : Word
  shadow : KMap (Word × Word)
deriving DecidableEq, Repr

/-- An attestation report that the S4 holds for a session (R498). -/
structure HeldReport where
  nonce  : BitVec 256
  boots  : Word
  leaf   : Nat
  report : List Byte
deriving DecidableEq, Repr

/-- A session (R402, R421). `queues` holds NQ command queues, then the control queue. -/
structure Session where
  id       : BitVec 32
  token    : BitVec 64
  srcIp    : IpAddr
  ver      : BitVec 8
  isa      : BitVec 8
  features : BitVec 64
  maxdata  : BitVec 16
  nq       : Nat
  state    : SessState
  admin    : Bool
  queues   : List CmdQueue
  addrA    : Option PeerAddr
  addrB    : Option PeerAddr
  /-- ESEQ of the last EVENT sent -/
  eseq     : BitVec 64
  acked    : BitVec 64
  unacked  : List (BitVec 64 × EventBody)
  keptComp : List EventBody
  keptDev  : List EventBody
  evLost   : BitVec 14
  txn      : Option OpenTxn
  closed   : List (BitVec 64 × Status)
  /-- keys agreed at admission (R500) -/
  keys     : List Byte
  report   : Option HeldReport
  /-- RESUMED 2: the session was rebuilt from the summit book and not resumed since -/
  rebuilt  : Bool
deriving DecidableEq, Repr

/-! ### Images and commands (R204 to R209, R283, R406) -/

/-- A section of an image (R205). -/
structure Section where
  stype  : BitVec 32
  soff   : Nat
  ssize  : Nat
  sload  : Nat
deriving DecidableEq, Repr

/-- An image that the S4 holds (R206): where its bytes lie and what its header says. -/
structure Image where
  id         : BitVec 64
  addr       : Nat
  len        : Nat
  job        : BitVec 16
  entry      : Nat
  trapEntry  : Nat
  trapStatus : BitVec 16
  ncores     : Nat
  ledgeNeed  : Nat
  sections   : List Section
  caps       : List (BitVec 16 × BitVec 32)
deriving DecidableEq, Repr

/-- How far a command has come. -/
inductive CmdPhase where
  | awaits          -- a TRAIN or ADOPT that waits for the check of another of its job (R310)
  | journaling      -- checked by R410, its records on the way to the mirrors
  | accepted        -- waits for its turn, its dependencies or cores
  | running
  | deciding        -- every core of a TRAIN attempt or an ADOPT has halted; the Guide decides
deriving DecidableEq, Repr

/-- A logical index of a placement: the core that runs it (none while it waits for another core by R212), its halt status
once halted. -/
structure Placed where
  logical : Nat
  core    : Option CoreId
  halted  : Option Status
deriving DecidableEq, Repr

/-- A command under check or accepted and not yet completed or ended (R30 to R40). -/
structure Cmd where
  key       : CmdKey
  op        : BitVec 8
  job       : BitVec 16
  hdr       : MsgHdr
  body      : CmdBody
  phase     : CmdPhase
  /-- the status it ends with, once a cause has decided it (R544) -/
  doom      : Option Status
  /-- copies that wait for the outcome of the journal write (R32) -/
  dups      : List MsgHdr
  placement : List Placed
  rpoints   : List (Nat × BitVec 32)
  attempt   : Nat
  energyUj  : Nat
  jseq      : Word
  /-- the governor lowered a clock of its cores since its start or its last collective (R388) -/
  slowed    : Bool
deriving DecidableEq, Repr

/-- STEP_KIND of a command (R309). -/
def Cmd.stepKind (c : Cmd) : Nat := c.body.cflags.toNat % 4

/-- A completion that waits for the summit batch that holds it (R48). -/
structure DoneRec where
  key     : CmdKey
  event   : EventBody
  /-- journal records that it frees -/
  recs    : Nat
deriving DecidableEq, Repr

/-- The journal (R283 to R286): commands with records in use, and the mirrors. `ring0` and `ring1` hold the record bytes of each
mirror by slot number, those in use; `head` is the slot after the last one written. `owedAcks` are the confirms that came while
the Guide was halted (R31). -/
structure Journal where
  cmds         : List Cmd
  reports      : List DoneRec
  jseq         : Word
  /-- jobs whose last attempt started with every layer WIDE (R120) -/
  wideAll      : List (BitVec 16)
  ring0        : KMap (List Byte)
  ring1        : KMap (List Byte)
  head         : Nat
  owedAcks     : List CmdKey
  mirror0      : Fin 32
  mirror1      : Fin 32
  standby      : Fin 32
  standbyValid : Bool
  single       : Bool
  remirror     : Bool
deriving DecidableEq, Repr

/-! ### Host ports (R392 to R396, R418, R419) -/

/-- Port states of R421. -/
inductive HpState where
  | off | training | up | draining | down
deriving DecidableEq, Repr

def HpState.code : HpState → Nat
  | .off => 0
  | .training => 1
  | .up => 2
  | .draining => 3
  | .down => 4

/-- A MACsec peer with a live secure association (R394, R502): the highest packet number received under its SAK, and the last
one sent. -/
structure MacPeer where
  mac     : MacAddr
  session : BitVec 32
  sak     : Nat
  rxPn    : Nat
  txPn    : Nat
deriving DecidableEq, Repr

/-- One host port. -/
structure HostPort where
  state  : HpState
  reason : BitVec 4
  peers  : List MacPeer
  /-- the port's SAK generation -/
  sak    : Nat
deriving DecidableEq, Repr

/-- The host transport. -/
structure Elo where
  sessions  : KMap Session
  idsUsed   : List (BitVec 32)
  images    : List Image
  ports     : Vector HostPort 8
deriving DecidableEq, Repr

/-- A commit that runs (R433). -/
structure Commit where
  slot     : Nat
  hdr      : MsgHdr
  txn      : OpenTxn
  /-- repeated COMMITs that receive its answer -/
  held     : List MsgHdr
  waiting  : List Island
  applying : Bool
  /-- the words that it changes, once its commit point has been reached -/
  changed  : List Nat
deriving DecidableEq, Repr

/-- The header of a norm-watch table as the Guide read it at the job load (R316). -/
structure NwHead where
  observe : Bool
  maxatt  : Nat
  thr     : BitVec 64
  v0      : BitVec 48
  warm    : Nat
deriving DecidableEq, Repr

/-- Configuration transactions (R430 to R434). `queued` holds the commits that wait, with repeated COMMITs after them. `heads` holds, by job entry, what the Guide read at the load. `stamp` is the SNAPSHOT_VERSION at which a word was last committed. -/
structure TxnState where
  running : Option Commit
  queued  : List (Nat × MsgHdr × OpenTxn)
  stamp   : KMap Word
  commits : Nat
  heads   : KMap NwHead
deriving DecidableEq, Repr

end Sys2Proof.Machine
end

