-- ==== Sys2Proof/Machine/LinkState.lean ====
section
/-! DEFINITION. The state of the Meloend ports, laser modules and routing maps (13) and of the collectives (14). The
saturating counters of their registers lie in the register store. Plain data. -/
namespace Sys2Proof.Machine

/-- Port states of R346. -/
inductive MpState where
  | off | training | up | draining | down
deriving DecidableEq, Repr

def MpState.code : MpState → Nat
  | .off => 0
  | .training => 1
  | .up => 2
  | .draining => 3
  | .down => 4

/-- REASON codes of R356. -/
def reasonCode : DownReason → BitVec 4
  | .none => 0
  | .disabled => 1
  | .noLight => 2
  | .lockOrFec => 3
  | .ber => 4
  | .version => 5
  | .miswired => 6
  | .key => 7
  | .retryLimit => 8
  | .protocol => 9
  | .laserRemoved => 10
  | .reach => 11

/-- What a sequenced flit, or the flits of one packet, carry. -/
inductive FlitLoad where
  | lctl (m : Lctl)
  /-- a packet with the hop it takes, as it was before that hop, and the axis of the port it arrived on (R340) -/
  | coll (k was : CollPkt) (via : Option (Fin 4))
deriving DecidableEq, Repr

/-- A sequenced flit in the retry buffer until it is acknowledged (R337, R338): its header as it was first sent, the load and
which flit of it this is, and how often it was resent in a row. -/
structure SentFlit where
  hdr    : FlitHdr
  load   : FlitLoad
  idx    : Nat
  resent : Nat
deriving DecidableEq, Repr

/-- A seal group as the retry buffer keeps it (R342, R343): its first LSEQ, its flits, ciphertext and tag. -/
structure SealGroup where
  first  : BitVec 14
  n      : Nat
  cipher : List Byte
  tag    : List Byte
deriving DecidableEq, Repr

/-- A packet of which some flits have been accepted (R334): its DST and JOB, and how many. -/
structure RxPart where
  dst : BitVec 15
  job : BitVec 16
  n   : Nat
deriving DecidableEq, Repr

/-- Progress of a training (R345). -/
structure Training where
  lock  : Bool      -- steps 1 and 2
  hello : Bool      -- step 3
  rtt   : Bool      -- step 4: the round trip is measured
  echoed : Bool     -- step 4: the neighbour's ECHO is answered
  keyed : Bool      -- step 5
deriving DecidableEq, Repr

/-- A link secret provided by ATTEST_LINK_SECRET (R503). -/
structure LinkSecret where
  devid : BitVec 15
  gen   : BitVec 32
  key   : BitVec 256
deriving DecidableEq, Repr

/-- The key and salt of one direction, 36 bytes (R343, R504), the seal groups since it was installed, and the group counter from
which the next key applies. -/
structure DirKey where
  key    : List Byte
  groups : Nat
  nextAt : Option Word
deriving DecidableEq, Repr

/-- One Meloend port. -/
structure Port where
  state    : MpState
  reason   : BitVec 4
  train    : Training
  /-- LSEQ of the next sequenced flit to send -/
  lseq     : BitVec 14
  /-- oldest flit sent and not acknowledged -/
  oldest   : BitVec 14
  /-- next LSEQ expected from the neighbour: the AACK sent -/
  aack     : BitVec 14
  nakSent  : Bool
  /-- the flits from `oldest` up to `lseq` -/
  retry    : List SentFlit
  /-- seal groups of which some flit is not acknowledged, oldest first -/
  sealed   : List SealGroup
  /-- per VC, the packet that is arriving -/
  part     : Vector (Option RxPart) 4
  /-- credits to send, per VC: L0, L1, RR, CTRL -/
  credits  : Vector Nat 4
  /-- credits to return, per VC -/
  owed     : Vector Nat 4
  /-- credits granted at bring-up, per VC (R341, R345) -/
  grant    : Vector Nat 4
  /-- packets and messages that wait for credits or for the retry buffer, oldest first -/
  queue    : List FlitLoad
  /-- the participant that is served, and the flits left of its turn (R387) -/
  turnOf   : Nat
  turnLeft : Nat
  enc      : Bool
  ver      : BitVec 4
  peer     : BitVec 15
  peerPort : BitVec 4
  rtt10ns  : BitVec 14
  echoTok  : Option (BitVec 64)
  peerEnc  : Bool
  secret   : Option LinkSecret
  myNonce  : Option (BitVec 256)
  peerNonce : Option (BitVec 256)
  txKey    : Option DirKey
  rxKey    : Option DirKey
deriving DecidableEq, Repr

def Port.reset : Port :=
  { state := .off, reason := 0, train := ⟨false, false, false, false, false⟩, lseq := 0, oldest := 0, aack := 0, nakSent := false,
    retry := [], sealed := [], part := Vector.replicate 4 none, credits := Vector.replicate 4 0, owed := Vector.replicate 4 0, grant := Vector.replicate 4 0, queue := [], turnOf := 0, turnLeft := 0, enc := false, ver := 0, peer := 0,
    peerPort := 0, rtt10ns := 0, echoTok := none, peerEnc := false, secret := none, myNonce := none, peerNonce := none, txKey := none,
    rxKey := none }

/-- What a ring-state origin last reported (R351): its RSEQ and links. -/
structure RingReport where
  origin : BitVec 15
  axis   : BitVec 8
  rseq   : BitVec 16
  links  : BitVec 8
deriving DecidableEq, Repr

/-- STATE of LM_STATk (R356). -/
inductive LmState where
  | absent | presentOff | on | fault
deriving DecidableEq, Repr

def LmState.code : LmState → Nat
  | .absent => 0
  | .presentOff => 1
  | .on => 2
  | .fault => 3

/-- A laser module (R330, R419). -/
structure Laser where
  /-- a module is in the socket -/
  present  : Bool
  state    : LmState
  draining : Bool
  removeOk : Bool
  serial   : BitVec 32
deriving DecidableEq, Repr

/-- The Meloend side. -/
structure Links where
  ports    : Vector Port 16
  lasers   : Vector Laser 12
  ring     : List RingReport
  wmap     : List RingReport
  rseq     : BitVec 16
  wrseq    : BitVec 16
deriving DecidableEq, Repr

/-! ### Collectives (14) -/

/-- Key of a group operation: CD_GROUP, job and sequence number. -/
structure OpKey where
  group : BitVec 16
  job   : BitVec 16
  seq   : BitVec 32
deriving DecidableEq, Repr

/-- A group as its members see it (R357, R358): the key of its communication queue, its size, this S4's rank, its ring
direction, its axis mask (0 in shared mode), its table entry and LIST_CRC. -/
structure Group where
  qkey  : Nat
  size  : Nat
  rank  : Nat
  rev   : Bool
  mask  : Nat
  entry : Nat
  crc   : BitVec 32
deriving DecidableEq, Repr

/-- The DATA packets received from one sender in one attempt (R366): the lowest PIDX not yet received, and those received
above it. -/
structure PidxMap where
  low : Nat
  set : List Nat
deriving DecidableEq, Repr

/-- Data, or an ALLTOALL length, that waits for its receiver's OPEN (R367). -/
structure OutItem where
  peer   : Nat
  origin : Nat
  offset : Nat
  nunits : Nat
  satcnt : Nat
  blame  : Nat
  reason : Nat
  body   : CollBody
deriving DecidableEq, Repr

/-- Units of an origin: origin, first unit, how many. -/
abbrev Span := Nat × Nat × Nat

/-- Units that a member has sent to another (R362): the receiver, the origin of the segment, which passage of it along the ring (0,
or 1 for the gathered segments of an ALLREDUCE), the first unit and how many. -/
structure SentSpan where
  peer   : Nat
  origin : Nat
  pass   : Nat
  first  : Nat
  n      : Nat
deriving DecidableEq, Repr

/-- An open group operation at this member (R264, R367, R378). -/
structure GroupOp where
  key       : OpKey
  grp       : Group
  cmd       : CmdKey
  logical   : Nat
  /-- the core whose COLL instruction awaits it; none once that core is lost (R385) -/
  core      : Option CoreId
  phase     : BitVec 16
  opc       : Nat
  dtype     : Nat
  count     : Nat
  root      : Nat
  cap       : Nat
  seed      : BitVec 64
  stream    : BitVec 32
  anchor    : BitVec 16
  /-- agreed scales and lengths to send, read at start -/
  scales    : List Byte
  lens      : List Nat
  lensAt    : Nat
  doneAt    : Nat
  /-- the counter word that the operation's end adds CINC to (R268) -/
  counter   : Option Nat
  cinc      : Nat
  dhash     : BitVec 32
  src       : Option Desc
  dst       : Option Desc
  station   : Option MPort
  attempt   : Nat
  retries   : Nat
  openAt    : Nat
  /-- ranks whose OPEN of this attempt has arrived and agrees -/
  opens     : List Nat
  /-- units ready for a receiver whose OPEN has not arrived -/
  outq      : List OutItem
  /-- next PIDX per receiver, and what has arrived per sender -/
  pidxOut   : KMap Nat
  pidxIn    : List (Nat × PidxMap)
  /-- units sent, units of chains passed on or ended here, units written into the destination -/
  sent      : Nat
  spans     : List SentSpan
  passed    : List Span
  written   : List Span
  /-- ALLTOALL: lengths received by rank, with dropped counts -/
  rlens     : List (Nat × Nat × Nat)
  ready     : List Nat
  readySent : Bool
  nsat      : Nat
  ndrop     : Nat
  /-- ranks probed and not answered (R380) -/
  probed    : List Nat
  /-- the wait that ended last: its BLAME and REASON (R388) -/
  lastWait  : Option (Nat × Nat)
  charged   : List (Nat × Nat × Nat)
  waitNs    : Nat
  /-- the KIND of the report that this member must make, once its collective step is done where it is a pre-emption (R382, R384), and
  whether it has been made in this attempt -/
  leaving   : Option (BitVec 8)
  told      : Bool
  /-- an END that arrived while an earlier operation of the group is open (R360) -/
  decided   : Option (Status × BitVec 32)
deriving DecidableEq, Repr

/-- A decided operation in its group's window (R378, R385): the outcome and the completion record. -/
structure PastOp where
  key     : OpKey
  attempt : Nat
  cmd     : CmdKey
  logical : Nat
  status  : Status
  rank    : BitVec 32
  dtype   : Nat
  dhash   : BitVec 32
  doneAt  : Nat
  rec_    : List Byte
  /-- the core whose COLL instruction issued it; none once that core is lost (R385) -/
  core    : Option CoreId
  /-- that instruction has not yet completed -/
  waiting : Bool
deriving DecidableEq, Repr

/-- What this member knows of an operation that it has not opened: the attempt that rank 0 has raised it to, and the decision where one
is taken (R369, R381). -/
structure EarlyOp where
  key     : OpKey
  attempt : Nat
  decided : Option (Status × BitVec 32)
deriving DecidableEq, Repr

/-- The collectives of the S4. -/
structure Coll where
  ops     : List GroupOp
  past    : List PastOp
  /-- NEXT_SEQ by communication queue: entry n of the group table, or 64 + 32 j + group number for axis-mode job entry j -/
  nextSeq : KMap (BitVec 32)
  /-- OPENs held for an operation not yet opened here -/
  held    : List CollPkt
  early   : List EarlyOp
  /-- entries written to the wait ledger of a job entry -/
  ledgerN : KMap Nat
  /-- the rank list of each group entry, as read at its commit (R358) -/
  lists   : KMap (List (BitVec 16))
  /-- instructions that a job's cores had issued at the last probe, by probed operation (R380) -/
  marks   : List (OpKey × Nat)
deriving DecidableEq, Repr

end Sys2Proof.Machine
end

