-- ==== Sys2Proof/Machine/GuideState.lean ====
section
/-! DEFINITION. The state of the Guide and of what it looks after: pins and start-up (20, 21), power (17), reliability,
probes and cairn records (18), identity and security (19), the summit book (20) and the management port (21). Plain data. -/
namespace Sys2Proof.Machine

/-! ### Cairn records (R480, R481) -/

/-- CR_UTYPE of R480. -/
inductive UType where
  | core | slice | stack | mport | hport | laser | engine | guide | module
deriving DecidableEq, Repr

def UType.code : UType → Nat
  | .core => 1
  | .slice => 2
  | .stack => 3
  | .mport => 4
  | .hport => 5
  | .laser => 6
  | .engine => 7
  | .guide => 8
  | .module => 9

/-- A cairn record (R480). CR_NUM and CR_SNAP are given when it enters the ring. -/
structure Cairn where
  kind   : Nat
  utype  : UType
  unit   : Nat
  num    : Nat
  devid  : BitVec 16
  dstate : DState
  fwVer  : BitVec 32
  boots  : Word
  uptime : Nat
  snap   : Word
  action : Nat
  temp   : BitVec 16
  voff   : BitVec 16
  vin    : BitVec 16
  clkKhz : Nat
  job    : BitVec 16
  suppr  : Nat
  cmd    : Option CmdKey
  psVer  : BitVec 32
  addr   : BitVec 64
  epoch  : Nat
  data   : List Byte
  /-- the device event that announces it, where it has one of its own (R484): ENUM and DETAIL bytes 0 to 7 -/
  ev     : Option (BitVec 16 × BitVec 64)
deriving DecidableEq, Repr

/-! ### Pins (R526 to R531) -/

structure Pins where
  aux      : Bool            -- 3V3_AUX present
  pwrEn    : Bool            -- MOD_PWR_EN asserted
  pwrOk    : Bool            -- MOD_PWR_OK asserted
  vinRange : Bool            -- VIN_48V between 40 V and 60 V
  over60   : Bool            -- VIN_48V above 60 V
  resetLow : Bool            -- MOD_RESET_N asserted
  armed    : Bool            -- deasserted for 10 us since the last cold reset it caused (R528)
  offHold  : Bool            -- the 200 ms of R531 step 9 run
  alertSafe : Bool           -- SAFE holds MOD_ALERT_N until BOOT (R530)
  slotId   : BitVec 4        -- straps
  latched  : BitVec 4        -- straps as read at step 3 of R510
deriving DecidableEq, Repr

/-! ### Device state and start-up (R23 to R29, R510 to R513) -/

/-- Which reset class a BOOT belongs to (R512). -/
inductive BootClass where
  | warm | cold | powerOn
deriving DecidableEq, Repr

structure Device where
  dstate    : DState
  /-- the state held before RETREAT (R25) -/
  prev      : DState
  /-- retreat stage, 0 none, 1 to 6 A to F (R458, R459) -/
  stage     : Nat
  sealed    : Bool
  dbgLocked : Bool
  /-- the steps of a recovery run, and a quarantine has moved work since BOOT began (R43): see `Ctl.recovering` -/
  recovery  : Bool
  relocate  : Bool
  /-- a unit left service since RETREAT was entered (R25, R27) -/
  leftRetreat : Bool
  /-- HBM is in self-refresh (R28, R514) -/
  selfRefresh : Bool
  /-- Guide cores in service (R23) -/
  guideA    : Bool
  guideB    : Bool
  /-- both halted for self-test (R467) -/
  halted    : Bool
  boot      : BootClass
  bootStep  : Nat
  lastReset : Nat
  tailMiss  : Bool
  sbLost    : Bool
  /-- the SAFE condition that would end BOOT again (R513): a lost journal -/
  jnlLost   : Bool
  /-- FW_FALLBACK to raise at the first admission (R491) -/
  fallback  : Bool
  /-- Guide time since step 3 of the latest start-up, us (R480; log 21) -/
  uptime    : Nat
  /-- Guide time in the current start-up since t0, us (R57) -/
  sinceT0   : Nat
  epoch     : Nat
  /-- power-ons since manufacture (R480) -/
  powerOns  : Nat
  bootMs    : Nat
  /-- this start-up follows a reset that a host requested in MAINTENANCE (R56) -/
  maint     : Bool
  /-- time in service, downtime and excluded time, us (R57) -/
  svcUs     : Nat
  downUs    : Nat
  exclUs    : Nat
deriving DecidableEq, Repr

/-! ### Power (17) -/

/-- A core's clock as the governor set it (R448, R453 to R455): steps below 700 MHz of the cap path, of temperature and of a droop,
and ARRAY_DUTY. -/
structure CoreClk where
  cap   : Nat
  therm : Nat
  droop : Nat
  duty  : Nat
deriving DecidableEq, Repr

def CoreClk.reset : CoreClk := ⟨0, 0, 0, 64⟩

/-- Demands of the classes (R449), in watts. -/
structure Demand where
  ports : Rat
  mem   : Rat
  vec   : Rat
  arr   : Rat
deriving DecidableEq, Repr

/-- An entry of the phase table (R451): newest of at most 16 demands first. -/
structure PhaseEnt where
  job   : BitVec 16
  phase : BitVec 16
  seen  : List Demand
deriving DecidableEq, Repr

structure Power where
  /-- K of R443, exact; PWR_CAL shows it in units of 2^-15 (log 22) -/
  k         : Rat
  pEst      : Rat
  /-- P_est values since the last measurement sample -/
  recent    : List Rat
  /-- E of the last measurement sample (R445) -/
  eLast     : Rat
  /-- the samples since the last calibration, with the sums of M and of P_load (R443) -/
  samples   : Nat
  sumM      : Rat
  sumLoad   : Rat
  /-- dynamic energy estimated since the last measurement sample, uJ, and what cores spent of it on each command (R456) -/
  dynUj     : Rat
  coreUj    : List (CmdKey × BitVec 16 × Rat)
  pMeas     : Nat
  untrusted : Bool
  fallback  : Bool
  measFault : Bool
  disagree  : Nat
  agree     : Nat
  valid     : Nat
  /-- consecutive 2 us ticks below the floor, and with the floor kept in the background (R450) -/
  missed    : Nat
  kept      : Nat
  allocArr  : Rat
  allocMem  : Rat
  /-- the fraction of their request rates that the cap path leaves the slice classes HBM, HOST and CORE and the HBM controllers
  (R448) -/
  memRate   : Rat
  /-- P_est over M of the last good sample: what the estimate is scaled by while it governs untrusted (R445) -/
  trim      : Rat
  phases    : List PhaseEnt
  clk       : KMap CoreClk
  /-- the Guide's clock is held one step down after a droop (R453) -/
  guideSlow : Bool
  vin       : BitVec 12
  hot       : Nat
  hotCores  : List Nat
  /-- temperatures by island number, in units of 0.25 C (R454) -/
  temps     : KMap Int
  /-- energy accounts in uJ by job (R456, R457) -/
  ledger    : KMap Nat
  idleUj    : Nat
deriving DecidableEq, Repr

/-! ### Reliability (18) -/

/-- The first failing point of a probe run (R481). -/
structure FirstFail where
  point    : Nat
  prog     : Nat
  index    : BitVec 8
  expected : BitVec 32
  observed : BitVec 32
  suspect  : Bool
  temp     : BitVec 16
  voff     : BitVec 16
  clkKhz   : Nat
deriving DecidableEq, Repr

/-- A probe run (R474, R475). `set` is the probe set it began with (R476), of slot `slot`, and `trial` tells that this was on trial. -/
structure ProbeRun where
  core    : CoreId
  release : Bool
  slot    : Bool
  set     : List Byte
  trial   : Bool
  number  : BitVec 32
  /-- waits for a hot window: step 1 of R475 has not come -/
  waiting : Bool
  /-- the program of the set that is loaded, what those before it left at this point, and whether the one that runs has escalated -/
  prog    : Nat
  res     : List ProbeProg
  esc     : Bool
  point   : Nat
  fails   : BitVec 32
  suspect : BitVec 32
  /-- what R472 asks for at the end: 0 nothing, 1 narrow, 2 quarantine for a detector failure -/
  due     : Nat
  first   : Option FirstFail
deriving DecidableEq, Repr

/-- An action of R478, R492 or R508 that runs, with the status it will end with. -/
structure Action where
  code   : Nat
  status : Status
  /-- what it writes when it ends: a bundle or image, or decrypted or encrypted bytes -/
  bytes  : List Byte
  dst    : Nat
deriving DecidableEq, Repr

structure Rel where
  waiting  : List Cairn          -- records that wait for a batch, oldest first
  ring     : List Cairn          -- newest first, at most 4,096
  nextNum  : Nat
  /-- when each unit's records were written, us of the uptime, below 0 before a warm reset, newest first, and how many are suppressed
  since -/
  written  : List (UType × Nat × List Int × Nat)
  runs     : List ProbeRun
  runNo    : BitVec 32
  /-- cores that the Guide owes a release probe (R468) -/
  owed     : List CoreId
  sliceRet : KMap Nat            -- retirements since manufacture (R470)
  stackRet : KMap Nat
  /-- slices and stacks retired for good or still under test are in the STATE fields -/
  psImg    : Vector (Option (List Byte)) 2
  psActive : Bool
  psTrial  : Bool
  psFloor  : BitVec 32
  psRuns   : Nat
  psSusp   : Nat
  psAct    : Option Action
  psLast   : Status
  /-- device pages whose uncorrected read is counted (R301), and by region the page cases whose spare page took the place of copy 0
  or 1 (R300) -/
  uePages  : List Nat
  restored : KMap (List (Nat × Nat))
  svcUs    : Nat                 -- service time counted toward the next hour of HOURS_SINCE
deriving DecidableEq, Repr

/-! ### Security (19) -/

/-- A rope team key slot (R508). -/
structure KeySlot where
  job    : BitVec 16
  bundle : BitVec 64
  mbk    : List Byte
deriving DecidableEq, Repr

structure Sec where
  /-- next leaf and RESERVE (R494), with the two summit book copies: write sequence, value -/
  q        : Nat
  reserve  : Nat
  copyA    : Nat × Nat
  copyB    : Nat × Nat
  /-- top index of the newest bottom tree made, and the traversal state: by tree, the signature of its key (R495) -/
  tree     : Nat
  treeSigs : KMap (Option (List Byte))
  /-- LEAVES_LEFT at which LMS_LOW was last raised; 2^41 before (R496) -/
  lowAt    : Nat
  anchor   : BitVec 256
  /-- ML-KEM key generations (R498) -/
  boots    : Nat
  /-- images in slots A and B; none: as manufactured -/
  fwImg    : Vector (Option (List Byte)) 2
  fwSlot   : Bool
  next     : Bool
  trial    : Bool
  trialBt  : Bool
  /-- FUSE_SVN once burned beyond the manufactured value -/
  svn      : Option (BitVec 7)
  act      : Option Action
  rtAct    : Option Action
  last     : Status
  kslots   : Vector (Option KeySlot) 8
  /-- the HBM controllers' key pair (R297); none before BOOT draws it -/
  hbmKey   : Option (BitVec 512)
deriving DecidableEq, Repr

/-! ### The summit book (R517 to R523) -/

/-- A session as the book holds it. -/
structure BookSession where
  id       : BitVec 32
  token    : BitVec 64
  ver      : BitVec 8
  isa      : BitVec 8
  features : BitVec 64
  nq       : Nat
  hof      : Word
  lastDone : List (Option (BitVec 48) × List (BitVec 48 × Status))
  /-- ended by BYE on entry to SAFE: shown, and no longer resumed (R28, R404) -/
  ended    : Bool
deriving DecidableEq, Repr

/-- Batch items of R517 (cairn records are in `Rel`). -/
structure BookItems where
  sessions : KMap BookSession
  jver     : KMap Word
  jvalid   : BitVec 16
  ledger   : KMap Nat
  idleUj   : Nat
  /-- time in service, downtime, excluded time, us -/
  avail    : Nat × Nat × Nat
deriving DecidableEq, Repr

/-- Contents of the book as of a BSEQ: a checkpoint, or what the log holds up to a batch (R518, R519). -/
structure Ckpt where
  bseq     : Nat
  items    : BookItems
deriving DecidableEq, Repr

structure Book where
  /-- the items as the book gives them when it is read back -/
  items    : BookItems
  bseq     : Nat
  /-- the two header copies: the epoch that each was written for (R518, R522) -/
  hdrA     : Nat
  hdrB     : Nat
  /-- the mark of the epoch's first accepted command -/
  mark     : Bool
  /-- a valid tail follows the last batch -/
  tail     : Bool
  /-- the complete checkpoints A and B, the copy being written (B where true), and the batches still in the log, newest first -/
  ckptA    : Ckpt
  ckptB    : Ckpt
  writing  : Option (Bool × Ckpt)
  log      : List Ckpt
  /-- SUM_JVERj of job entries that were unloaded, as they stood then; taken by the next batch (R515, R520) -/
  lastVer  : KMap Word
deriving DecidableEq, Repr

/-- A core's transfer whose bytes fill flow queues (R278): the base dies whose slices it uses, and its bytes in them. -/
structure Flow where
  core  : CoreId
  iseq  : BitVec 48
  dies  : List Nat
  bytes : Nat
deriving DecidableEq, Repr

/-- A pending or finished management read (R536). -/
structure Mgmt where
  pending : Option (BitVec 64 × BitVec 8)
  ready   : Option (BitVec 8 × Word × List Word)
deriving DecidableEq, Repr

end Sys2Proof.Machine
end

