-- ==== Sys2Proof/Machine/State.lean ====
section
/-! DEFINITION. The whole state of the S4, its faults and refusals, the reset values of its registers and the machine right
after power-on. Plain data. -/
namespace Sys2Proof.Machine

/-! ### The control address map (R422) -/

namespace Addr
def glb : Nat := 0x20000000000
def cap : Nat := 0x20000010000
def job : Nat := 0x20000020000
def bc : Nat := 0x20000100000
def hbm : Nat := 0x20000200000
def mlk : Nat := 0x20000300000
def coll : Nat := 0x20000400000
def elo : Nat := 0x20001000000
def pwr : Nat := 0x20002000000
def rel : Nat := 0x20003000000
def sec : Nat := 0x20004000000
def sum : Nat := 0x20005000000

def gstat : Nat := glb
def gsnap : Nat := glb + 0x8
def gcfg : Nat := glb + 0x10
def gtxn : Nat := glb + 0x18
def avSvc : Nat := glb + 0x100
def avDown : Nat := glb + 0x108
def avExcl : Nat := glb + 0x110
def avCtl : Nat := glb + 0x118
def jobA (j : Nat) : Nat := job + 64 * j
def jobB (j : Nat) : Nat := job + 64 * j + 0x8
def jobC (j : Nat) : Nat := job + 64 * j + 0x10
def jobD (j : Nat) : Nat := job + 64 * j + 0x18
def jobE (j : Nat) : Nat := job + 64 * j + 0x20
def jobF (j : Nat) : Nat := job + 64 * j + 0x28
def sesHof (i : Nat) : Nat := job + 0x1000 + 8 * i
def sesRights (i : Nat) : Nat := job + 0x3000 + 8 * i
def bcShare : Nat := bc
def bcJnlCfg : Nat := bc + 0x8
def bcJnlStat : Nat := bc + 0x10
def bcSliceCfg (n : Nat) : Nat := bc + 0x100 + 8 * n
def bcSliceStat (n : Nat) : Nat := bc + 0x200 + 8 * n
def bcPar (n : Nat) : Nat := bc + 0x300 + 8 * n
def bcRgnLo (k : Nat) : Nat := bc + 0x1000 + 16 * k
def bcRgnHi (k : Nat) : Nat := bc + 0x1008 + 16 * k
def hbmStat (n : Nat) : Nat := hbm + 8 * n
def hbmEcc (n : Nat) : Nat := hbm + 0x100 + 8 * n
def hbmRgnLo (k : Nat) : Nat := hbm + 0x1000 + 32 * k
def hbmRgnMid (k : Nat) : Nat := hbm + 0x1008 + 32 * k
def hbmRgnHi (k : Nat) : Nat := hbm + 0x1010 + 32 * k
def mlkCoord : Nat := mlk
def mlkAxis : Nat := mlk + 0x8
def mlkVc : Nat := mlk + 0x10
def mlkLcfg : Nat := mlk + 0x18
def mlkDrop : Nat := mlk + 0x20
def mlkPcfg (n : Nat) : Nat := mlk + 0x100 + 8 * n
def mlkPstat (n : Nat) : Nat := mlk + 0x200 + 8 * n
def mlkPerr (n : Nat) : Nat := mlk + 0x300 + 8 * n
def lmStat (k : Nat) : Nat := mlk + 0x800 + 8 * k
def lmCtl : Nat := mlk + 0x880
def collCfg : Nat := coll
def collStat : Nat := coll + 0x8
def collDrop : Nat := coll + 0x10
def collJobLo (j : Nat) : Nat := coll + 0x100 + 16 * j
def collJobHi (j : Nat) : Nat := coll + 0x108 + 16 * j
def collBstat (k : Nat) : Nat := coll + 0x200 + 8 * k
def collGrpA (n : Nat) : Nat := coll + 0x1000 + 32 * n
def collGrpB (n : Nat) : Nat := coll + 0x1008 + 32 * n
def collGrpC (n : Nat) : Nat := coll + 0x1010 + 32 * n
def eloCfg : Nat := elo
def eloStat : Nat := elo + 0x8
def eloDrop : Nat := elo + 0x10
def eloSessClose : Nat := elo + 0x18
def eloPcfg (n : Nat) : Nat := elo + 0x100 + 8 * n
def eloPstat (n : Nat) : Nat := elo + 0x200 + 8 * n
def eloPerr (n : Nat) : Nat := elo + 0x300 + 8 * n
def eloPip (n : Nat) : Nat := elo + 0x400 + 32 * n
def eloPmac (n : Nat) : Nat := elo + 0x500 + 8 * n
def eloSlot (i : Nat) : Nat := elo + 0x10000 + 0x800 * i
def pwrCap : Nat := pwr
def pwrStat : Nat := pwr + 0x8
def pwrCal : Nat := pwr + 0x10
def pwrVin : Nat := pwr + 0x18
def pwrTherm : Nat := pwr + 0x20
def pwrDroop : Nat := pwr + 0x28
def pwrIdle : Nat := pwr + 0x30
def pwrJob (j : Nat) : Nat := pwr + 0x100 + 8 * j
def relCfg : Nat := rel
def relStat : Nat := rel + 0x8
def relCtl : Nat := rel + 0x10
def relPsSrc : Nat := rel + 0x18
def relPsLen : Nat := rel + 0x20
def relPsStat : Nat := rel + 0x28
def relPsVer : Nat := rel + 0x30
def relCnt : Nat := rel + 0x38
def relCrnum : Nat := rel + 0x40
def relCore (n : Nat) : Nat := rel + 0x1000 + 8 * n
def relRing : Nat := rel + 0x100000
def secCtl : Nat := sec
def secStat : Nat := sec + 0x8
def secLms : Nat := sec + 0x10
def secFwSrc : Nat := sec + 0x18
def secFwLen : Nat := sec + 0x20
def secRtSrc : Nat := sec + 0x28
def secRtDst : Nat := sec + 0x30
def secRtLen : Nat := sec + 0x38
def secOpkey (n : Nat) : Nat := sec + 0x40 + 8 * n
def secKslot (n : Nat) : Nat := sec + 0x80 + 8 * n
def sumStat : Nat := sum
def sumEpoch : Nat := sum + 0x8
def sumCtl : Nat := sum + 0x10
def sumBseq : Nat := sum + 0x18
def sumJvalid : Nat := sum + 0x20
def sumJver (j : Nat) : Nat := sum + 0x100 + 8 * j
def sumQtab (i : Nat) : Nat := sum + 0x100000 + 0x800 * i
end Addr

/-- Index of an address in an array of registers: first address, distance, how many. -/
def idxOf (a base stride n : Nat) : Option Nat :=
  if base ≤ a ∧ (a - base) % stride = 0 ∧ (a - base) / stride < n then some ((a - base) / stride) else none

/-- AXIS, ROLE and WIDX of MLK_PCFGn after reset (R349): M0 to M6 are the W ports WIDX 0 to 6, M7 to M12 the PLUS and
MINUS ports of X, Y and Z, M13 to M15 their EXPRESS ports. -/
def pcfgReset (n : Nat) : Nat :=
  if n < 7 then 1 + n * 32
  else if n < 13 then 2 + (n - 7) / 2 + (n - 7) % 2 * 8
  else 2 + (n - 13) + 2 * 8

/-- Reset value of the stored fields of a register: the fields whose reset value is not 0 (R9 and the register maps). -/
def resetWord (a : Nat) : Word :=
  if a < Addr.cap then
    if a = Addr.gcfg then 1000 <<< 2 else 0
  else if a < Addr.job then
    if a = Addr.cap then 0x1111B0
    else if a = Addr.cap + 0x8 then
      BitVec.ofNat 64 (384 + 32 * 2 ^ 9 + 12 * 2 ^ 15 + 16 * 2 ^ 19 + 8 * 2 ^ 24 + 12 * 2 ^ 28 + 128 * 2 ^ 32 +
        128 * 2 ^ 40 + 16 * 2 ^ 48 + 8 * 2 ^ 53)
    else if a = Addr.cap + 0x10 then 0x3F
    else if a = Addr.cap + 0x18 then Config.serialLo
    else if a = Addr.cap + 0x20 then Config.serialHi
    else 0
  else if a < Addr.bc then
    if (idxOf a (Addr.sesHof 0) 8 1024).isSome then BitVec.allOnes 64 else 0
  else if a < Addr.hbm then
    if a = Addr.bcShare then 0x2401110A
    else if a = Addr.bcJnlCfg then 0x170F07
    else if (idxOf a (Addr.bcSliceCfg 0) 8 32).isSome then 12
    else 0
  else if a < Addr.mlk then 0
  else if a < Addr.coll then
    if a = Addr.mlkAxis then 0xFFF3
    else if a = Addr.mlkVc then BitVec.ofNat 64 (2048 + 1280 * 2 ^ 13 + 704 * 2 ^ 26 + 64 * 2 ^ 39)
    else if a = Addr.mlkLcfg then 1
    else match idxOf a (Addr.mlkPcfg 0) 8 16 with
      | some n => BitVec.ofNat 64 (pcfgReset n + 2 ^ 8)
      | none => 0
  else if a < Addr.elo then
    if a = Addr.collCfg then BitVec.ofNat 64 (500 + 3 * 2 ^ 14 + 1024 * 2 ^ 17)
    else if (idxOf a (Addr.collJobLo 0) 16 16).isSome then 16 <<< 18
    else if (idxOf a (Addr.collJobHi 0) 16 16).isSome then 12 <<< 48
    else if (idxOf a (Addr.collGrpA 0) 32 64).isSome then BitVec.ofNat 64 (16 * 2 ^ 18 + 2 ^ 26)
    else 0
  else if a < Addr.pwr then
    if a = Addr.eloCfg then BitVec.ofNat 64 (56820 + 2 ^ 16 + 50 * 2 ^ 23)
    else if (idxOf a (Addr.eloPcfg 0) 8 8).isSome then 1
    else 0
  else if a < Addr.rel then
    if a = Addr.pwrCap then BitVec.ofNat 64 (240 + 240 * 2 ^ 8)
    else if a = Addr.pwrTherm then BitVec.ofNat 64 (100 * 2 ^ 8)
    else 0
  else if a < Addr.sec then
    if a = Addr.relCfg then BitVec.ofNat 64 (1 + 168 * 2 + 600 * 2 ^ 15 + 16 * 2 ^ 25) else 0
  else if a = Addr.secLms then BitVec.ofNat 64 (24 * 2 ^ 41)
  else 0

/-! ### The control plane -/

/-- Everything outside the cores and the memories. `regs` stores, by control address, the committed TX fields, the W1C
counters and the RO fields that no other field below holds. `bad` lists the 32-bit words of device memory that read bad until they
are rewritten (R287, R289, R301), by number, and `flows` what fills transit capacity (R278). -/
structure Ctl where
  regs  : KMap Word
  dev   : Device
  pins  : Pins
  elo   : Elo
  jnl   : Journal
  txn   : TxnState
  links : Links
  coll  : Coll
  pow   : Power
  rel   : Rel
  sec   : Sec
  book  : Book
  mgmt  : Mgmt
  bad   : List Nat
  flows : List Flow
deriving DecidableEq, Repr

/-- The S4. `snap` and `prev` are the two snapshots of R45; `out` is what the S4 has sent, newest first (log 15); `freeCtr`
counts the free values taken (log 16); `pending` is the queue of waiting commands. -/
structure State where
  cores   : Vector Core 384
  mem     : Memory
  ctl     : Ctl
  snap    : Ctl
  snapVer : Word
  prev    : Option Ctl
  out     : List Output
  freeCtr : Nat
  pending : List Instr
deriving DecidableEq, Repr

/-- Reasons to stop. The S4 has none: every condition of the manual is a next state (a trap, a status, SAFE). -/
inductive Fault where
  /-- The supply is lost for good: nobody raises it. Safe: no next state is claimed. -/
  | stopped
deriving DecidableEq, Repr

/-- Reasons to refuse a command. -/
inductive Refusal where
  /-- A command whose meaning is not written: raised by `exec` only. Safe: no next state is claimed. -/
  | notModelled (mnemonic : String)
deriving DecidableEq, Repr

/-! ### Reset -/

def HostPort.reset : HostPort := ⟨.off, 0, [], 0⟩
def Laser.reset : Laser := ⟨true, .absent, false, false, 0⟩

def Elo.reset : Elo :=
  { sessions := [], idsUsed := [], images := [], ports := Vector.replicate 8 HostPort.reset }

def Journal.reset : Journal :=
  { cmds := [], reports := [], jseq := 0, wideAll := [], ring0 := [], ring1 := [], head := 0, owedAcks := [], mirror0 := 7, mirror1 := 15, standby := 23, standbyValid := true,
    single := false, remirror := false }

def TxnState.reset : TxnState := ⟨none, [], [], 0, []⟩

def Links.reset : Links :=
  { ports := Vector.replicate 16 Port.reset, lasers := Vector.replicate 12 Laser.reset, ring := [], wmap := [], rseq := 0,
    wrseq := 0 }

def Coll.reset : Coll := ⟨[], [], [], [], [], [], [], []⟩

/-- K after reset: as fused (R464). -/
def fusedK : Rat := (Config.fusedK.toNat : Rat) / 32768

def Power.reset : Power :=
  { k := fusedK, pEst := 0, recent := [], eLast := 0, samples := 0, sumM := 0, sumLoad := 0, dynUj := 0, coreUj := [], pMeas := 0, untrusted := false, fallback := false, measFault := false,
    disagree := 0, agree := 0, valid := 0, missed := 0, kept := 0, allocArr := 0, allocMem := 0, memRate := 1, trim := 1, phases := [], clk := [],
    guideSlow := false, vin := 0, hot := 0, hotCores := [], temps := [], ledger := [], idleUj := 0 }

/-- Reliability state of a new module (log 10). -/
def Rel.reset : Rel :=
  { waiting := [], ring := [], nextNum := 0, written := [], runs := [], runNo := 0, owed := [], sliceRet := [], stackRet := [],
    psImg := Vector.replicate 2 none, psActive := false, psTrial := false, psFloor := 0, psRuns := 0, psSusp := 0,
    psAct := none, psLast := 0, uePages := [], restored := [], svcUs := 0 }

/-- Security state of a new module (R494, log 10). -/
def Sec.reset : Sec :=
  { q := 0, reserve := 0, copyA := (0, 0), copyB := (0, 0), tree := 0, treeSigs := [], lowAt := 2 ^ 41, anchor := 0, boots := 0,
    fwImg := Vector.replicate 2 none, fwSlot := false, next := false, trial := false, trialBt := false, svn := none,
    act := none, rtAct := none, last := 0, kslots := Vector.replicate 8 none, hbmKey := none }

def BookItems.reset : BookItems := ⟨[], [], 0, [], 0, 0, 0, 0⟩
def Book.reset : Book :=
  { items := BookItems.reset, bseq := 0, hdrA := 1, hdrB := 0, mark := false, tail := false, ckptA := ⟨0, BookItems.reset⟩,
    ckptB := ⟨0, BookItems.reset⟩, writing := none, log := [], lastVer := [] }

/-- The device at t0 of a power-on, at step 3 of R510 (log 4): BOOT, both Guide cores up, first epoch. -/
def Device.reset : Device :=
  { dstate := .boot, prev := .boot, stage := 0, sealed := false, dbgLocked := false, recovery := false, relocate := false, leftRetreat := false,
    selfRefresh := false, guideA := true,
    guideB := true, halted := false, boot := .powerOn, bootStep := 3, lastReset := 0, tailMiss := false, sbLost := false,
    jnlLost := false, fallback := false, uptime := 0, sinceT0 := 0, epoch := 1, powerOns := 1, bootMs := 0, maint := false, svcUs := 0, downUs := 0,
    exclUs := 0 }

/-- Pins at power-on (log 4): supplies in range, MOD_RESET_N high, straps of slot 0. -/
def Pins.reset : Pins :=
  { aux := true, pwrEn := true, pwrOk := true, vinRange := true, over60 := false, resetLow := false, armed := true,
    offHold := false, alertSafe := false, slotId := 0, latched := 0 }

def Ctl.reset : Ctl :=
  { regs := [], dev := Device.reset, pins := Pins.reset, elo := Elo.reset, jnl := Journal.reset, txn := TxnState.reset,
    links := Links.reset, coll := Coll.reset, pow := Power.reset, rel := Rel.reset, sec := Sec.reset, book := Book.reset,
    mgmt := ⟨none, none⟩, bad := [], flows := [] }

/-- The machine right after power-on: start-up at step 3 of R510, every register at its reset value, no command waiting. -/
def State.reset : State :=
  { cores := Vector.replicate 384 Core.reset, mem := [], ctl := Ctl.reset, snap := Ctl.reset, snapVer := 0, prev := none,
    out := [], freeCtr := 0, pending := [] }

end Sys2Proof.Machine
end

