-- ==== Sys2Proof/Machine/Ops.lean ====
section
/-! DEFINITION. The named operations over the state: stored registers, cores, what the S4 sends, snapshots, what a job may
reach, taking a trap and entering its handler. -/
namespace Sys2Proof.Machine

/-! ### Stored registers (R424) -/

/-- The stored fields of a register. -/
def Ctl.reg (c : Ctl) (a : Nat) : Word := KMap.get (resetWord a) c.regs a
def Ctl.setReg (c : Ctl) (a : Nat) (v : Word) : Ctl := { c with regs := KMap.set (resetWord a) c.regs a v }

/-- A word with bits [lo + n - 1 : lo] replaced by v modulo 2^n. -/
def putBits (w : Word) (lo n v : Nat) : Word :=
  BitVec.ofNat 64 (w.toNat - bits w.toNat lo n * 2 ^ lo + v % 2 ^ n * 2 ^ lo)

/-- Field [lo + n - 1 : lo] of a stored register. -/
def Ctl.fld (c : Ctl) (a lo n : Nat) : Nat := bits (c.reg a).toNat lo n
def Ctl.setFld (c : Ctl) (a lo n v : Nat) : Ctl := c.setReg a (putBits (c.reg a) lo n v)
def Ctl.bit (c : Ctl) (a i : Nat) : Bool := (c.reg a).getLsbD i
def Ctl.setBit (c : Ctl) (a i : Nat) (b : Bool) : Ctl := c.setFld a i 1 (if b then 1 else 0)

/-- Adds k to a saturating counter field. -/
def Ctl.bump (c : Ctl) (a lo n k : Nat) : Ctl := c.setFld a lo n (satAdd (2 ^ n - 1) (c.fld a lo n) k)

/-- Sets a KMap entry of plain numbers. -/
def addAt (m : KMap Nat) (k v : Nat) : KMap Nat := KMap.set 0 m k (KMap.get 0 m k + v)

/-! ### The state -/

def State.core (s : State) (c : CoreId) : Core := s.cores[c]
def State.setCore (s : State) (c : CoreId) (v : Core) : State := { s with cores := s.cores.set c v }
def State.mapCtl (s : State) (f : Ctl → Ctl) : State := { s with ctl := f s.ctl }

/-- The S4 sends a message, flit or answer (log 15). -/
def State.send (s : State) (o : Output) : State := { s with out := o :: s.out }

/-- A fresh free value (log 16). -/
def State.free (s : State) : BitVec 256 := Config.freeValue s.freeCtr
def State.tick (s : State) : State := { s with freeCtr := s.freeCtr + 1 }

/-- Cuts a snapshot (R45, R46): the version advances, and the snapshot before it is kept. -/
def State.cut (s : State) : State := { s with prev := some s.snap, snap := s.ctl, snapVer := s.snapVer + 1 }

/-- A change that a host awaits by reading registers is shown in a snapshot too (R45; log 34). -/
def State.shown (s : State) : State := s.cut

/-- Moves the device state; a change cuts a snapshot (R45). -/
def State.setDState (s : State) (d : DState) : State :=
  if s.ctl.dev.dstate = d then s
  else (s.mapCtl fun c => { c with dev := { c.dev with dstate := d } }).cut

/-! ### What a job may reach (R193, R276, R298) -/

/-- The Base Camp regions granted to a job. -/
def Ctl.bcRegions (c : Ctl) (job : Nat) : List BcRegion :=
  (List.range 256).filterMap fun k =>
    let a := Addr.bcRgnLo k
    if c.fld a 19 19 ≠ 0 ∧ c.fld a 38 16 = job then
      some ⟨k, bcBase + c.fld a 0 19 * 4096, c.fld a 19 19 * 4096, c.fld a 54 3⟩
    else none

/-- Indices of the HBM regions granted to a job. -/
def Ctl.hbmIdx (c : Ctl) (job : Nat) : List Nat :=
  (List.range 256).filter fun k => c.fld (Addr.hbmRgnLo k) 28 28 ≠ 0 ∧ c.fld (Addr.hbmRgnHi k) 0 16 = job

def Ctl.hbmRegions (c : Ctl) (job : Nat) : List (Nat × Nat) :=
  (c.hbmIdx job).map fun k => (c.fld (Addr.hbmRgnLo k) 0 28 * 4096, c.fld (Addr.hbmRgnLo k) 28 28 * 4096)

/-- Device memory as a job sees it. -/
def State.env (s : State) (job : Nat) : Env := ⟨s.mem, s.ctl.bcRegions job, s.ctl.hbmRegions job⟩

/-- The job of the program on a core. -/
def Core.job (c : Core) : Nat := match c.prog with
  | some p => p.job.toNat
  | none => 0

/-- Records the conditions of atomic adds in BC_RGN_HI (R281). -/
def Ctl.setConds (c : Ctl) (cs : List (Nat × Nat)) : Ctl := cs.foldl (fun c p => c.setBit (Addr.bcRgnHi p.1) p.2 true) c

/-- Whether one range of n bytes lies in one Base Camp user region or one HBM region granted to the job (R415). -/
def Ctl.inOneRegion (c : Ctl) (job a n : Nat) : Bool :=
  (c.bcRegions job).any (fun r => r.lo ≤ a && a + n ≤ r.lo + r.len) ||
  (c.hbmRegions job).any (fun r => r.1 ≤ a && a + n ≤ r.1 + r.2)

/-! ### Issue (R181) -/

/-- The core issues instructions: a program runs, nothing stalls the scalar unit and no trap is being taken. -/
def Core.canIssue (c : Core) : Bool :=
  (c.run == .running || c.run == .handler) && c.stall.isNone && c.trapping.isNone

/-- The program counter lies in the TEXT section (R203, 0x000D). -/
def Core.inText (c : Core) : Bool := match c.prog with
  | some p => decide (p.textLo ≤ c.pc.toNat) && decide (c.pc.toNat + 8 ≤ p.textLo + p.textLen)
  | none => false

/-- No entry is left in any queue. -/
def Core.idleQueues (c : Core) : Bool := c.queues.all (·.isEmpty)

/-! ### Taking a trap (R200 to R202) -/

/-- TRAPINFO (R198). -/
def trapWord (t : TrapC) (unit : BitVec 3) : Word :=
  (0#36 ++ t.desc ++ t.sub ++ 0#1 ++ unit ++ t.cls)

/-- A trap of the instruction (pc, iseq) in a unit. It is recorded if none is; later queued instructions that have not
started and armed injections (R236) are discarded; issue stops; the core goes to its handler, or to a halt on a second trap or without a handler. -/
def Core.trap (c : Core) (t : TrapC) (unit : BitVec 3) (pc : BitVec 22) (iseq : BitVec 48) : Core :=
  let c := if c.trapInfo.extractLsb' 0 4 = 0 then
      { c with trapInfo := trapWord t unit, trapPc := pc, trapSeq := iseq }
    else c
  let after : TrapAfter := match c.prog with
    | some p => if c.run = .handler ∨ p.trapEntry = 0 then .halt p.trapStatus else .handler
    | none => .halt 0
  { c with
    queues := c.queues.map fun q => q.filter fun e => e.started || decide (e.iseq < iseq)
    stall := none
    armed := Vector.replicate 4 0
    trapping := some (c.trapping.getD after) }

/-- UNIT of R198 for a queue. -/
def qUnit : QueueId → BitVec 3
  | .mac => 1
  | .acc => 2
  | .vec => 3
  | .qnt => 4
  | .dma => 5
  | .coll => 6

/-- Step 5 of R201: the handler starts once no instruction is left to complete. -/
def Core.enterHandler (c : Core) : Core :=
  match c.trapping, c.prog with
  | some .handler, some p =>
    if c.idleQueues then { c with run := .handler, pc := p.trapEntry, trapping := none } else c
  | _, _ => c

/-- Stops a core as R201 stops a trapping core, without its handler (R209, log 19): no further issue, queued instructions that
have not started are discarded, started ones complete, and the core halts with 0x0000. -/
def Core.stop (c : Core) : Core :=
  if c.run = .running ∨ c.run = .handler then
    { c with queues := c.queues.map fun q => q.filter fun e => e.started, stall := none, trapping := some (.halt 0) }
  else c

/-- Halts a core at an instruction boundary (R459, R512): nothing is left in its queues. -/
def Core.haltNow (c : Core) : Core :=
  if c.run = .idle then c
  else { c with queues := Vector.replicate 6 [], stall := none, trapping := none, run := .halted, prog := none }

/-! ### Semaphores (R185, R186) -/

/-- Adds 1 to a semaphore for the instruction (pc, iseq); an overflow leaves it and raises the sync trap. -/
def Core.signal (c : Core) (sem : BitVec 5) (unit : BitVec 3) (pc : BitVec 22) (iseq : BitVec 48) : Core :=
  let v := c.sem[sem.toNat]'(sem.isLt)
  if v = 0xFFFF then c.trap syncTrap unit pc iseq
  else { c with sem := c.sem.set sem.toNat (v + 1) sem.isLt }

/-- A signal of an instruction whose SIG bit is set (R214). -/
def Core.signalIf (c : Core) (w : GWord) (unit : BitVec 3) (pc : BitVec 22) (iseq : BitVec 48) : Core :=
  if sigBit w then c.signal (ssem w) unit pc iseq else c

end Sys2Proof.Machine
end

