-- ==== Sys2Proof/Machine/Events.lean ====
section
/-! DEFINITION. EVENTs to sessions (15 R412 to R414), cairn records (18 R480 to R484), units that leave and return to service
(01 R25 to R27) and the entry to SAFE (01 R28), as operations that many commands share. -/
namespace Sys2Proof.Machine

/-! ### Identity of this S4 -/

/-- DEVID (R347). -/
def Ctl.devid (c : Ctl) : BitVec 15 :=
  (c.pins.latched.extractLsb' 0 3) ++ ((c.reg Addr.mlkCoord).extractLsb' 8 4) ++
    ((c.reg Addr.mlkCoord).extractLsb' 4 4) ++ ((c.reg Addr.mlkCoord).extractLsb' 0 4)

/-- The bytes of a firmware or probe set slot, A (false) or B. -/
def Ctl.fwBytes (c : Ctl) (slot : Bool) : List Byte :=
  ((if slot then c.sec.fwImg[1] else c.sec.fwImg[0])).getD (Config.flashFirmware slot)
def Ctl.psBytes (c : Ctl) (slot : Bool) : List Byte :=
  ((if slot then c.rel.psImg[1] else c.rel.psImg[0])).getD (Config.flashProbeSet slot)

/-- A little-endian field of an object. -/
def leField (b : List Byte) (off n : Nat) : Nat := ofLe ((b.drop off).take n)

/-- Stress points of a probe set bundle; VOFF in mV and DCLK in MHz of one (R477). -/
def psNpoint (b : List Byte) : Nat := leField b 0x10 2
def psPoint (b : List Byte) (p : Nat) : Int × Nat :=
  ((BitVec.ofNat 8 (leField b (0x40 + 4 * p) 1)).toInt * 10, leField b (0x41 + 4 * p) 1)

/-- FW_VER of the running image, and PS_VER of the active set (0 when none). -/
def Ctl.fwVer (c : Ctl) : BitVec 32 := BitVec.ofNat 32 (leField (c.fwBytes c.sec.fwSlot) 8 4)
def Ctl.psVer (c : Ctl) (slot : Bool) : BitVec 32 := BitVec.ofNat 32 (leField (c.psBytes slot) 8 4)

/-! ### Cores in service -/

/-- QSTATE, QCAUSE and the other fields of REL_COREn (R487). -/
def Ctl.qstate (c : Ctl) (n : Nat) : Nat := c.fld (Addr.relCore n) 0 2
def Ctl.coreOut (c : Ctl) (n : Nat) : Bool := c.qstate n == 2
/-- A core out of service: quarantined, or under the release probe that it has yet to pass (R469). -/
def Ctl.coreGone (c : Ctl) (n : Nat) : Bool := c.coreOut n || c.rel.runs.any fun r => r.release && r.core.val == n
def Ctl.coresSvc (c : Ctl) : Nat := ((List.range 384).filter fun n => !c.coreGone n).length
def Ctl.sliceState (c : Ctl) (n : Nat) : Nat := c.fld (Addr.bcSliceStat n) 0 2
def Ctl.stackState (c : Ctl) (n : Nat) : Nat := c.fld (Addr.hbmStat n) 0 2
def Ctl.slicesSvc (c : Ctl) : Nat := ((List.range 32).filter fun n => c.sliceState n == 0).length
def Ctl.stacksSvc (c : Ctl) : Nat := ((List.range 12).filter fun n => c.stackState n == 0).length
def Ctl.mportUp (c : Ctl) (p : MPort) : Bool := (c.links.ports[p]).state == .up
def Ctl.hportUp (c : Ctl) (p : HPort) : Bool := (c.elo.ports[p]).state == .up

/-- A port has left service through a fault or a removal and has not returned: it is DOWN, or training again with the
REASON of its departure. A port that is disabled (EN 0, REASON 1) has not. -/
def Port.out (p : Port) : Bool := (p.state == .down || p.state == .training) && p.reason != 0 && p.reason != 1
def HostPort.out (p : HostPort) : Bool := (p.state == .down || p.state == .training) && p.reason != 0 && p.reason != 1
def Laser.out (l : Laser) : Bool := l.state != .on

/-- Some unit is out of service through a fault or removal (R24). -/
def Ctl.unitsOut (c : Ctl) : Bool :=
  (List.range 384).any (fun n => c.coreGone n) || (List.range 32).any (fun n => c.sliceState n != 0) ||
  (List.range 12).any (fun n => c.stackState n != 0) || !c.dev.guideA || !c.dev.guideB ||
  c.links.ports.any (·.out) || c.elo.ports.any (·.out) || c.links.lasers.any (·.out)

/-! ### Recovery (R43) -/

/-- A logical index of a running command waits for another core (R212). -/
def Ctl.lostIndex (c : Ctl) : Bool :=
  c.jnl.cmds.any fun m => m.phase == .running && m.placement.any fun x => x.core.isNone && x.halted.isNone

/-- RECOVERY_BUSY (R43, R291, R302, R346): the steps of a recovery run, re-mirroring does, or the work of a quarantined core
waits for another (log 88). -/
def Ctl.recovering (c : Ctl) : Bool := c.dev.recovery || c.jnl.remirror || (c.dev.relocate && c.lostIndex)

/-- A recovery from a single-part fault begins. -/
def State.beginRecovery (s : State) : State := s.mapCtl fun c => { c with dev := { c.dev with recovery := true } }

/-- The steps of a recovery are done. A change of RECOVERY_BUSY against the latest snapshot is shown (log 34). -/
def State.endRecovery (s : State) : State :=
  let s := s.mapCtl fun c => { c with dev := { c.dev with recovery := false } }
  if s.snap.recovering != s.ctl.recovering then s.shown else s

/-! ### EVENTs -/

/-- Network of a host port (R392): true is B. -/
def netB (p : HPort) : Bool := 4 ≤ p.val

/-- A peer has a live secure association with a port (R394). -/
def Ctl.live (c : Ctl) (p : HPort) (mac : MacAddr) : Bool := (c.elo.ports[p]).peers.any fun m => m.mac = mac

/-- MACSEC_REQ as it reads: 1 while sealed (R395). -/
def Ctl.macsecReq (c : Ctl) : Bool := c.dev.sealed || c.bit Addr.eloCfg 16

/-- A frame's SecTAG holds: a live association of its sender, whose SCI carries the sender's address, a packet number inside the
replay window of 64, and an ICV that verifies (R394). -/
def Ctl.secOk (c : Ctl) (p : HPort) (mac : MacAddr) (t : SecTag) : Bool :=
  (c.elo.ports[p]).peers.any fun m =>
    m.mac == mac && t.icv && t.sci.extractLsb' 16 48 == mac && t.pn != 0 && decide (m.rxPn < t.pn.toNat + 64)

/-- What a port makes of a frame that goes no further (R393, R394, R396, R421; log 180): one with uncorrectable codewords, a bad FCS
or a SecTAG that does not hold is counted; one beyond 9,216 bytes, of another VLAN, IP version or UDP port is not the S4's. -/
def Ctl.frameLost (c : Ctl) (h : MsgHdr) : Option Ctl :=
  let f := h.frame
  let perr := Addr.eloPerr h.port.val
  let cfg := Addr.eloPcfg h.port.val
  if f.fec ≠ 0 then some (c.bump perr 0 16 f.fec)
  else if !f.fcs then some (c.bump perr 16 16 1)
  else if 9216 < f.bytes (32 + h.length.toNat) ∨ f.vid.toNat ≠ c.fld cfg 1 12 then some c
  else if f.sec.any (fun t => !c.secOk h.port h.srcMac t) then some (c.bump perr 32 16 1)
  else if f.v4 ≠ c.bit cfg 24 ∨ f.udp.toNat ≠ c.fld Addr.eloCfg 0 16 then some c
  else none

/-- Changes a port's peers of a MAC address. -/
def Ctl.mapPeer (c : Ctl) (p : HPort) (mac : MacAddr) (g : MacPeer → MacPeer) : Ctl :=
  let v := c.elo.ports[p]
  let v := { v with peers := v.peers.map fun m => if m.mac = mac then g m else m }
  { c with elo := { c.elo with ports := c.elo.ports.set p v } }

/-- The packet number of a protected frame that has been accepted. -/
def Ctl.notePn (c : Ctl) (h : MsgHdr) : Ctl := match h.frame.sec with
  | some t => c.mapPeer h.port h.srcMac fun m => { m with rxPn := max m.rxPn t.pn.toNat }
  | none => c

/-- A message that R395 does not let pass unprotected may pass: its frame is protected, or MACSEC_REQ is 0 and the peer has no
live association (log 181). -/
def Ctl.passes (c : Ctl) (h : MsgHdr) : Bool := h.frame.sec.isSome || (!c.macsecReq && !c.live h.port h.srcMac)

/-- Messages other than those of R395 may pass between the S4 and a peer. -/
def Ctl.protectedOk (c : Ctl) (p : HPort) (mac : MacAddr) : Bool := !c.macsecReq || c.live p mac

/-- The port of a network through which the S4 reaches a peer: the one given while it is UP and may carry messages to the
peer, else the first that is and may (R395, R411, R419; log 33). -/
def Ctl.reachPort (c : Ctl) (p : HPort) (mac : MacAddr) : Option HPort :=
  (p :: List.finRange 8).find? fun q => netB q == netB p && c.hportUp q && c.protectedOk q mac

/-- The next SAK of a port for a peer: packet numbers begin again, and the S4, key server with priority 0x10, distributes it (R502;
the frame's bytes are a free value, log 67). -/
def State.rekey (s : State) (p : HPort) (mac : MacAddr) : State :=
  let v := s.ctl.elo.ports[p]
  let c := { s.ctl with elo := { s.ctl.elo with ports := s.ctl.elo.ports.set p { v with sak := v.sak + 1 } } }
  ({ s.tick with ctl := c.mapPeer p mac fun m => { m with sak := v.sak + 1, rxPn := 0, txPn := 0 } }).send
    (.mka p mac 0x10 (v.sak + 1) (leBytes 32 s.free.toNat))

/-- A new SAK before a packet number reaches 2^62 (R502). -/
def State.freshSak (s : State) (p : HPort) (mac : MacAddr) : State :=
  if (s.ctl.elo.ports[p]).peers.any fun m => m.mac == mac && decide (2 ^ 62 ≤ max m.rxPn m.txPn + 1) then s.rekey p mac else s

/-- The frame that carries what a port sends to a peer: protected to one with a live association, and otherwise in clear. -/
def Ctl.txFrame (c : Ctl) (p : HPort) (mac : MacAddr) : Frame :=
  let cfg := Addr.eloPcfg p.val
  { fec := 0, fcs := true, vid := BitVec.ofNat 12 (c.fld cfg 1 12), pcp := BitVec.ofNat 3 (c.fld cfg 13 3)
    v4 := c.bit cfg 24, dscp := BitVec.ofNat 6 (c.fld Addr.eloCfg 17 6), df := c.bit cfg 24
    udp := BitVec.ofNat 16 (c.fld Addr.eloCfg 0 16)
    sec := ((c.elo.ports[p]).peers.find? fun m => m.mac = mac).map fun m =>
      ⟨Config.portMac p ++ 1#16, BitVec.ofNat 64 (m.txPn + 1), true⟩ }

/-- Sends to a peer from a port, in the next frame of their association if there is one. -/
def State.sendTo (s : State) (p : HPort) (mac : MacAddr) (o : Frame → Output) : State :=
  let s := s.freshSak p mac
  (s.mapCtl fun c => c.mapPeer p mac fun m => { m with txPn := m.txPn + 1 }).send (o (s.ctl.txFrame p mac))

/-- Answers a message from the port that received it. -/
def State.reply (s : State) (h : MsgHdr) (o : MsgHdr → Output) : State :=
  s.sendTo h.port h.srcMac fun f => o { h with frame := f }

/-- Sends an ACK, NACK or response of a message, from the port that received it or another of its network (R411). -/
def State.answerBy (s : State) (h : MsgHdr) (f : MsgHdr → Output) : State :=
  match s.ctl.reachPort h.port h.srcMac with
  | some p => s.reply { h with port := p } f
  | none => s

/-- The copy of an EVENT for a network from which a message of the session has arrived, to the address of the latest one. -/
def State.sendCopy (s : State) (a : Option PeerAddr) (o : PeerAddr → Frame → Output) : State :=
  match a with
  | some a => match s.ctl.reachPort a.port a.mac with
    | some p => s.sendTo p a.mac (o { a with port := p })
    | none => s
  | none => s

/-- What is sent of an EVENT: a copy on each network from which a message of the session has arrived (R413). -/
def State.sendCopies (s : State) (ses : Session) (eseq : BitVec 64) (retx : Bool) (b : EventBody) : State :=
  (s.sendCopy ses.addrA fun a f => .event ses.id a f eseq retx b).sendCopy ses.addrB fun a f => .event ses.id a f eseq retx b

def State.session? (s : State) (slot : Nat) : Option Session := (s.ctl.elo.sessions.find? fun e => e.1 = slot).map (·.2)

/-- Slot of an open session by its ID. -/
def Ctl.slotOf (c : Ctl) (id : BitVec 32) : Option Nat := (c.elo.sessions.find? fun e => e.2.id = id).map (·.1)

/-- Replaces a session. -/
def Ctl.setSession (c : Ctl) (slot : Nat) (v : Session) : Ctl :=
  { c with elo := { c.elo with sessions := c.elo.sessions.map fun e => if e.1 = slot then (slot, v) else e } }

/-- Two device events of the same number (R414). -/
def sameEnum : EventBody → EventBody → Bool
  | .device a _ _, .device b _ _ => a == b
  | _, _ => false

/-- Numbers and sends an EVENT of a session, or keeps it while 4,096 are unacknowledged (R413, R414). -/
def State.sendEvent (s : State) (slot : Nat) (b : EventBody) : State :=
  match s.session? slot with
  | none => s
  | some ses =>
    if ses.unacked.length < 4096 then
      let q := ses.eseq + 1
      (s.mapCtl fun c => c.setSession slot { ses with eseq := q, unacked := ses.unacked ++ [(q, b)] }).sendCopies ses q false b
    else
      match b with
      | .completion .. => s.mapCtl fun c => c.setSession slot { ses with keptComp := ses.keptComp ++ [b] }
      | .device .. =>
        let lost := if ses.keptDev.any (sameEnum b) then 1 else 0
        s.mapCtl fun c => c.setSession slot
          { ses with keptDev := ses.keptDev.filter (fun x => !sameEnum b x) ++ [b],
                     evLost := BitVec.ofNat 14 (satAdd (2 ^ 14 - 1) ses.evLost.toNat lost) }

/-- Raises a device event on every admitted session, from the current snapshot (R412). -/
def State.raiseNow (s : State) (enum : BitVec 16) (detail : BitVec 128) : State :=
  (s.ctl.elo.sessions.filter fun e => e.2.state = .admitted).foldl
    (fun (s : State) e => s.sendEvent e.1 (.device enum s.snapVer detail)) s

/-- Raises a device event after a snapshot that reflects it (R47). -/
def State.raise (s : State) (enum : BitVec 16) (detail : BitVec 128) : State := s.cut.raiseNow enum detail

/-- DETAIL from its bytes 0 to 7 and 8 to 15, in network byte order. -/
def detailOf (hi lo : BitVec 64) : BitVec 128 := hi ++ lo

/-- DETAIL bytes 0 to 7 of the unit events: CR_UTYPE, CR_UNIT (R484). -/
def unitDetail (u : UType) (n : Nat) (b4 : Nat := 0) : BitVec 64 :=
  BitVec.ofNat 16 u.code ++ BitVec.ofNat 16 n ++ BitVec.ofNat 8 b4 ++ 0#24

/-! ### Cairn records -/

/-- Islands in the order of R21: cores, slices, HBM controllers, Meloend ports, host block, Guide. -/
def islandIdx : Island → Nat
  | .core c => c.val
  | .slice k => 384 + k.val
  | .stack k => 416 + k.val
  | .mport p => 428 + p.val
  | .hostBlock => 444
  | .guide => 445

/-- The island of a unit of a cairn record; modules and lasers have none. -/
def UType.island (u : UType) (n : Nat) : Option Nat :=
  match u with
  | .core => some n
  | .slice => some (384 + n)
  | .stack => some (416 + n)
  | .mport => some (428 + n)
  | .hport => some 444
  | .guide => some 445
  | _ => none

/-- Temperature of an island in units of 0.25 C; 25 C before the first sample (log 13). -/
def Ctl.temp (c : Ctl) (i : Nat) : Int := KMap.get 100 c.pow.temps i

/-- Clock steps of 17.5 MHz that a core must lie below 700 MHz: the lowest clock that the cap path, temperature, droop and stage B of
the ladder set (R448, R455). -/
def Ctl.limitSteps (c : Ctl) (n : Nat) : Nat :=
  let k := KMap.get CoreClk.reset c.pow.clk n
  max (max k.cap k.therm) (max k.droop (if c.dev.stage = 2 then 20 else 0))
/-- The same with FMAX (R471). -/
def Ctl.clkSteps (c : Ctl) (n : Nat) : Nat := max (c.limitSteps n) (c.fld (Addr.relCore n) 4 3)
def khzOf (steps : Nat) : Nat := 700000 - 17500 * min 30 steps

/-- The stress point at which a probe run holds a core (R475 step 2), and its clock: DCLK above FMAX, at most 800 MHz (R472). -/
def Ctl.atPoint (c : Ctl) (n : Nat) : Option (Int × Nat) :=
  (c.rel.runs.find? fun r => r.core.val = n ∧ r.waiting = false).map fun r => psPoint r.set r.point
def Ctl.probeKhz (c : Ctl) (n : Nat) (q : Int × Nat) : Nat :=
  min 800000 (700000 - 17500 * c.fld (Addr.relCore n) 4 3 + 1000 * q.2)
/-- A limit on the core needs a lower clock than a point sets, which is skipped (R455, R476). -/
def Ctl.pointLimited (c : Ctl) (n : Nat) (q : Int × Nat) : Bool :=
  decide (0 < c.limitSteps n) && decide (khzOf (c.limitSteps n) < c.probeKhz n q)

/-- A core's clock, and its voltage offset in mV (R471, R475). -/
def Ctl.coreKhz (c : Ctl) (n : Nat) : Nat := match c.atPoint n with
  | some q => if c.pointLimited n q then khzOf (c.clkSteps n) else c.probeKhz n q
  | none => khzOf (c.clkSteps n)
def Ctl.coreVoff (c : Ctl) (n : Nat) : Int := ((c.atPoint n).map (·.1)).getD 0

/-- A record with the fields that every record takes from the S4 (R480). -/
def Ctl.cairn (c : Ctl) (kind : Nat) (u : UType) (unit action : Nat) (data : List Byte) : Cairn :=
  { kind := kind, utype := u, unit := unit, num := 0, devid := (c.devid).zeroExtend 16, dstate := c.dev.dstate,
    fwVer := c.fwVer, boots := BitVec.ofNat 64 c.dev.powerOns, uptime := c.dev.uptime, snap := 0, action := action,
    temp := (match u.island unit with
      | some i => BitVec.ofInt 16 (c.temp i)
      | none => Config.unitTemp u.code unit c.dev.uptime)
    voff := if u = .core then BitVec.ofInt 16 (c.coreVoff unit) else 0, vin := c.pow.vin.zeroExtend 16, clkKhz := if u = .core then c.coreKhz unit else 0, job := 0, suppr := 0, cmd := none,
    psVer := c.psVer c.rel.psActive, addr := 0, epoch := c.dev.epoch, data := data, ev := none }

/-- Kinds that R482 never suppresses: LOCKSTEP, SAFE, PROBE_SET. -/
def neverSuppressed (kind : Nat) : Bool := kind == 4 || kind == 9 || kind == 10

/-- A record that names the command that it affects (R480). -/
def Cairn.naming (r : Cairn) (w : Option (CmdKey × BitVec 16)) : Cairn := match w with
  | some k => { r with job := k.2, cmd := some k.1 }
  | none => r

/-- Writes a record: it waits for a summit book batch, or is suppressed by R482. -/
def Ctl.record (c : Ctl) (r : Cairn) : Ctl :=
  let old := (c.rel.written.find? fun e => e.1 = r.utype ∧ e.2.1 = r.unit).map (·.2.2)
  let times := (old.map (·.1)).getD []
  let supp := (old.map (·.2)).getD 0
  let recent := times.filter fun t => (c.dev.uptime : Int) < t + 1000000
  let others := c.rel.written.filter fun e => ¬ (e.1 = r.utype ∧ e.2.1 = r.unit)
  if 16 ≤ recent.length ∧ neverSuppressed r.kind = false then
    { c with rel := { c.rel with written := (r.utype, r.unit, recent, supp + 1) :: others } }.bump Addr.relCnt 16 32 1
  else
    let r := { r with suppr := supp, addr := if c.dev.sealed then 0 else r.addr }
    { c with rel := { c.rel with written := (r.utype, r.unit, (c.dev.uptime : Int) :: recent, 0) :: others,
                                 waiting := c.rel.waiting ++ [r] } }

/-- The event of a record and DETAIL bytes 0 to 7 (R484, R545). -/
def Cairn.event (r : Cairn) : BitVec 16 × BitVec 64 :=
  r.ev.getD (evCAIRN_NEW, BitVec.ofNat 16 r.kind ++ BitVec.ofNat 16 r.utype.code ++ BitVec.ofNat 16 r.unit ++ 0#16)

/-- The event that announces a record (R484), with CR_NUM in DETAIL bytes 8 to 15, from the snapshot cut with its batch. -/
def State.announce (s : State) (r : Cairn) : State := s.raiseNow r.event.1 (detailOf r.event.2 (BitVec.ofNat 64 r.num))

/-! ### Units that leave and return -/

/-- The device event of a unit that leaves service (R484). -/
def leaveEvent : UType → BitVec 16
  | .core => evCORE_QUARANTINED
  | .slice => evSLICE_RETIRED
  | .stack => evSTACK_RETIRED
  | .mport => evPORT_DOWN
  | .hport => evPORT_DOWN
  | .guide => evGUIDE_CORE_LOST
  | _ => evCAIRN_NEW

/-- Units of a type still in service, for CR_DATA of an OUT_OF_SERVICE record. -/
def Ctl.unitsLeft (c : Ctl) : UType → Nat
  | .core => c.coresSvc
  | .slice => c.slicesSvc
  | .stack => c.stacksSvc
  | .mport => (c.links.ports.toList.filter fun p => p.state == .up).length
  | .hport => (c.elo.ports.toList.filter fun p => p.state == .up).length
  | .laser => (c.links.lasers.toList.filter fun l => !l.out).length
  | .guide => (if c.dev.guideA then 1 else 0) + (if c.dev.guideB then 1 else 0)
  | _ => 0

/-- SERVICE becomes DEGRADED when a unit leaves (R25, R26); in RETREAT the departure is remembered for the recovery (R27);
from another state nothing changes. -/
def State.degrade (s : State) : State :=
  if s.ctl.dev.dstate = .service then s.setDState .degraded
  else if s.ctl.dev.dstate = .retreat then s.mapCtl fun c => { c with dev := { c.dev with leftRetreat := true } }
  else s

/-- The OUT_OF_SERVICE record of a unit that has left (R481). -/
def Ctl.leftCairn (c : Ctl) (u : UType) (n reason : Nat) : Cairn :=
  let r := c.cairn 6 u n (if u = .core then 3 else 5) ([BitVec.ofNat 8 reason, 0, 0, 0] ++ leBytes 4 (c.unitsLeft u))
  if leaveEvent u = evCAIRN_NEW then r else { r with ev := some (leaveEvent u, unitDetail u n) }

def State.leftRecord (s : State) (u : UType) (n reason : Nat) : State :=
  s.mapCtl fun c => c.record (s.ctl.leftCairn u n reason)

/-- The move from SERVICE to DEGRADED sends the EVENT that names its cause (R26): with the record's batch, or at once where R482
suppresses the record, with no CR_NUM (DESIGN CHOICE, log 158: zero). -/
def State.nameCause (before after : State) (u : UType) (n reason : Nat) : State :=
  if before.ctl.dev.dstate = .service ∧ after.ctl.rel.waiting.length = before.ctl.rel.waiting.length then
    let e := (after.ctl.leftCairn u n reason).event
    after.raise e.1 (detailOf e.2 0)
  else after

/-- A unit leaves service; its state has been changed before. A core is recorded and the S4 then enters DEGRADED (R468); for
another unit the move comes first (R291, R302, R418), so that its record shows it (DEDUCED, log 36). -/
def State.unitLeft (s : State) (u : UType) (n reason : Nat) : State :=
  State.nameCause s (if u = .core then (s.leftRecord u n reason).degrade else s.degrade.leftRecord u n reason) u n reason

/-- The last unit that was out has returned (R25). -/
def State.trySvc (s : State) : State :=
  if s.ctl.dev.dstate = .degraded ∧ s.ctl.unitsOut = false ∧ s.ctl.jnl.single = false ∧ s.ctl.jnl.remirror = false then
    s.setDState .service
  else s

/-! ### SAFE (R25, R27, R28) -/

/-- Closes a session: BYE to its host, unless the host's own has been answered, and the slot is free. -/
def State.closeSession (s : State) (slot : Nat) (told : Bool := false) : State :=
  match s.session? slot with
  | none => s
  | some ses =>
    let s := s.mapCtl fun c =>
      { c with
        elo := { c.elo with
          sessions := c.elo.sessions.filter (fun e => e.1 ≠ slot)
          ports := c.elo.ports.map fun p => { p with peers := p.peers.filter fun m => m.session ≠ ses.id } }
        txn := { c.txn with queued := c.txn.queued.filter fun e => e.1 ≠ slot } }
    if told then s else s.send (.bye ses.id)

/-- Probe runs are abandoned: neither pass nor fail, HOURS_SINCE unchanged; a core under a release probe stays quarantined
(R475, R476). -/
def Ctl.dropRuns (c : Ctl) : Ctl :=
  let d := c.rel.runs.foldl (fun (d : Ctl) r => d.setFld (Addr.relCore r.core.val) 0 2 (if r.release then 2 else 0)) c
  { d with rel := { d.rel with runs := [] } }

/-- The same with the island reset of their cores (R512). -/
def State.dropRuns (s : State) : State :=
  ((s.ctl.rel.runs.filter fun r => !r.waiting).foldl (fun (s : State) r => s.setCore r.core Core.reset) s).mapCtl Ctl.dropRuns

/-- A batch of the summit book: its number, the contents of the book from then on, and its place in the log (R519). -/
def Book.batch (b : Book) (items : BookItems) : Book :=
  { b with items := items, bseq := b.bseq + 1, log := ⟨b.bseq + 1, items⟩ :: b.log, lastVer := [] }

/-- The open sessions as the summit book holds them (R517): the statuses of the 4 most recent commands of each queue. -/
def Ctl.bookSessions (c : Ctl) : KMap BookSession :=
  c.elo.sessions.map fun e => (e.1,
    { id := e.2.id, token := e.2.token, ver := e.2.ver, isa := e.2.isa, features := e.2.features, nq := e.2.nq,
      hof := c.reg (Addr.sesHof e.1), lastDone := e.2.queues.map fun q => (q.lastDone, q.done.take 4), ended := false })

/-- Enters SAFE (R28): the sessions end, which a batch of the summit book shows; for a cause of R481, or only writes the record once stage C has begun (R27). The record is one of the things
the S4 does in SAFE (R28), so it shows that state (DEDUCED, log 36). -/
def State.enterSafe (s : State) (cause : Nat) (u : UType := .module) (n : Nat := 0) : State :=
  if s.ctl.dev.dstate = .off then s
  else
    let note : State → State := fun s => s.mapCtl fun c => c.record (c.cairn 9 u n 7 [BitVec.ofNat 8 cause])
    if 3 ≤ s.ctl.dev.stage then note s
    else if s.ctl.dev.dstate = .safe then s
    else
      let s := s.mapCtl fun c => { c with book := { c.book.batch { c.book.items with
        sessions := c.bookSessions.map fun e => (e.1, { e.2 with ended := true }) } with lastVer := c.book.lastVer } }
      let s := s.ctl.elo.sessions.foldl (fun (s : State) e => s.closeSession e.1) s
      let s := ({ s with cores := s.cores.map Core.haltNow }).dropRuns
      let s := s.mapCtl fun c => { c with txn := { c.txn with queued := [], running := c.txn.running.filter (·.applying) }, flows := []
                                          dev := { c.dev with selfRefresh := true }
                                          pins := { c.pins with alertSafe := true } }
      note (s.setDState .safe)

end Sys2Proof.Machine
end

