-- ==== Sys2Proof/Machine/Store.lean ====
section
/-! DEFINITION. Device memory as Base Camp and the HBM controllers keep it: the map of HBM (11 R296), the copies of anchored
pages (11 R298 to R300), words that read bad until they are rewritten (10 R287, R289, 11 R301), and the flows of transit
capacity (10 R278, R279, R293). -/
namespace Sys2Proof.Machine

/-! ### The HBM map (R296) -/

/-- Stack of an HBM page. -/
def stackOfPage (p : Nat) : Nat := 3 * (p % 4) + p / 4 % 3

/-- Stack and stack-local byte of an HBM device address. -/
def hbmMap (a : Nat) : Nat × Nat := (stackOfPage (a / 4096), a / 4096 / 12 * 4096 + a % 4096)

/-! ### The copies of anchored pages (R298 to R300) -/

def Ctl.anchored (c : Ctl) (k : Nat) : Bool := c.bit (Addr.hbmRgnMid k) 56
def Ctl.spareEn (c : Ctl) (k : Nat) : Bool := c.bit (Addr.hbmRgnMid k) 57
def Ctl.hbmUsed (c : Ctl) : List Nat := (List.range 256).filter fun k => c.fld (Addr.hbmRgnLo k) 28 28 ≠ 0

/-- First pages B, M and X of the ranges of an entry, and its pages. -/
def Ctl.hbmBase (c : Ctl) (k : Nat) : Nat := c.fld (Addr.hbmRgnLo k) 0 28
def Ctl.hbmMirror (c : Ctl) (k : Nat) : Nat := c.fld (Addr.hbmRgnMid k) 0 28
def Ctl.hbmSpare (c : Ctl) (k : Nat) : Nat := c.fld (Addr.hbmRgnMid k) 28 28
def Ctl.hbmPages (c : Ctl) (k : Nat) : Nat := c.fld (Addr.hbmRgnLo k) 28 28

/-- The pages that hold the two copies of page r: primary and mirror, or the spare page that R300 put in the place of one. What
holds of page r holds of every page with the same r mod 12, since the map repeats (R296). -/
def Ctl.copyPages (c : Ctl) (k r : Nat) : List Nat :=
  let done := KMap.get [] c.rel.restored k
  let cp (i base : Nat) : Nat := if done.contains (r % 12, i) then c.hbmSpare k + r else base + r
  [cp 0 (c.hbmBase k), cp 1 (c.hbmMirror k)]

/-- The stacks that hold them. -/
def Ctl.copyStacks (c : Ctl) (k r : Nat) : List Nat := (c.copyPages k r).map stackOfPage

/-- A page's stack is in service. -/
def Ctl.pageUp (c : Ctl) (p : Nat) : Bool := c.stackState (stackOfPage p) == 0

/-- The pages of a region up to the map's period, which show every case. -/
def Ctl.pageCases (c : Ctl) (k : Nat) : List Nat := List.range (min 12 (c.hbmPages k))

/-- Some page of an anchored region has no copy left, or one only. -/
def Ctl.pageLost (c : Ctl) (k : Nat) : Bool := (c.pageCases k).any fun r => (c.copyStacks k r).all fun t => c.stackState t != 0
def Ctl.pageSingle (c : Ctl) (k : Nat) : Bool := (c.pageCases k).any fun r => (c.copyStacks k r).any fun t => c.stackState t != 0

/-- The copy of page r, 0 or 1, that the spare page can take the place of: the one on a retired stack, where the other lives and the
spare page lies on a stack in service and is not the other copy already (R300). -/
def Ctl.spareFor (c : Ctl) (k r : Nat) : Option Nat :=
  let free := c.spareEn k && c.pageUp (c.hbmSpare k + r) && !(c.copyPages k r).contains (c.hbmSpare k + r)
  match (c.copyPages k r).map c.pageUp with
  | [false, true] => if free then some 0 else none
  | [true, false] => if free then some 1 else none
  | _ => none

/-- Some page is still to be copied to its spare page. -/
def Ctl.canRestore (c : Ctl) (k : Nat) : Bool := (c.pageCases k).any fun r => (c.spareFor k r).isSome

/-- SINGLE and RESTORING of an anchored region as its copies stand. -/
def Ctl.noteCopies (c : Ctl) (k : Nat) : Ctl :=
  (c.setBit (Addr.hbmRgnHi k) 16 (c.pageSingle k)).setBit (Addr.hbmRgnHi k) 18 (c.canRestore k)

/-- A stack has been retired: SINGLE in every anchored region (R302 step 3), RESTORING where R300 runs over the region. -/
def Ctl.noteLoss (c : Ctl) (k : Nat) : Ctl :=
  (c.setBit (Addr.hbmRgnHi k) 16 true).setBit (Addr.hbmRgnHi k) 18
    (c.canRestore k || (c.spareEn k && !c.pageSingle k))

/-- Copies of pages: those of the n pages from page `from_` that `pick` names go, by their index, to the pages from page `to_`. -/
def Memory.copyPages (m : Memory) (pick : Nat → Bool) (from_ to_ n : Nat) : Memory :=
  let inRange (base a : Nat) : Bool := decide (base ≤ a / 4096) && decide (a / 4096 < base + n) && pick (a / 4096 - base)
  let kept := m.filter fun e => !inRange to_ e.1
  (m.filter fun e => inRange from_ e.1).foldl (fun (x : Memory) e => KMap.insertKey (e.1 - from_ * 4096 + to_ * 4096) e.2 x) kept

/-- The page that serves reads of page r of an anchored region: its primary, or where that is out of service the other copy
(R299). -/
def Ctl.servedBy (c : Ctl) (k r : Nat) : Nat :=
  if c.pageUp (c.hbmBase k + r) then c.hbmBase k + r
  else ((c.copyPages k r).find? c.pageUp).getD (c.hbmBase k + r)

/-- Reads of the pages of a region whose primary is out of service are served from the copy that is left (R299): a program reads at
the address of the region the bytes that this copy holds. -/
def State.serveCopies (s : State) (k : Nat) : State :=
  let c := s.ctl
  let n := c.hbmPages k
  let from_ (m : Memory) (base : Nat) : Memory :=
    m.copyPages (fun r => c.servedBy k (r % 12) == base + r % 12 && decide (base ≠ c.hbmBase k)) base (c.hbmBase k) n
  { s with mem := from_ (from_ s.mem (c.hbmMirror k)) (c.hbmSpare k) }

/-- R300 has copied every page of a region that it can copy: each spare page is from now on the copy that it replaces. -/
def State.restorePages (s : State) (k : Nat) : State :=
  let c := s.ctl
  let done := (c.pageCases k).filterMap fun r => (c.spareFor k r).map fun i => (r, i)
  let m := s.mem.copyPages (fun r => done.any fun d => d.1 == r % 12) (c.hbmBase k) (c.hbmSpare k) (c.hbmPages k)
  ({ s with mem := m }).mapCtl fun c =>
    ({ c with rel := { c.rel with restored := KMap.set [] c.rel.restored k (KMap.get [] c.rel.restored k ++ done) } }).noteCopies k

/-- The anchored region, page and copy (0 primary, 1 mirror; 2 and 3 a spare page in the place of either) that an HBM page belongs
to. -/
def Ctl.anchoredAt (c : Ctl) (p : Nat) : Option (Nat × Nat) :=
  (c.hbmUsed.filter c.anchored).findSome? fun k =>
    let within (base : Nat) : Option (Nat × Nat) :=
      if base ≤ p ∧ p < base + c.hbmPages k then some (k, p - base) else none
    (within (c.hbmBase k)).or ((within (c.hbmMirror k)).or (if c.spareEn k then within (c.hbmSpare k) else none))

/-- An HBM address lies in an anchored page: its region, its mirror or its spare range. -/
def Ctl.inAnchored (c : Ctl) (a : BitVec 48) : Bool := decide (a.toNat < bcBase) && (c.anchoredAt (a.toNat / 4096)).isSome

/-- A read of an anchored page that finds an uncorrected error is served from another copy (R299, R301). -/
def Ctl.otherCopy (c : Ctl) (a : BitVec 48) : Bool :=
  match c.anchoredAt (a.toNat / 4096) with
  | some (k, r) => (c.copyPages k r).any fun p => p != a.toNat / 4096 && c.pageUp p
  | none => false

/-! ### Encryption (R297) -/

/-- The device address whose number the tweak takes: of the copies of an anchored page, the address in the region. -/
def Ctl.tweakAddr (c : Ctl) (a : Nat) : Nat :=
  match c.anchoredAt (a / 4096) with
  | some (k, r) => (c.hbmBase k + r) * 4096 + a % 4096
  | none => a

/-- The 64 bytes that a stack holds for the data unit of an HBM device address, under the key pair of this BOOT; what it holds cannot
be read without one. -/
def State.cipherUnit (s : State) (a : Nat) : Option (List Byte) :=
  s.ctl.sec.hbmKey.map fun k => xtsSeal (leBytes 64 k.toNat) (s.ctl.tweakAddr a / 64) (s.mem.readBytes (a / 64 * 64) 64)

/-- The units of 64 bytes of HBM that memory lists a byte of. -/
def Memory.hbmUnits (m : Memory) : List Nat :=
  ((m.filter fun e => e.1 < bcBase).foldl (fun (l : List Nat) e => if l.head? = some (e.1 / 64) then l else e.1 / 64 :: l) []).reverse

/-- A change of the region table leaves what the stacks hold and changes the tweak of some pages (R297): a unit that was written under
another tweak reads as the decryption of that ciphertext under the new one. -/
def State.retweak (c : Ctl) (s : State) : State :=
  match s.ctl.sec.hbmKey with
  | none => s
  | some k =>
    let key := leBytes 64 k.toNat
    let moved := s.mem.hbmUnits.filter fun u => c.tweakAddr (u * 64) != s.ctl.tweakAddr (u * 64)
    { s with mem := moved.foldl (fun (m : Memory) u => m.writeBytes (u * 64)
        (xtsOpen key (s.ctl.tweakAddr (u * 64) / 64) (xtsSeal key (c.tweakAddr (u * 64) / 64) (s.mem.readBytes (u * 64) 64)))) s.mem }

/-! ### Writes (R287, R299) -/

/-- The pages that a range touches. -/
def pagesOf (r : Nat × Nat) : List Nat :=
  if r.2 = 0 then [] else (List.range ((r.1 + r.2 - 1) / 4096 + 1 - r.1 / 4096)).map (r.1 / 4096 + ·)

/-- Where the bytes of a written range are written a second time: address, address of the copy, length. Only a copy on a stack in
service is (R299, R300). -/
def Ctl.copiesOf (c : Ctl) (r : Nat × Nat) : List (Nat × Nat × Nat) :=
  if bcBase ≤ r.1 then []
  else (pagesOf r).flatMap fun p =>
    match (c.hbmUsed.filter c.anchored).find? fun k => decide (c.hbmBase k ≤ p) && decide (p < c.hbmBase k + c.hbmPages k) with
    | none => []
    | some k =>
      let lo := max r.1 (p * 4096)
      let hi := min (r.1 + r.2) ((p + 1) * 4096)
      ((c.copyPages k (p - c.hbmBase k)).filter fun q => q != p && c.pageUp q).map fun q => (lo, q * 4096 + lo % 4096, hi - lo)

/-- A word, by its number, lies wholly in one of the ranges. -/
def wordIn (rs : List (Nat × Nat)) (w : Nat) : Bool := rs.any fun r => decide (r.1 ≤ 4 * w) && decide (4 * w + 4 ≤ r.1 + r.2)

/-- Device ranges have been written: the copies of anchored pages follow, and a word written anew is no longer bad (R287, R289,
R301). -/
def State.wrote (s : State) (rs : List (Nat × Nat)) : State :=
  { s with
    mem := (rs.flatMap s.ctl.copiesOf).foldl (fun (m : Memory) x => m.writeBytes x.2.1 (m.readBytes x.1 x.2.2)) s.mem
    ctl := { s.ctl with bad := s.ctl.bad.filter fun w => !wordIn rs w } }

/-- Memory as an operation that wrote the ranges leaves it. -/
def State.store (s : State) (m : Memory) (rs : List (Nat × Nat)) : State := State.wrote { s with mem := m } rs

/-! ### Words that read bad (R287, R289, R301) -/

/-- The bad words, by word number, that a read of the ranges meets. -/
def Ctl.badIn (c : Ctl) (rs : List (Nat × Nat)) : List Nat :=
  c.bad.filter fun w => rs.any fun r => decide (4 * w < r.1 + r.2) && decide (r.1 < 4 * w + 4)

/-- What a read of the ranges meets for words that are bad: every replay finds them bad. -/
def Ctl.badObs (c : Ctl) (rs : List (Nat × Nat)) : List FaultObs :=
  (c.badIn rs).map fun w =>
    if 4 * w < bcBase then .hbmUncorrected (BitVec.ofNat 48 (4 * w)) 3 else .storedSlice (BitVec.ofNat 48 (4 * w)) 4

/-- The words that read bad with the word at an address: of Base Camp that word (R287, R289), of HBM its whole page (R301). -/
def badWith (a : BitVec 48) : List Nat :=
  if bcBase ≤ a.toNat then [a.toNat / 4] else (List.range 1024).map (a.toNat / 4096 * 1024 + ·)

/-- The word at an address, or in HBM its page, reads bad until it is rewritten. -/
def State.markBad (s : State) (a : BitVec 48) : State :=
  s.mapCtl fun c => { c with bad := (badWith a).filter (fun w => !c.bad.contains w) ++ c.bad }

/-- The same for ledge words of a core, which it keeps by number (R287, R289). -/
def Core.badLedgeIn (k : Core) (rs : List (Nat × Nat)) : List Nat :=
  k.badLedge.filter fun w => rs.any fun r => decide (4 * w < r.1 + r.2) && decide (r.1 < 4 * w + 4)
def Core.badLedgeObs (k : Core) (rs : List (Nat × Nat)) : List FaultObs :=
  (k.badLedgeIn rs).map fun w => .storedLedge (BitVec.ofNat 22 (4 * w)) 4
def Core.markBadLedge (k : Core) (off : BitVec 22) : Core :=
  if k.badLedge.contains (off.toNat / 4) then k else { k with badLedge := off.toNat / 4 :: k.badLedge }

/-- Ledge ranges have been written: their words are no longer bad. -/
def Core.wroteLedge (k : Core) (rs : List (Nat × Nat)) : Core := { k with badLedge := k.badLedge.filter fun w => !wordIn rs w }

/-- A slot of a mirror's journal region (R275, R283), and whether it holds a bad word. -/
def Ctl.slotRange (c : Ctl) (mirror : Fin 32) (slot : Nat) : Nat × Nat :=
  (bcBase + mirror.val * 0x3000000 + (40 - c.fld (Addr.bcSliceCfg mirror.val) 0 6) * 0x100000 + 256 * slot, 256)
def Ctl.slotBad (c : Ctl) (mirror : Fin 32) (slot : Nat) : Bool := !(c.badIn [c.slotRange mirror slot]).isEmpty

/-! ### Transit capacity (R278, R279) -/

/-- Traffic that uses transit capacity, and the base dies whose slices it uses. -/
inductive Traffic where
  | stack (n : Nat)     -- between a ledge and stack Sn
  | mport (p : MPort)
  | everywhere          -- host ports, and ledge to ledge across cores
  | direct              -- spill and counter-word traffic
deriving DecidableEq, Repr

def Traffic.dies : Traffic → List Nat
  | .stack n => [n / 3]
  | .mport p => [p.val / 4]
  | .everywhere => [0, 1, 2, 3]
  | .direct => []

/-- The slices in service over which flows on some base dies are spread. -/
def Ctl.transitSlices (c : Ctl) (dies : List Nat) : List Nat :=
  (List.range 32).filter fun n => dies.contains (n / 8) && c.sliceState n == 0

/-- The base dies of the stacks that hold device ranges: those of HBM. -/
def rangeDies (rs : List (Nat × Nat)) : List Nat :=
  ((rs.filter fun r => r.1 < bcBase).flatMap fun r => (pagesOf r).flatMap fun p => (Traffic.stack (stackOfPage p)).dies).eraseDups

/-- The slices that store the words of device ranges in Base Camp. -/
def rangeSlices (rs : List (Nat × Nat)) : List Nat :=
  (List.range 32).filter fun n => anyOverlap rs [(bcBase + n * 0x3000000, 0x3000000)]

/-- The base dies of the Meloend ports that are UP, over which a collective's data leaves and arrives. -/
def Ctl.portDies (c : Ctl) : List Nat :=
  ((List.finRange 16).filter fun p => (c.links.ports[p]).state == .up).flatMap fun p => (Traffic.mport p).dies

/-- The slices at which a word of device ranges can arrive: those that store it, and those of its flow, between a ledge and HBM or,
for a collective, between memory and a Meloend port. -/
def Ctl.pathSlices (c : Ctl) (coll : Bool) (rs : List (Nat × Nat)) : List Nat :=
  rangeSlices rs ++ c.transitSlices (if coll then c.portDies else rangeDies rs)

/-- The MiB of a slice that its flows may use: T. -/
def Ctl.transitMib (c : Ctl) (n : Nat) : Nat := c.fld (Addr.bcSliceCfg n) 0 6

/-- Bytes of packets that wait at a Meloend port: the flows that collectives and forwarding send to it. Those beyond what its slices can
hold wait at their producers (R278). -/
def Port.waiting (p : Port) : Nat := p.queue.foldl (fun n l => n + match l with
  | .coll k _ _ => k.payload.length
  | .lctl _ => 0) 0

/-- A slice's share of bytes spread over the slices of some base dies. -/
def Ctl.shareOf (c : Ctl) (dies : List Nat) (bytes n : Nat) : Nat :=
  let sl := c.transitSlices dies
  if sl.contains n then (bytes + sl.length - 1) / sl.length else 0

/-- Bytes in the flow queues of a slice. -/
def Ctl.transitBytes (c : Ctl) (n : Nat) : Nat :=
  c.flows.foldl (fun b f => b + c.shareOf f.dies f.bytes n) 0 +
  (List.finRange 16).foldl (fun b p => b + c.shareOf (Traffic.mport p).dies (c.links.ports[p]).waiting n) 0

/-- TRANSIT_USED (R293): MiB, rounded up, at most T. -/
def Ctl.transitUsed (c : Ctl) (n : Nat) : Nat := min (c.transitMib n) ((c.transitBytes n + 2 ^ 20 - 1) / 2 ^ 20)

/-- The bytes for which the flow queues of some base dies can still grant credits. -/
def Ctl.transitFree (c : Ctl) (dies : List Nat) : Nat :=
  (c.transitSlices dies).foldl (fun b n => b + (c.transitMib n * 2 ^ 20 - c.transitBytes n)) 0

/-- A transfer of a core starts as a flow: its bytes enter the flow's queues as far as these grant credits; its producer waits with
the rest (R278). How far it fills them is DESIGN CHOICE, log 161. -/
def Ctl.startFlow (c : Ctl) (core : CoreId) (iseq : BitVec 48) (rs : List (Nat × Nat)) : Ctl :=
  let dies := rangeDies rs
  if dies.isEmpty then c
  else
    let total := (rs.filter fun r => r.1 < bcBase).foldl (fun n r => n + r.2) 0
    { c with flows := c.flows ++ [⟨core, iseq, dies, min total (c.transitFree dies)⟩] }

/-- A core's transfers that have left its DMA queue leave transit. -/
def State.endFlows (s : State) (c : CoreId) : State :=
  if s.ctl.flows.isEmpty then s
  else s.mapCtl fun x => { x with flows := x.flows.filter fun f =>
    f.core != c || (s.core c).queues[4].any fun e => e.started && e.iseq == f.iseq }

end Sys2Proof.Machine
end

