-- ==== Sys2Proof/Machine/Registers.lean ====
section
/-! DEFINITION. Control space as it is read and written (16): the blocks of R422, which bits of each register are TX, W1C and
WO (R10 and the register maps), what a read returns, and which islands own a register. -/
namespace Sys2Proof.Machine

/-! ### Blocks (R422) -/

/-- First and last address of each block. -/
def blocks : List (Nat × Nat) :=
  [(Addr.glb, Addr.glb + 0xFFFF), (Addr.cap, Addr.cap + 0xFFFF), (Addr.job, Addr.job + 0xFFFF), (Addr.bc, Addr.bc + 0xFFFF),
   (Addr.hbm, Addr.hbm + 0xFFFF), (Addr.mlk, Addr.mlk + 0xFFFF), (Addr.coll, Addr.coll + 0xFFFF),
   (Addr.elo, Addr.elo + 0x21FFFF), (Addr.pwr, Addr.pwr + 0xFFFFFF), (Addr.rel, Addr.rel + 0xFFFFFF),
   (Addr.sec, Addr.sec + 0xFFFFFF), (Addr.sum, Addr.sum + 0xFFFFFF)]

/-- The block that holds a range of n words, if one does. -/
def blockOf (a n : Nat) : Option (Nat × Nat) := blocks.find? fun b => b.1 ≤ a && a + 8 * n ≤ b.2 + 1

/-! ### Access (R10) -/

/-- The bits of a register that are TX, W1C and WO. -/
structure Access where
  tx  : Nat
  w1c : Nat
  wo  : Nat
deriving DecidableEq, Repr

def ones (n : Nat) : Nat := 2 ^ n - 1

/-- Access of the registers of the global, job, Base Camp and HBM blocks. -/
def accessLow (a : Nat) : Access :=
  if a = Addr.gcfg then ⟨ones 18, 0, 0⟩
  else if a = Addr.avCtl then ⟨0, 0, 1⟩
  else if (idxOf a (Addr.jobA 0) 64 16).isSome then ⟨ones 31 + (ones 32) * 2 ^ 32, 0, 0⟩
  else if (idxOf a (Addr.jobB 0) 64 16).isSome || (idxOf a (Addr.jobC 0) 64 16).isSome ||
      (idxOf a (Addr.jobD 0) 64 16).isSome || (idxOf a (Addr.jobE 0) 64 16).isSome then ⟨ones 48, 0, 0⟩
  else if (idxOf a (Addr.sesHof 0) 8 1024).isSome then ⟨ones 64, 0, 0⟩
  else if a = Addr.bcShare then ⟨ones 32, 0, 0⟩
  else if a = Addr.bcJnlCfg then ⟨0x1F1F1F, 0, 0⟩
  else if (idxOf a (Addr.bcSliceCfg 0) 8 32).isSome then ⟨ones 6, 0, 0⟩
  else if (idxOf a (Addr.bcPar 0) 8 32).isSome then ⟨0, ones 32, 0⟩
  else if (idxOf a (Addr.bcRgnLo 0) 16 256).isSome then ⟨ones 57, 0, 0⟩
  else if (idxOf a (Addr.bcRgnHi 0) 16 256).isSome then ⟨ones 16, 7 * 2 ^ 16, 0⟩
  else if (idxOf a (Addr.hbmEcc 0) 8 12).isSome then ⟨0, ones 32, 0⟩
  else if (idxOf a (Addr.hbmRgnLo 0) 32 256).isSome then ⟨ones 56, 0, 0⟩
  else if (idxOf a (Addr.hbmRgnMid 0) 32 256).isSome then ⟨ones 58, 0, 0⟩
  else if (idxOf a (Addr.hbmRgnHi 0) 32 256).isSome then ⟨ones 16, 0, 0⟩
  else ⟨0, 0, 0⟩

/-- Access of the registers of the other blocks. -/
def accessHigh (a : Nat) : Access :=
  if a = Addr.mlkCoord then ⟨ones 12, 0, 0⟩
  else if a = Addr.mlkAxis then ⟨0xFFF3, 0, 0⟩
  else if a = Addr.mlkVc then ⟨ones 39, 0, 0⟩
  else if a = Addr.mlkLcfg then ⟨1, 0, 0⟩
  else if a = Addr.mlkDrop then ⟨0, ones 64, 0⟩
  else if (idxOf a (Addr.mlkPcfg 0) 8 16).isSome then ⟨ones 9, 0, 0⟩
  else if (idxOf a (Addr.mlkPerr 0) 8 16).isSome then ⟨0, ones 64, 0⟩
  else if (idxOf a (Addr.lmStat 0) 8 12).isSome then ⟨0, 8, 0⟩
  else if a = Addr.lmCtl then ⟨0, 0, ones 12⟩
  else if a = Addr.collCfg then ⟨ones 32, 0, 0⟩
  else if a = Addr.collDrop then ⟨0, ones 64, 0⟩
  else if (idxOf a (Addr.collJobLo 0) 16 16).isSome then ⟨ones 26, 0, 0⟩
  else if (idxOf a (Addr.collJobHi 0) 16 16).isSome then ⟨ones 53, 0, 0⟩
  else if (idxOf a (Addr.collBstat 0) 8 16).isSome then ⟨0, ones 32 * 2 ^ 16, 0⟩
  else if (idxOf a (Addr.collGrpA 0) 32 64).isSome then ⟨ones 57, 0, 0⟩
  else if (idxOf a (Addr.collGrpB 0) 32 64).isSome then ⟨ones 48, 0, 0⟩
  else if a = Addr.eloCfg then ⟨ones 33, 0, 0⟩
  else if a = Addr.eloDrop then ⟨0, ones 64, 0⟩
  else if a = Addr.eloSessClose then ⟨0, 0, ones 10⟩
  else if (idxOf a (Addr.eloPcfg 0) 8 8).isSome then ⟨ones 25, 0, 0⟩
  else if (idxOf a (Addr.eloPerr 0) 8 8).isSome then ⟨0, ones 64, 0⟩
  else if (idxOf a (Addr.eloPip 0) 8 32).isSome then ⟨ones 64, 0, 0⟩
  else if Addr.eloSlot 0 ≤ a ∧ a < Addr.eloSlot 1024 then
    if (a - Addr.eloSlot 0) % 0x800 < 65 * 16 ∧ (a - Addr.eloSlot 0) % 16 = 0 then ⟨0, ones 16 * 2 ^ 48, 0⟩ else ⟨0, 0, 0⟩
  else if a = Addr.pwrCap then ⟨ones 18, 0, 0⟩
  else if a = Addr.pwrCal then ⟨0, ones 16 * 2 ^ 32, 0⟩
  else if a = Addr.pwrTherm then ⟨ones 8 * 2 ^ 8, 0, 0⟩
  else if a = Addr.pwrDroop then ⟨0, ones 48, 0⟩
  else if a = Addr.relCfg then ⟨ones 33, 0, 0⟩
  else if a = Addr.relCtl then ⟨0, 0, ones 23⟩
  else if a = Addr.relPsSrc then ⟨ones 48, 0, 0⟩
  else if a = Addr.relPsLen then ⟨ones 25, 0, 0⟩
  else if a = Addr.relCnt then ⟨0, ones 48, 0⟩
  else if a = Addr.secCtl then ⟨0, 0, ones 10⟩
  else if a = Addr.secLms then ⟨ones 6 * 2 ^ 41, 0, 0⟩
  else if a = Addr.secFwSrc || a = Addr.secRtSrc || a = Addr.secRtDst then ⟨ones 48, 0, 0⟩
  else if a = Addr.secFwLen || a = Addr.secRtLen then ⟨ones 40, 0, 0⟩
  else if a = Addr.sumCtl then ⟨0, 0, 3⟩
  else ⟨0, 0, 0⟩

/-- Access of a register by its control address. -/
def access (a : Nat) : Access := if a < Addr.mlk then accessLow a else accessHigh a

/-! ### Islands that own TX fields (R424, log 23) -/

/-- The slice that a Base Camp region word names. -/
def rgnSlice (w : Word) : List Nat := if bits w.toNat 19 19 = 0 then [] else [bits w.toNat 0 19 * 4096 / 0x3000000]

/-- Islands other than the Guide that own the TX fields of a register, as a commit that leads from one configuration to another
finds and leaves it: both words of a Base Camp entry belong to the slice of its range. -/
def owners (c d : Ctl) (a : Nat) : List Island :=
  let slices (l : List Nat) : List Island := l.filterMap fun n => if h : n < 32 then some (.slice ⟨n, h⟩) else none
  if a = Addr.bcShare then slices (List.range 32)
  else match idxOf a (Addr.bcSliceCfg 0) 8 32 with
    | some n => slices [n]
    | none =>
      match (idxOf a (Addr.bcRgnLo 0) 16 256).or (idxOf a (Addr.bcRgnHi 0) 16 256) with
      | some k => slices (rgnSlice (c.reg (Addr.bcRgnLo k)) ++ rgnSlice (d.reg (Addr.bcRgnLo k)))
      | none =>
        if Addr.hbm ≤ a ∧ a < Addr.mlk then (List.finRange 12).map .stack
        else match idxOf a (Addr.mlkPcfg 0) 8 16 with
          | some n => if h : n < 16 then [.mport ⟨n, h⟩] else []
          | none =>
            if Addr.mlk ≤ a ∧ a < Addr.elo then (List.finRange 16).map .mport
            else if Addr.elo ≤ a ∧ a < Addr.pwr then [.hostBlock]
            else []

/-- An island is in service and answers the Guide. -/
def Ctl.islandUp (c : Ctl) : Island → Bool
  | .core n => !c.coreGone n.val
  | .slice n => c.sliceState n.val == 0
  | .stack n => c.stackState n.val == 0
  | _ => true

/-! ### The journal's records (R283, R284) -/

/-- CMD and CONT records of a command: its body is 64 + 12 NDEP + 8 NCAP bytes, 188 to a record. -/
def cmdLen (b : CmdBody) : Nat := 64 + 12 * b.ndep.toNat + 8 * b.ncap.toNat
def cmdRecords (b : CmdBody) : Nat := (cmdLen b + 187) / 188

def Cmd.accepted (m : Cmd) : Bool := m.phase != .journaling && m.phase != .awaits

/-- Records in use (R284). -/
def Journal.used (j : Journal) : Nat :=
  (j.cmds.filter (·.accepted)).foldl (fun n m => n + cmdRecords m.body + m.rpoints.length) 0 +
  j.reports.foldl (fun n r => n + r.recs) 0

/-! ### The journal's ring (R283 to R285) -/

/-- KIND of R283. -/
inductive JKind where
  | cmd | cont | rpoint | complete
deriving DecidableEq, Repr

def JKind.code : JKind → Byte
  | .cmd => 1
  | .cont => 2
  | .rpoint => 3
  | .complete => 4

/-- What a record says besides its number. -/
structure JRec where
  kind   : JKind
  ncont  : Nat
  key    : CmdKey
  job    : BitVec 16
  status : Status
  rpoint : BitVec 32
  lidx   : Nat
  body   : List Byte
deriving DecidableEq, Repr

/-- The 252 bytes that the CRC covers. -/
def JRec.body252 (r : JRec) (jseq : Word) : List Byte :=
  leBytes 8 jseq.toNat ++ [r.kind.code, BitVec.ofNat 8 r.ncont] ++ leBytes 2 r.key.queue.toNat ++ leBytes 4 r.key.session.toNat ++
  leBytes 8 r.key.seq.toNat ++ leBytes 2 r.job.toNat ++ leBytes 2 r.status.toNat ++ leBytes 4 r.rpoint.toNat ++ leBytes 2 r.lidx ++
  List.replicate 30 0 ++ padTo 188 r.body

/-- The 256 bytes of a record (R283). -/
def JRec.bytes (r : JRec) (jseq : Word) : List Byte :=
  r.body252 jseq ++ leBytes 4 (crc32c (BitVec.allOnes 32) (r.body252 jseq)).toNat

/-- The CMD and CONT records of a command. -/
def Cmd.records (m : Cmd) : List JRec :=
  (List.range (cmdRecords m.body)).map fun i =>
    { kind := if i = 0 then .cmd else .cont, ncont := if i = 0 then cmdRecords m.body - 1 else 0, key := m.key, job := m.job, status := 0
      rpoint := 0, lidx := 0, body := ((m.body.bytes m.op.toNat).drop (188 * i)).take 188 }

/-- A record belongs to a command, by its bytes. -/
def recOf (k : CmdKey) (b : List Byte) : Bool :=
  leField b 0x0A 2 == k.queue.toNat && leField b 0x0C 4 == k.session.toNat && leField b 0x10 8 == k.seq.toNat

/-- An RPOINT record of a logical index. -/
def recPoint (l : Nat) (b : List Byte) : Bool := leField b 8 1 == 3 && leField b 0x20 2 == l

/-- Slots of the ring. -/
def journalSlots : Nat := 32768

def Journal.inUse (j : Journal) (n : Nat) : Bool := (j.ring0.any fun e => e.1 == n) || j.ring1.any fun e => e.1 == n

/-- The next free slot in ring order, slots in use skipped (R284). -/
def Journal.nextSlot (j : Journal) : Nat :=
  (((List.range (j.ring0.length + j.ring1.length + 1)).map fun i => (j.head + i) % journalSlots).find? fun n => !j.inUse n).getD j.head

/-- Writes a record into every mirror (R284). -/
def Journal.put (j : Journal) (b : List Byte) : Journal :=
  let n := j.nextSlot
  { j with ring0 := KMap.set [] j.ring0 n b, ring1 := KMap.set [] j.ring1 n b, head := (n + 1) % journalSlots }

/-- Frees records. -/
def Journal.free (j : Journal) (p : List Byte → Bool) : Journal :=
  { j with ring0 := j.ring0.filter fun e => !p e.2, ring1 := j.ring1.filter fun e => !p e.2 }

/-- A mirror's records together with those that only the other holds. -/
def ringUnion (a b : KMap (List Byte)) : KMap (List Byte) :=
  b.foldl (fun (m : KMap (List Byte)) e => if m.any fun x => x.1 = e.1 then m else KMap.insertKey e.1 e.2 m) a

/-- The CRC of a record's bytes is correct. -/
def recGood (b : List Byte) : Bool := leField b 252 4 == (crc32c (BitVec.allOnes 32) (b.take 252)).toNat

/-- What the two copies of one slot are taken as (R285); none: lost. A copy is there only where it is valid. -/
def takeCopies : Option (List Byte) → Option (List Byte) → Option (List Byte)
  | some a, some b => some (if leField a 0 8 ≤ leField b 0 8 then a else b)
  | some a, none => some a
  | none, some b => some b
  | none, none => none

/-- The valid copy of a slot in one mirror: it is there, its CRC holds and no word of it is bad. -/
def goodCopy (r : KMap (List Byte)) (bad : Nat → Bool) (n : Nat) : Option (List Byte) :=
  match r.find? fun e => e.1 = n with
  | some e => if recGood e.2 && !bad n then some e.2 else none
  | none => none

/-- The journal rebuilt record by record, a valid copy written back into the other mirror; none where both copies of a slot are
invalid (R285). `bad0` and `bad1` tell the slots of each mirror that hold a word with bad parity. -/
def Journal.rebuild (j : Journal) (bad0 bad1 : Nat → Bool) : Option Journal :=
  let slots := (ringUnion j.ring0 j.ring1).map (·.1)
  let taken := slots.map fun n => (n, takeCopies (goodCopy j.ring0 bad0 n) (goodCopy j.ring1 bad1 n))
  if taken.all fun t => t.2.isSome then
    let r : KMap (List Byte) := taken.filterMap fun t => t.2.map fun b => (t.1, b)
    some { j with ring0 := r, ring1 := r }
  else none

/-! ### Cairn record bytes (R480) -/

def Cairn.body (r : Cairn) : List Byte :=
  leBytes 2 1 ++ leBytes 2 r.kind ++ leBytes 2 r.utype.code ++ leBytes 2 r.unit ++ leBytes 8 r.num ++
  leBytes 8 Config.serialLo.toNat ++ leBytes 8 Config.serialHi.toNat ++ leBytes 2 r.devid.toNat ++ [0xB0] ++
  [BitVec.ofNat 8 r.dstate.code] ++ leBytes 4 r.fwVer.toNat ++ leBytes 8 r.boots.toNat ++ leBytes 8 r.uptime ++
  leBytes 8 r.snap.toNat ++ leBytes 2 r.action ++ leBytes 2 r.temp.toNat ++ leBytes 2 r.voff.toNat ++
  leBytes 2 r.vin.toNat ++ leBytes 4 r.clkKhz ++ leBytes 2 r.job.toNat ++ leBytes 2 (min 0xFFFF r.suppr) ++
  (match r.cmd with
    | some k => leBytes 6 k.seq.toNat ++ leBytes 2 k.queue.toNat ++ leBytes 4 k.session.toNat
    | none => List.replicate 12 0) ++
  leBytes 4 r.psVer.toNat ++ leBytes 8 r.addr.toNat ++ leBytes 4 r.epoch ++ List.replicate 20 0 ++
  (r.data ++ List.replicate 124 0).take 124

def Cairn.bytes (r : Cairn) : List Byte :=
  let b := r.body
  b ++ leBytes 4 (crc32c (BitVec.allOnes 32) b).toNat

/-- Word i of ring slot k; zero where no record lies. -/
def Rel.ringWord (r : Rel) (k i : Nat) : Word :=
  match r.ring.find? fun x => x.num % 4096 = k with
  | some x => BitVec.ofNat 64 (leField x.bytes (8 * i) 8)
  | none => 0

/-! ### Reading (R425, R426) -/

/-- MLK_PSTATn (R356). -/
def Port.stat (p : Port) : Word :=
  BitVec.ofNat 64 (p.state.code + p.reason.toNat * 2 ^ 3 + (if p.enc then 2 ^ 7 else 0) + p.ver.toNat * 2 ^ 8 +
    p.peer.toNat * 2 ^ 12 + p.peerPort.toNat * 2 ^ 27 + p.rtt10ns.toNat * 2 ^ 31)

/-- ELO_PSTATn (R421). -/
def HostPort.stat (p : HostPort) : Word :=
  BitVec.ofNat 64 (p.state.code + p.reason.toNat * 2 ^ 3 + min 64 p.peers.length * 2 ^ 7)

def SessState.code : SessState → Nat
  | .opened => 1
  | .admitted => 2
  | .closing => 3

/-- ELO_SESSi (R421). -/
def Session.stat (s : Session) : Word :=
  BitVec.ofNat 64 (s.id.toNat + s.nq * 2 ^ 32 + s.state.code * 2 ^ 39 + s.ver.toNat % 16 * 2 ^ 42 + s.isa.toNat % 16 * 2 ^ 46 +
    s.evLost.toNat * 2 ^ 50)

def noneDone : BitVec 48 := BitVec.allOnes 48

/-- ELO_QSTAT0 and ELO_QSTAT1 of a queue (R421). -/
def CmdQueue.stat0 (q : CmdQueue) : Word := q.aheadDrops ++ q.nextExp
def CmdQueue.stat1 (q : CmdQueue) : Word :=
  BitVec.ofNat 64 ((q.lastDone.getD noneDone).toNat + (if q.held then 2 ^ 48 else 0) + 2 ^ 49)

/-- The register number of a queue in its slot's block: the control queue is q = 64 (R420). -/
def queueAt (nq : Nat) (q : Nat) : Option Nat := if q < nq then some q else if q = 64 then some nq else none

/-- A word of a session slot's block. -/
def slotWord (ses : Option Session) (off : Nat) : Word :=
  let empty : Word := if off % 16 = 8 ∧ off < 65 * 16 then BitVec.ofNat 64 (2 ^ 48 - 1) else 0
  match ses with
  | none => empty
  | some s =>
    if off = 0x7F8 then s.stat
    else match queueAt s.nq (off / 16) with
      | none => empty
      | some i => match s.queues[i]? with
        | none => empty
        | some q => if off % 16 = 0 then q.stat0 else q.stat1

/-- The same words as the summit book holds them (R524). -/
def bookWord (ses : Option BookSession) (off : Nat) : Word :=
  let empty : Word := if off % 16 = 8 ∧ off < 65 * 16 then BitVec.ofNat 64 (2 ^ 48 - 1) else 0
  match ses with
  | none => empty
  | some s =>
    if off = 0x7F8 then BitVec.ofNat 64 (s.id.toNat + s.nq * 2 ^ 32 + 2 ^ 39 + s.ver.toNat % 16 * 2 ^ 42 + s.isa.toNat % 16 * 2 ^ 46)
    else match queueAt s.nq (off / 16) with
      | none => empty
      | some i => match s.lastDone[i]? with
        | none => empty
        | some (d, _) =>
          if off % 16 = 0 then ((d.map (· + 1)).getD 0).zeroExtend 64
          else BitVec.ofNat 64 ((d.getD noneDone).toNat + 2 ^ 49)

def natWord (n : Nat) : Word := BitVec.ofNat 64 n
def b1 (b : Bool) : Nat := if b then 1 else 0

/-- What GSTAT counts of a unit: 0 from reset until the step of start-up that tests the units (R9, R437, R511). A warm reset
tests none and keeps the counts. -/
def Ctl.counted (c : Ctl) (step n : Nat) : Nat := if c.dev.boot ≠ .warm ∧ c.dev.bootStep < step then 0 else n

/-- GSTAT (R437). -/
def Ctl.gstat (c : Ctl) : Word :=
  natWord (c.dev.dstate.code + b1 c.recovering * 8 + b1 c.dev.sealed * 16 +
    b1 (c.dev.dstate == .service || c.dev.dstate == .degraded) * 32 +
    b1 (c.dev.guideA != c.dev.guideB) * 64 + c.dev.stage * 2 ^ 7 + c.counted 4 c.coresSvc * 2 ^ 10 +
    c.counted 4 c.slicesSvc * 2 ^ 19 + c.counted 5 c.stacksSvc * 2 ^ 25)

/-- Cores counted in OVERDUE (R474). -/
def Ctl.overdue (c : Ctl) : Nat :=
  ((List.range 384).filter fun n => !c.coreGone n && c.fld Addr.relCfg 1 14 ≤ c.fld (Addr.relCore n) 12 14).length

/-- FUSE_SVN: the bits burned (R488). -/
def Ctl.svn (c : Ctl) : Nat := match c.sec.svn with
  | some v => v.toNat
  | none => ((List.range 64).filter fun i => Config.fuseSvn.getLsbD i).length

/-- LEAVES_LEFT (R496). -/
def Ctl.leavesLeft (c : Ctl) : Nat := 2 ^ 40 - c.sec.q

/-- Whole watts of a power. -/
def watts (r : Rat) : Nat := r.floor.toNat

/-- A register of the first blocks, with the fields that the typed state holds. -/
def Ctl.readLow (c : Ctl) (ver : Word) (a : Nat) : Word :=
  let w := c.reg a
  if a = Addr.gstat then c.gstat
  else if a = Addr.gsnap then ver
  else if a = Addr.gtxn then
    natWord ((c.elo.sessions.filter fun e => e.2.txn.isSome).length + min (2 ^ 53 - 1) c.txn.commits * 2 ^ 11)
  else if a = Addr.avSvc then natWord (c.dev.svcUs / 1000)
  else if a = Addr.avDown then natWord (c.dev.downUs / 1000)
  else if a = Addr.avExcl then natWord (c.dev.exclUs / 1000)
  else if a = Addr.bcJnlStat then
    natWord (min 0xFFFF c.jnl.used + b1 c.jnl.remirror * 2 ^ 16 + c.jnl.mirror0.val * 2 ^ 17 + c.jnl.mirror1.val * 2 ^ 22 +
      c.jnl.standby.val * 2 ^ 27 + b1 c.jnl.standbyValid * 2 ^ 32 + b1 c.jnl.single * 2 ^ 33)
  else match idxOf a (Addr.jobF 0) 64 16 with
    | some j =>
      let job := c.fld (Addr.jobA j) 0 16
      let act := (c.jnl.cmds.filter fun m => m.accepted && m.job.toNat == job).length
      putBits w 1 16 (min 0xFFFF act)
    | none => match idxOf a (Addr.sesRights 0) 8 1024 with
      | some i => match (c.elo.sessions.find? fun e => e.1 = i) with
        | some e => natWord (b1 e.2.admin)
        | none => 0
      | none => match idxOf a (Addr.bcSliceStat 0) 8 32 with
        | some n =>
          natWord (bits w.toNat 0 2 + b1 (c.jnl.mirror0.val == n || c.jnl.mirror1.val == n) * 4 +
            b1 (c.jnl.standbyValid && c.jnl.standby.val == n) * 8 + (if c.dev.sealed then 0 else c.transitUsed n) * 16)
        | none => w

/-- A register of the Meloend and collective blocks. -/
def Ctl.readMlk (c : Ctl) (a : Nat) : Word :=
  let w := c.reg a
  if a = Addr.mlkCoord then putBits w 12 3 (c.pins.latched.toNat % 8)
  else if a = Addr.mlkLcfg then (if c.dev.sealed then 1 else w)
  else if a = Addr.collStat then (if c.dev.sealed then 0 else natWord c.coll.ops.length)
  else match idxOf a (Addr.mlkPstat 0) 8 16 with
    | some n => if h : n < 16 then (c.links.ports[n]).stat else 0
    | none => match idxOf a (Addr.lmStat 0) 8 12 with
      | some k =>
        if h : k < 12 then
          -- modules are detected at step 6 of a start that is not a warm reset (R9, R510)
          let l := if c.dev.boot = .warm ∨ 6 ≤ c.dev.bootStep then c.links.lasers[k] else Laser.reset
          let r := (if l.state = .absent then 0 else Config.laserReading ⟨k, h⟩ c.dev.uptime).toNat
          natWord (l.state.code + b1 l.removeOk * 4 + bits w.toNat 3 1 * 8 + r * 16 + l.serial.toNat * 2 ^ 28)
        else 0
      | none => match idxOf a (Addr.collBstat 0) 8 16 with
        | some n =>
          if c.dev.sealed then 0
          else natWord (min 256 (c.coll.ops.filter fun o => (o.station.map (·.val)) == some n).length + bits w.toNat 16 32 * 2 ^ 16)
        | none => match idxOf a (Addr.collGrpC 0) 32 64 with
          | some n => putBits w 32 32 (KMap.get 0 c.coll.nextSeq n).toNat
          | none => w

/-- A register of the host transport block. -/
def Ctl.readElo (c : Ctl) (a : Nat) : Word :=
  let w := c.reg a
  if a = Addr.eloCfg then (if c.dev.sealed then putBits w 16 1 1 else w)
  else if a = Addr.eloStat then
    natWord (c.elo.sessions.length + b1 (c.elo.ports.toList.take 4 |>.any fun p => p.state == .up) * 2 ^ 11 +
      b1 (c.elo.ports.toList.drop 4 |>.any fun p => p.state == .up) * 2 ^ 12)
  else match idxOf a (Addr.eloPstat 0) 8 8 with
    | some n => if h : n < 8 then (c.elo.ports[n]).stat else 0
    | none => match idxOf a (Addr.eloPmac 0) 8 8 with
      | some n => if h : n < 8 then (Config.portMac ⟨n, h⟩).zeroExtend 64 else 0
      | none =>
        if Addr.eloSlot 0 ≤ a ∧ a < Addr.eloSlot 1024 then
          let i := (a - Addr.eloSlot 0) / 0x800
          slotWord ((c.elo.sessions.find? fun e => e.1 = i).map (·.2)) ((a - Addr.eloSlot 0) % 0x800)
        else w

/-- A register of the power block. -/
def Ctl.readPwr (c : Ctl) (a : Nat) : Word :=
  let w := c.reg a
  let p := c.pow
  let sealedOff (n : Nat) : Nat := if c.dev.sealed then 0 else n
  if a = Addr.pwrStat then
    natWord (sealedOff (min 0xFFF (watts p.pEst)) + sealedOff (min 0xFFF p.pMeas) * 2 ^ 12 + b1 p.untrusted * 2 ^ 24 +
      b1 p.fallback * 2 ^ 25 + b1 p.measFault * 2 ^ 26 + sealedOff (min 0x7FF (watts p.allocArr)) * 2 ^ 27)
  else if a = Addr.pwrCal then
    natWord ((p.k * 32768).floor.toNat % 2 ^ 16 + sealedOff (min 0xFFFF p.disagree) * 2 ^ 16 + bits w.toNat 32 16 * 2 ^ 32)
  else if a = Addr.pwrVin then natWord (p.vin.toNat + bits w.toNat 12 16 * 2 ^ 12)
  else if a = Addr.pwrTherm then natWord (min 255 p.hot + bits w.toNat 8 8 * 2 ^ 8 + sealedOff p.hotCores.length * 2 ^ 16)
  else if a = Addr.pwrDroop then (if c.dev.sealed then 0 else w)
  else if a = Addr.pwrIdle then natWord (sealedOff (p.idleUj / 1000))
  else match idxOf a (Addr.pwrJob 0) 8 16 with
    | some j => natWord (KMap.get 0 p.ledger (c.fld (Addr.jobA j) 0 16) / 1000)
    | none => w

/-- A register of the reliability block. -/
def Ctl.readRel (c : Ctl) (a : Nat) : Word :=
  let w := c.reg a
  let r := c.rel
  if a = Addr.relStat then
    natWord (r.runs.length + ((List.range 384).filter fun n => c.coreOut n).length * 4 + c.overdue * 2 ^ 11)
  else if a = Addr.relPsStat then
    natWord (b1 r.psActive + b1 r.psTrial * 2 + b1 r.psAct.isSome * 4 + r.psLast.toNat * 8 + min 7 r.psSusp * 2 ^ 19)
  else if a = Addr.relPsVer then c.psVer r.psActive ++ r.psFloor
  else if a = Addr.relCrnum then (match r.ring with
    | [] => BitVec.allOnes 64
    | x :: _ => natWord x.num)
  else if Addr.relRing ≤ a ∧ a < Addr.relRing + 4096 * 256 then r.ringWord ((a - Addr.relRing) / 256) ((a - Addr.relRing) % 256 / 8)
  else w

/-- A register of the security and summit book blocks. -/
def Ctl.readTop (c : Ctl) (a : Nat) : Word :=
  let w := c.reg a
  let s := c.sec
  if a = Addr.secStat then
    natWord (b1 c.dev.sealed + b1 c.dev.dbgLocked * 2 + b1 s.fwSlot * 4 + b1 s.next * 8 + b1 s.trial * 16 + c.svn * 32 +
      b1 (s.act.isSome || s.rtAct.isSome) * 2 ^ 12 + s.last.toNat * 2 ^ 13 + b1 s.trialBt * 2 ^ 29)
  else if a = Addr.secLms then natWord (c.leavesLeft + bits w.toNat 41 6 * 2 ^ 41)
  else if a = Addr.sumStat then
    natWord (c.dev.lastReset + b1 c.dev.tailMiss * 8 + b1 c.dev.sbLost * 16 + c.dev.bootStep * 32)
  else if a = Addr.sumEpoch then natWord (c.dev.epoch % 2 ^ 32 + c.dev.bootMs % 2 ^ 32 * 2 ^ 32)
  else if a = Addr.sumBseq then natWord c.book.bseq
  else if a = Addr.sumJvalid then (c.book.items.jvalid).zeroExtend 64
  else match idxOf a (Addr.secOpkey 0) 8 4 with
    | some n => natWord (bits s.anchor.toNat (64 * n) 64)
    | none => match idxOf a (Addr.secKslot 0) 8 8 with
      | some n => if h : n < 8 then (match s.kslots[n] with
          | some k => natWord (1 + k.job.toNat * 2 + k.bundle.toNat % 2 ^ 47 * 2 ^ 17)
          | none => 0) else 0
      | none => match idxOf a (Addr.sumJver 0) 8 16 with
        | some j => KMap.get 0 c.book.items.jver j
        | none =>
          if Addr.sumQtab 0 ≤ a ∧ a < Addr.sumQtab 1024 then
            let i := (a - Addr.sumQtab 0) / 0x800
            bookWord ((c.book.items.sessions.find? fun e => e.1 = i).map (·.2)) ((a - Addr.sumQtab 0) % 0x800)
          else w

/-- What a read of a control-space word returns, in a snapshot of a version. WO fields read zero, and a word that no register
names reads its stored value, zero. -/
def Ctl.read (c : Ctl) (ver : Word) (a : Nat) : Word :=
  if a < Addr.mlk then c.readLow ver a
  else if a < Addr.elo then c.readMlk a
  else if a < Addr.pwr then c.readElo a
  else if a < Addr.rel then c.readPwr a
  else if a < Addr.sec then c.readRel a
  else c.readTop a

end Sys2Proof.Machine
end

