-- ==== Sys2Proof/Machine/Links.lean ====
section
/-! DEFINITION. The Meloend link layer (13): the topology of a port, sending with sequence numbers and credits, ring and W
maps, routing, and a port that comes up or goes down. -/
namespace Sys2Proof.Machine

/-! ### Topology (R347 to R349) -/

/-- Axes: 0 W, 1 X, 2 Y, 3 Z. -/
abbrev Axis := Fin 4
def axes : List Axis := [0, 1, 2, 3]

def Ctl.axisLen (c : Ctl) (a : Axis) : Nat :=
  if a = 0 then 2 ^ c.fld Addr.mlkAxis 0 2 else c.fld Addr.mlkAxis (4 * a.val) 4 + 1

/-- The coordinate of a DEVID on an axis. -/
def coord (d : BitVec 15) (a : Axis) : Nat := if a = 0 then bits d.toNat 12 3 else bits d.toNat (12 - 4 * a.val) 4
/-- A DEVID with one coordinate replaced. -/
def withCoord (d : BitVec 15) (a : Axis) (v : Nat) : BitVec 15 :=
  BitVec.ofNat 15 (if a = 0 then d.toNat % 2 ^ 12 + v * 2 ^ 12
    else d.toNat - coord d a * 2 ^ (12 - 4 * a.val) + v * 2 ^ (12 - 4 * a.val))

def Ctl.pAxis (c : Ctl) (p : MPort) : Nat := c.fld (Addr.mlkPcfg p.val) 0 3
def Ctl.pRole (c : Ctl) (p : MPort) : Nat := c.fld (Addr.mlkPcfg p.val) 3 2
def Ctl.pWidx (c : Ctl) (p : MPort) : Nat := c.fld (Addr.mlkPcfg p.val) 5 3
def Ctl.pEn (c : Ctl) (p : MPort) : Bool := c.bit (Addr.mlkPcfg p.val) 8

def Ctl.port (c : Ctl) (p : MPort) : Port := c.links.ports[p]
def Ctl.setPort (c : Ctl) (p : MPort) (v : Port) : Ctl := { c with links := { c.links with ports := c.links.ports.set p v } }

/-- The axis of a port; none where the configuration gives it no peer. -/
def Ctl.axisOf (c : Ctl) (p : MPort) : Option Axis :=
  match c.pAxis p with
  | 1 => if c.pWidx p + 1 < c.axisLen 0 then some 0 else none
  | 2 => if 2 ≤ c.axisLen 1 then some 1 else none
  | 3 => if 2 ≤ c.axisLen 2 then some 2 else none
  | 4 => if 2 ≤ c.axisLen 3 then some 3 else none
  | _ => none

/-- The port of an axis with a role (WIDX for W). -/
def Ctl.portOf (c : Ctl) (a : Axis) (r : Nat) : Option MPort :=
  (List.finRange 16).find? fun p => c.axisOf p = some a && (if a = 0 then c.pWidx p else c.pRole p) == r

/-- The expected neighbour of a port and the role or WIDX of its port (R348). -/
def Ctl.neighbour (c : Ctl) (p : MPort) : Option (BitVec 15 × Nat) :=
  let d := c.devid
  match c.axisOf p with
  | none => none
  | some a =>
    let x := coord d a
    let L := c.axisLen a
    if a = 0 then some (withCoord d 0 (x ^^^ (c.pWidx p + 1)), c.pWidx p)
    else match c.pRole p with
      | 0 => some (withCoord d a ((x + 1) % L), if L = 2 then 0 else 1)
      | 1 => some (withCoord d a ((x + L - 1) % L), 0)
      | _ => some (withCoord d a ((x + L / 2) % L), 2)

/-! ### Flits to send (R331, R332, R334, R337, R341) -/

/-- Flits of a load: a COLL packet has 32 header bytes before its data (R364). -/
def FlitLoad.flits : FlitLoad → Nat
  | .lctl _ => 1
  | .coll k _ _ => collFlits k
/-- Virtual channel: CTRL for LCTL. -/
def FlitLoad.vc : FlitLoad → Fin 4
  | .lctl _ => 3
  | .coll k _ _ => k.vc.toFin
/-- The 256 payload bytes of flit i of a load. -/
def FlitLoad.payload : FlitLoad → Nat → List Byte
  | .lctl m, _ => m.payload
  | .coll k _ _, i => k.flitPayload i

/-- A header with every field zero but FTYPE, and VC CTRL: an IDLE or NAK flit but for its AACK (R332). -/
def FlitHdr.plain (ftype : BitVec 4) : FlitHdr :=
  { ftype := ftype, vc := 3, sop := false, eop := false, lseq := 0, aack := 0, cvc := 0, ccnt := 0, dst := 0, job := 0, dir := 0
    xpd := false, uturn := false, vlen := 0, hops := 0, rsvd := 0 }

/-- The header of flit i of a load, without its sequence number, acknowledgement and credits. -/
def FlitLoad.hdr (l : FlitLoad) (i : Nat) : FlitHdr := match l with
  | .lctl _ => { FlitHdr.plain 2 with sop := true, eop := true }
  | .coll k _ _ =>
    let last := i + 1 == collFlits k
    { FlitHdr.plain 1 with vc := k.vc, sop := i == 0, eop := last, dst := k.dst, job := k.job, dir := k.dir, xpd := k.xpd
                           uturn := k.uturn, vlen := if last then k.vlen else 0, hops := k.hops }

/-- Flits sent and not acknowledged. -/
def Port.inflight (p : Port) : Nat := (p.lseq - p.oldest).toNat

/-- The first virtual channel with credits to return, and how many one flit carries. -/
def Port.returning (p : Port) : Fin 4 × Nat :=
  match (List.finRange 4).find? fun v => p.owed[v] != 0 with
  | some v => (v, min 63 p.owed[v])
  | none => (0, 0)

/-- Sends flit i of a load: it takes the next LSEQ, the current AACK and credits to return, consumes one credit and enters the retry
buffer. -/
def Port.sendFlit (p : Port) (l : FlitLoad) (i : Nat) : Port :=
  let (v, n) := p.returning
  let h := { l.hdr i with lseq := p.lseq, aack := p.aack, cvc := BitVec.ofFin v, ccnt := BitVec.ofNat 6 n }
  { p with
    lseq := p.lseq + 1
    retry := p.retry ++ [⟨h, l, i, 0⟩]
    credits := p.credits.set l.vc (p.credits[l.vc] - 1)
    owed := p.owed.set v (p.owed[v] - n) }

/-- Sends all the flits of a load. -/
def Port.send (p : Port) (l : FlitLoad) : Port := (List.range l.flits).foldl (fun (p : Port) i => p.sendFlit l i) p

/-- A load may be sent: its channel has credits and the retry buffer has room. -/
def Port.canSend (p : Port) (l : FlitLoad) : Bool :=
  decide (l.flits ≤ p.credits[l.vc]) && decide (p.inflight + l.flits ≤ 4096)

/-! ### The order of sending (R387, log 171) -/

/-- The enabled collective entry of a job. -/
def Ctl.collJob (c : Ctl) (job : Nat) : Option Nat :=
  (List.range 16).find? fun j => c.bit (Addr.collJobLo j) 16 && c.fld (Addr.collJobLo j) 0 16 == job

/-- The participant of the round robin that a packet belongs to: 1 + n for group entry n of a shared-mode job, 65 + j for the
axis-mode job of entry j; 0 for a packet of neither. -/
def Ctl.participant (c : Ctl) (k : CollPkt) : Nat :=
  match c.collJob k.job.toNat with
  | none => 0
  | some j =>
    if c.bit (Addr.collJobLo j) 17 then
      let n := k.hdr.group.toNat
      if n < 64 ∧ c.bit (Addr.collGrpA n) 16 = true ∧ c.fld (Addr.collGrpA n) 0 16 = k.job.toNat then 1 + n else 0
    else 65 + j

/-- WEIGHT of a group entry, AXW of an axis-mode job; 1 for packets of neither. -/
def Ctl.turnWeight (c : Ctl) (n : Nat) : Nat :=
  if n = 0 then 1
  else if n < 65 then c.fld (Addr.collGrpA (n - 1)) 18 8
  else c.fld (Addr.collJobLo (n - 65)) 18 8

/-- What waits on a channel that is not held up. -/
def Port.candidates (p : Port) (held : List (Fin 4)) : List FlitLoad := List.filter (fun l => !held.contains l.vc) p.queue

/-- The participant whose turn it is among those with packets waiting: the one being served while flits of its turn are left, else
the next in order. -/
def Port.whoseTurn (p : Port) (who : List Nat) : Option Nat :=
  if p.turnLeft ≠ 0 ∧ who.contains p.turnOf = true then some p.turnOf
  else match (who.filter fun n => decide (p.turnOf < n)).min? with
    | some n => some n
    | none => who.min?

/-- The load to send next: an LCTL message first, else the oldest packet of the participant whose turn it is. -/
def Ctl.nextLoad (c : Ctl) (p : Port) (held : List (Fin 4)) : Option (FlitLoad × Option Nat) :=
  let ls := p.candidates held
  let whoOf (l : FlitLoad) : Option Nat := match l with
    | .lctl _ => none
    | .coll k _ _ => some (c.participant k)
  match ls.find? fun l => (whoOf l).isNone with
  | some l => some (l, none)
  | none =>
    match p.whoseTurn (ls.filterMap whoOf) with
    | none => none
    | some n => (ls.find? fun l => whoOf l == some n).map fun l => (l, some n)

/-- A packet of a participant is sent: its turn, of 16 flits for each unit of its weight, goes on or begins. -/
def Ctl.serve (c : Ctl) (p : Port) (l : FlitLoad) (who : Option Nat) : Port :=
  match who with
  | none => p
  | some n =>
    let left := if n = p.turnOf ∧ p.turnLeft ≠ 0 then p.turnLeft else 16 * c.turnWeight n
    { p with turnOf := n, turnLeft := left - l.flits }

/-- Sends what waits: a load that finds no credits or no room holds its channel up for those behind it. -/
def Ctl.pumpQueue (c : Ctl) : Nat → Port → List (Fin 4) → Port
  | 0, p, _ => p
  | n + 1, p, held =>
    match c.nextLoad p held with
    | none => p
    | some (l, who) =>
      if p.canSend l then Ctl.pumpQueue c n { (c.serve p l who).send l with queue := p.queue.erase l } held
      else Ctl.pumpQueue c n p (l.vc :: held)

/-! ### Encryption (R342, R343) -/

def ascii (t : String) : List Byte := t.toList.map fun ch => BitVec.ofNat 8 ch.toNat

/-- A seal group more under a key; at the group counter that KEY_UPDATE named, the next key: HKDF-Expand of the current key with info
"S4 NEXT" (R343, R504). -/
def DirKey.advance (k : DirKey) : DirKey :=
  let n := k.groups + 1
  match k.nextAt with
  | some c => if c.toNat ≤ n then ⟨hkdfExpand (k.key.take 32) (ascii "S4 NEXT") 36, 0, none⟩ else { k with groups := n }
  | none => { k with groups := n }

/-- The 96-bit nonce of the next group: the direction salt, then the group counter. -/
def DirKey.nonce (k : DirKey) : List Byte := k.key.drop 32 ++ beBytes 8 k.groups

/-- A key that no KEY_UPDATE ends may seal what one turn sends, 4,096 flits at most, and stay within 2^32 groups. -/
def DirKey.room (k : DirKey) : Bool := k.nextAt.isSome || decide (k.groups + 4096 ≤ 2 ^ 32)

/-- The bytes of a sequenced flit. -/
def SentFlit.bytes (f : SentFlit) : List Byte := flitBytes f.hdr (f.load.payload f.idx)

/-- What a flit puts on a link that does not encrypt. -/
def SentFlit.output (f : SentFlit) (p : MPort) (h : FlitHdr) : Output := match f.load with
  | .lctl m => .flit p h (some m)
  | .coll k _ _ => .coll p h k f.idx

/-- The body of an EVENT (R412). -/
def EventBody.bytes : EventBody → List Byte
  | .completion _ _ st flags nonfin result version snap energy =>
    [1, 0] ++ beBytes 2 st.toNat ++ beBytes 2 flags.toNat ++ [0, 0] ++ beBytes 4 nonfin.toNat ++ beBytes 4 result.toNat ++
    beBytes 8 version.toNat ++ beBytes 8 snap.toNat ++ beBytes 8 energy.toNat
  | .device enum snap detail =>
    [2, 0] ++ beBytes 2 enum.toNat ++ List.replicate 12 0 ++ beBytes 8 snap.toNat ++ beBytes 16 detail.toNat

/-- QUEUE and SEQ of an EVENT's header (R412). -/
def EventBody.place : EventBody → BitVec 16 × BitVec 48
  | .completion q n .. => (q, n)
  | .device .. => (0xFFFF, 0)

/-- The header of a message that answers none: an EVENT, or the BYE of a session. -/
def plainMsg (session : BitVec 32) (dest : PeerAddr) (frame : Frame) (place : BitVec 16 × BitVec 48) : MsgHdr :=
  { port := dest.port, srcIp := dest.ip, srcPort := dest.udp, srcMac := dest.mac, ver := 1, flags := 0, session := session
    queue := place.1, seq := place.2, job := 0, rsvd := 0, length := 0, eseq := 0, frame := frame }

/-- A record QREC_q of a HELLO_ACK (R401). -/
def qrecBytes (q : BitVec 48 × BitVec 48 × Bool) : List Byte :=
  beBytes 6 q.1.toNat ++ [0, 0] ++ beBytes 6 q.2.1.toNat ++ [if q.2.2 then 1 else 0, 0]

/-- The bytes that an output puts on its wire: an Eloator message, in network byte order (R7, R397, R401, R411, R412, R416, R425,
R497), or the flits of a Meloend link, where IDLE and NAK flits carry zeros. The count and tag of a seal group travel in the
physical layer's trailer. -/
def Output.wire : Output → Option (List Byte)
  | .helloAck h st ver isa nq ds maxdata feat ses devid resumed snap qrecs =>
    some (h.message .helloAck 0 0 (beBytes 2 st.toNat ++ [ver, isa, nq, BitVec.ofNat 8 ds.code] ++ beBytes 2 maxdata.toNat ++
      beBytes 8 feat.toNat ++ beBytes 4 ses.toNat ++ beBytes 2 devid.toNat ++ [0xB0, resumed] ++ beBytes 8 snap.toNat ++
      qrecs.flatMap qrecBytes))
  | .ack h st cs cst n =>
    some (h.message .ack 0 0 (beBytes 2 st.toNat ++ [cs, 0] ++ beBytes 2 cst.toNat ++ beBytes 6 n.toNat ++ beBytes 4 0))
  | .nack h st n => some (h.message .nack 0 0 (beBytes 2 st.toNat ++ [0, 0] ++ beBytes 2 0 ++ beBytes 6 n.toNat ++ beBytes 4 0))
  | .dataResp h st a d => some (h.message .dataResp 0 0 (beBytes 2 st.toNat ++ beBytes 6 0 ++ beBytes 8 a.toNat ++ d))
  | .regResp h st a v ws =>
    some (h.message .dataResp 0 0 (beBytes 2 st.toNat ++ beBytes 6 0 ++ beBytes 8 a.toNat ++ beBytes 8 v.toNat ++
      ws.flatMap fun w => leBytes 8 w.toNat))
  | .event ses dest f eseq retx b => some ((plainMsg ses dest f b.place).message .event (if retx then 1 else 0) eseq b.bytes)
  | .attestResp h aop st part n total b =>
    some (h.message .attestResp 0 0 ([aop, part, n, 0] ++ beBytes 2 st.toNat ++ [0, 0] ++ beBytes 4 total ++ beBytes 4 0 ++ b))
  | .byeTo h => some (h.message .bye 0 0 [])
  | .flit _ h m => some (flitBytes h ((m.map Lctl.payload).getD (List.replicate 256 0)))
  | .coll _ h k i => some (flitBytes h (k.flitPayload i))
  | .sealed _ _ c _ => some c
  | .bye ses => some ((plainMsg ses ⟨0, 0, 0, 0⟩ ⟨0, true, 0, 0, false, 0, false, 0, none⟩ (0xFFFF, 0)).message .bye 0 0 [])
  | .mka .. | .arpReply .. | .icmpReply .. | .naReply .. | .mgmt .. => none

/-- Seals flits, in groups of at most 32, of which the last closes because there is nothing more to send. -/
def Port.seal (p : Port) (id : MPort) : Nat → List SentFlit → Port × List Output
  | 0, _ => (p, [])
  | n + 1, fs =>
    match fs, p.txKey with
    | f :: _, some k =>
      let g := fs.take 32
      let (c, t) := gcmSeal (k.key.take 32) k.nonce [] (g.flatMap SentFlit.bytes)
      let (p', outs) := Port.seal { p with txKey := some k.advance, sealed := p.sealed ++ [⟨f.hdr.lseq, g.length, c, t⟩] } id n
        (fs.drop 32)
      (p', .sealed id g.length c t :: outs)
    | _, _ => (p, [])

/-- What a port that may send puts on its link; one that drains sends control flits alone (R330 step 3). -/
def Ctl.turn (c : Ctl) (v : Port) (id : MPort) : Port × List Output :=
  let v' := c.pumpQueue (v.queue.length + 4) v (if v.state = .draining then [0, 1, 2] else [])
  let fs := v'.retry.drop v.retry.length
  if v.enc then v'.seal id fs.length fs else (v', fs.map fun f => f.output id f.hdr)

/-- A port may send: it is UP or drains, and the key it seals with is not used up. -/
def Port.maySend (v : Port) : Bool :=
  (v.state == .up || v.state == .draining) && (!v.enc || (match v.txKey with
    | some k => k.room
    | none => false))

def State.pump (s : State) (p : MPort) : State :=
  let v := s.ctl.port p
  if v.maySend then
    let (v', outs) := s.ctl.turn v p
    { s.mapCtl (fun c => c.setPort p v') with out := outs.reverse ++ s.out }
  else s

/-- Queues a load on a port and sends what can be sent. -/
def State.sendOn (s : State) (p : MPort) (l : FlitLoad) : State :=
  (s.mapCtl fun c => c.setPort p { c.port p with queue := (c.port p).queue ++ [l] }).pump p

/-- Sends a message of training, which is not yet sequenced (R345 step 6, log 24). -/
def State.sendTraining (s : State) (p : MPort) (m : Lctl) : State := s.send (.flit p ((FlitLoad.lctl m).hdr 0) (some m))

/-- The IDLE flit of the flit times in which a port has nothing else to send: it shows the AACK (R332, log 163). -/
def State.sendIdle (s : State) (p : MPort) : State := s.send (.flit p { FlitHdr.plain 0 with aack := (s.ctl.port p).aack } none)

/-! ### Maps (R351) -/

def portUp (c : Ctl) (a : Axis) (r : Nat) : Bool := match c.portOf a r with
  | some p => (c.port p).state == .up
  | none => false

/-- The link bits that this S4 reports for an axis: PLUS, MINUS, EXPRESS. -/
def Ctl.ringBits (c : Ctl) (a : Axis) : BitVec 3 :=
  BitVec.ofNat 3 (b1 (portUp c a 0) + 2 * b1 (portUp c a 1) + 4 * b1 (portUp c a 2))
def Ctl.wBits (c : Ctl) : BitVec 7 :=
  BitVec.ofNat 7 ((List.range 7).foldl (fun n j => n + b1 (portUp c 0 j) * 2 ^ j) 0)

/-- AXIS number in a RING_STATE, as in MLK_PCFGn. -/
def axisCode (a : Axis) : BitVec 8 := BitVec.ofNat 8 (a.val + 1)

/-- A port of an axis has changed state: RING_STATE on both ring ports, or W_STATE to every W neighbour. -/
def State.announceAxis (s : State) (a : Axis) : State :=
  let d := s.ctl.devid
  if a = 0 then
    let s := s.mapCtl fun c => { c with links := { c.links with wrseq := c.links.wrseq + 1 } }
    ((List.finRange 16).filter fun p => s.ctl.axisOf p = some 0 && (s.ctl.port p).state == .up).foldl
      (fun (s : State) p => s.sendOn p (.lctl (.wState d s.ctl.links.wrseq s.ctl.wBits))) s
  else
    let s := s.mapCtl fun c => { c with links := { c.links with rseq := c.links.rseq + 1 } }
    ((List.finRange 16).filter fun p =>
        s.ctl.axisOf p = some a && s.ctl.pRole p != 2 && (s.ctl.port p).state == .up).foldl
      (fun (s : State) p => s.sendOn p (.lctl (.ringState (axisCode a) d s.ctl.links.rseq (s.ctl.ringBits a)))) s

/-- A report with one RSEQ is newer than another (mod 2^16, log 24). -/
def newer (new old : BitVec 16) : Bool := let d := (new - old).toNat; decide (0 < d) && decide (d < 0x8000)

/-- A link bit that an origin last reported; a link that no report names counts as UP (log 24). -/
def reported (rs : List RingReport) (origin : BitVec 15) (axis : BitVec 8) (i : Nat) : Bool :=
  match rs.find? fun r => r.origin = origin ∧ r.axis = axis with
  | some r => r.links.getLsbD i
  | none => true

/-- State of a link bit of a device on an axis: this S4's own ports, or the map. -/
def Ctl.linkBit (c : Ctl) (d : BitVec 15) (a : Axis) (i : Nat) : Bool :=
  if d = c.devid then portUp c a i
  else if a = 0 then reported c.links.wmap d 0 i
  else reported c.links.ring d (axisCode a) i

/-- The ring link from coordinate x to x + 1 on an axis, both ends agreeing. -/
def Ctl.ringLink (c : Ctl) (base : BitVec 15) (a : Axis) (x : Nat) : Bool :=
  let L := c.axisLen a
  c.linkBit (withCoord base a (x % L)) a 0 && c.linkBit (withCoord base a ((x + 1) % L)) a (if L = 2 then 0 else 1)

/-! ### Routing (R352, R353) -/

/-- A route on a ring axis: plus or minus, and whether it begins with the express hop. -/
structure Route where
  minus   : Bool
  express : Bool
deriving DecidableEq, Repr

/-- n ring hops from coordinate x are all UP. -/
def Ctl.ringUp (c : Ctl) (base : BitVec 15) (a : Axis) (x n : Nat) (minus : Bool) : Bool :=
  let L := c.axisLen a
  (List.range n).all fun i => if minus then c.ringLink base a ((x + 2 * L - 1 - i) % L) else c.ringLink base a (x + i)

/-- The candidates of R352 from coordinate x to y of an axis, with their hops, those that are UP. -/
def Ctl.candidates (c : Ctl) (base : BitVec 15) (a : Axis) (x y : Nat) : List (Route × Nat) :=
  let L := c.axisLen a
  let d := (y + L - x) % L
  let e := L / 2
  let plus := (Route.mk false false, d, c.ringUp base a x d false)
  let minus := (Route.mk true false, L - d, decide (3 ≤ L) && c.ringUp base a x (L - d) true)
  let ex := decide (4 ≤ L) && c.linkBit (withCoord base a x) a 2
  let n3 := (d + L - e) % L
  let n4 := (e + L - d) % L
  let x' := (x + e) % L
  [plus, minus, (Route.mk false true, 1 + n3, ex && c.ringUp base a x' n3 false),
    (Route.mk true true, 1 + n4, ex && c.ringUp base a x' n4 true)].filterMap
      fun t => if t.2.2 then some (t.1, t.2.1) else none

/-- The choice of R352: fewest hops, the earlier candidate on a tie. -/
def Ctl.choose (c : Ctl) (base : BitVec 15) (a : Axis) (x y : Nat) : Option Route :=
  match c.candidates base a x y with
  | [] => none
  | t :: ts => some (ts.foldl (fun (b : Route × Nat) t => if t.2 < b.2 then t else b) t).1

/-- Where a packet goes: delivered here, out of a port with its route fields, or dropped. -/
inductive Hop where
  | deliver
  | out (p : MPort) (k : CollPkt)
  | unreach
deriving DecidableEq, Repr

/-- `ring_hop` of R353. -/
def Ctl.ringHop (c : Ctl) (k : CollPkt) (a : Axis) : Hop :=
  let L := c.axisLen a
  let x := coord c.devid a
  let go (k : CollPkt) : Option (MPort × CollPkt) :=
    match c.portOf a k.dir.toNat with
    | some p =>
      if (c.port p).state = .up then
        let y := if k.dir = 0 then (x + 1) % L else (x + L - 1) % L
        let wraps := (x == L - 1 && y == 0) || (x == 0 && y == L - 1)
        some (p, if k.vc = 0 ∧ wraps then { k with vc := 1 } else k)
      else none
    | none => none
  match go k with
  | some (p, k) => .out p k
  | none =>
    if k.uturn then .unreach
    else match go { k with uturn := true, vc := 2, dir := if k.dir = 0 then 1 else 0 } with
      | some (p, k) => .out p k
      | none => .unreach

/-- `forward` of R353. -/
def Ctl.forward (c : Ctl) (k : CollPkt) (inAxis : Option Axis) : Hop :=
  let me := c.devid
  match axes.find? fun a => coord k.dst a ≠ coord me a with
  | none => .deliver
  | some a =>
    let w (j : Nat) (k : CollPkt) : Option Hop := match c.portOf 0 j with
      | some p => if (c.port p).state = .up then some (.out p k) else none
      | none => none
    let direct := (coord me 0 ^^^ coord k.dst 0) - 1
    if inAxis = some a then
      if a = 0 then (w direct { k with vc := 1 }).getD .unreach
      else c.ringHop k a
    else
      let k := { k with vc := 0, xpd := false, uturn := false }
      if a = 0 then
        match w direct k with
        | some h => h
        | none =>
          match (List.range (c.axisLen 0)).find? fun m =>
              m ≠ coord me 0 ∧ m ≠ coord k.dst 0 ∧ portUp c 0 ((coord me 0 ^^^ m) - 1) = true ∧
              c.linkBit (withCoord me 0 m) 0 ((m ^^^ coord k.dst 0) - 1) = true with
          | some m => (w ((coord me 0 ^^^ m) - 1) k).getD .unreach
          | none => .unreach
      else
        match c.choose me a (coord me a) (coord k.dst a) with
        | none => .unreach
        | some r =>
          let k := { k with dir := if r.minus then 1 else 0 }
          if r.express then
            match c.portOf a 2 with
            | some p => if (c.port p).state = .up then .out p { k with xpd := true } else .unreach
            | none => .unreach
          else c.ringHop k a

/-- The station that serves a member whose data predecessor is another device (R370): the port on which the route from it
arrives. -/
def Ctl.stationFor (c : Ctl) (pred : BitVec 15) : Option MPort :=
  let me := c.devid
  -- the W link of index j between this S4 and slot m is UP at both ends
  let wUp (m : Nat) : Bool :=
    let j := (m ^^^ coord me 0) - 1
    portUp c 0 j && c.linkBit (withCoord me 0 m) 0 j
  match axes.reverse.find? fun a => coord pred a ≠ coord me a with
  | none => none
  | some a =>
    if a = 0 then
      let w := coord pred 0
      let last := if wUp w then some w
        else (List.range (c.axisLen 0)).find? fun m => m ≠ coord me 0 ∧ m ≠ w ∧ wUp m = true ∧
          c.linkBit (withCoord me 0 w) 0 ((m ^^^ w) - 1) = true ∧ c.linkBit (withCoord me 0 m) 0 ((m ^^^ w) - 1) = true
      last.bind fun m => c.portOf 0 ((m ^^^ coord me 0) - 1)
    else
      let L := c.axisLen a
      match c.choose me a (coord pred a) (coord me a) with
      | none => none
      | some r =>
        if r.express ∧ (coord pred a + L / 2) % L = coord me a then c.portOf a 2
        else if r.minus then c.portOf a 0
        else c.portOf a (if L = 2 then 0 else 1)

/-- Sends a packet on its way: routed, with one more hop, or dropped and counted. A packet for this S4 itself is the caller's. -/
def State.route (s : State) (k : CollPkt) (inAxis : Option Axis) : State :=
  match s.ctl.forward k inAxis with
  | .deliver => s
  | .unreach => s.mapCtl fun c => c.bump Addr.mlkDrop 0 32 1
  | .out p k' =>
    if k'.hops = 63 then s.mapCtl fun c => c.bump Addr.mlkDrop 32 32 1
    else s.sendOn p (.coll { k' with hops := k'.hops + 1 } k inAxis)

/-! ### Ports that come up and go down (R345, R346) -/

/-- A COLL packet as it came to this S4, with the axis of the port it arrived on. -/
def FlitLoad.packet? : FlitLoad → Option (CollPkt × Option Axis)
  | .coll _ was via => some (was, via)
  | .lctl _ => none

/-- COLL packets that a port holds: those whose last flit is in its retry buffer, then its queue. -/
def Port.packets (p : Port) : List (CollPkt × Option Axis) :=
  (((p.retry.filter fun f => f.hdr.eop).map (·.load)) ++ p.queue).filterMap FlitLoad.packet?

/-- Packets are routed again, as they came (R340, R353). -/
def State.reroute (s : State) (ks : List (CollPkt × Option Axis)) : State :=
  ks.foldl (fun (s : State) k => s.route k.1 k.2) s

/-- A port that leaves UP or DRAINING, or whose training ends, loses its link state. -/
def Port.idle (p : Port) (st : MpState) (reason : BitVec 4) : Port :=
  { Port.reset with state := st, reason := reason, secret := p.secret }

/-- DOWNS counts a departure from UP, a drain's at its start (R330, R356). -/
def Ctl.leftUp (c : Ctl) (p : MPort) : Ctl := if (c.port p).state = .up then c.bump (Addr.mlkPerr p.val) 48 16 1 else c

/-- A port of an axis goes DOWN (R346). A departure from UP is a fault: counted, recorded, announced, and its packets take other
routes; RECOVERY_BUSY holds until they do. -/
def State.portDownOn (s : State) (p : MPort) (code : BitVec 4) (ax : Option Axis) : State :=
  let v := s.ctl.port p
  let wasUp := v.state == .up || v.state == .draining
  let down (c : Ctl) : Ctl := c.setPort p (v.idle .down code)
  if wasUp then
    let s := s.beginRecovery.mapCtl fun c => down (c.leftUp p)
    let s := s.unitLeft .mport p.val code.toNat
    let s := match ax with
      | some a => s.announceAxis a
      | none => s
    (s.reroute v.packets).endRecovery
  else s.mapCtl down

/-- A port goes DOWN with a REASON code. -/
def State.portDownCode (s : State) (p : MPort) (code : BitVec 4) : State := s.portDownOn p code (s.ctl.axisOf p)

/-- The same with a REASON of R346. -/
def State.portDown (s : State) (p : MPort) (r : DownReason) : State := s.portDownCode p (reasonCode r)

/-- A port of an axis turned off by a commit, by stage D or by a reset: no fault (R346). -/
def State.portOffOn (s : State) (p : MPort) (reason : BitVec 4) (ax : Option Axis) : State :=
  let v := s.ctl.port p
  let wasUp := v.state == .up || v.state == .draining
  let s := s.mapCtl fun c => (c.leftUp p).setPort p (v.idle .off reason)
  match ax with
  | some a => if wasUp then s.announceAxis a else s
  | none => s

def State.portOff (s : State) (p : MPort) (reason : BitVec 4) : State := s.portOffOn p reason (s.ctl.axisOf p)

/-- Training starts: EN is 1 and the configuration gives the port a peer (R345). -/
def Ctl.startTraining (c : Ctl) (p : MPort) : Ctl :=
  let v := c.port p
  if c.pEn p && (c.axisOf p).isSome then c.setPort p { v.idle .training v.reason with secret := v.secret } else c

/-- Whether the link must encrypt (R344). -/
def Ctl.mustEncrypt (c : Ctl) (p : MPort) : Bool := c.dev.sealed || c.bit Addr.mlkLcfg 0 || (c.port p).peerEnc

/-- A RETURNED record and its event (R469, R470, R481, R484). -/
def State.returnedRecord (s : State) (u : UType) (n : Nat) (pass : Bool) (action : Nat := 6) : State :=
  s.mapCtl fun c =>
    c.record { c.cairn 7 u n action [if pass then 1 else 0] with
      ev := some (evUNIT_RETURNED, unitDetail u n) }

/-- The REASON of a port that left service, which training keeps: one that is UP again returns by R470. -/
def leftBy (reason : BitVec 4) : Bool := reason != 0 && reason != 1

/-- Step 7: the port is UP, with the credits that MLK_VC_CFG gives; one that had left service returns (R470). -/
def State.portUp (s : State) (p : MPort) : State :=
  let back := leftBy (s.ctl.port p).reason
  let g : Vector Nat 4 := Vector.ofFn fun i => match i with
    | 0 => s.ctl.fld Addr.mlkVc 0 13
    | 1 => s.ctl.fld Addr.mlkVc 13 13
    | 2 => s.ctl.fld Addr.mlkVc 26 13
    | 3 => s.ctl.fld Addr.mlkVc 39 7
  let s := s.mapCtl fun c =>
    let v := c.port p
    c.setPort p { v with state := .up, reason := 0, lseq := 0, oldest := 0, aack := 0, nakSent := false, retry := [],
                         sealed := [], part := Vector.replicate 4 none, credits := g, grant := g, owed := Vector.replicate 4 0, queue := [], enc := c.mustEncrypt p }
  let s := match s.ctl.axisOf p with
    | some a => s.announceAxis a
    | none => s
  (if back then s.returnedRecord .mport p.val true else s).shown.trySvc

/-! ### Acknowledgement and resends (R337, R338, R343) -/

/-- LSEQ a lies before b, in the half of the number range behind it (log 164). -/
def seqBefore (a b : BitVec 14) : Bool := let d := (b - a).toNat; decide (0 < d) && decide (d < 0x2000)

/-- An AACK acknowledges every flit before it; one that lies behind the oldest flit kept acknowledges nothing more. -/
def Port.ack (p : Port) (a : BitVec 14) : Port :=
  let n := (a - p.oldest).toNat
  if n ≤ p.inflight then
    { p with oldest := a, retry := p.retry.drop n
             sealed := p.sealed.filter fun g => seqBefore a (g.first + BitVec.ofNat 14 g.n) }
  else p

/-- The groups that hold a flit and those after it. -/
def Port.groupsFrom (p : Port) (a : BitVec 14) : List SealGroup :=
  p.sealed.filter fun g => seqBefore a (g.first + BitVec.ofNat 14 g.n)

/-- Where a resend from a flit begins: on a link that encrypts, at the first flit of the group that holds it. -/
def Port.resendAt (p : Port) (a : BitVec 14) : BitVec 14 :=
  if p.enc then match p.groupsFrom a with
    | g :: _ => g.first
    | [] => a
  else a

/-- The flits of the retry buffer from a point on, each resent once more. -/
def Port.resent (p : Port) (a : BitVec 14) : List SentFlit :=
  let at_ := p.resendAt a
  p.retry.map fun f => if seqBefore f.hdr.lseq at_ then f else { f with resent := f.resent + 1 }

/-- What a resend puts on the link, and its flits: groups bit for bit on a link that encrypts; otherwise the unacknowledged flits
with the credits they had and the current AACK. -/
def Port.resendOut (p : Port) (id : MPort) (a : BitVec 14) : List Output × Nat :=
  if p.enc then
    let gs := p.groupsFrom a
    (gs.map fun g => .sealed id g.n g.cipher g.tag, gs.foldl (fun n g => n + g.n) 0)
  else
    let fs := p.retry.filter fun f => !seqBefore f.hdr.lseq a
    (fs.map fun f => f.output id { f.hdr with aack := p.aack }, fs.length)

/-- Resends every unacknowledged flit from one LSEQ on; the eighth time in a row for one flit the port goes DOWN (R338). -/
def State.resend (s : State) (p : MPort) (fromSeq : BitVec 14) : State :=
  let v := s.ctl.port p
  let (outs, n) := v.resendOut p fromSeq
  let retry := v.resent fromSeq
  let s := s.mapCtl fun c => (c.setPort p { v with retry := retry }).bump (Addr.mlkPerr p.val) 0 16 n
  let s := { s with out := outs.reverse ++ s.out }
  if retry.any fun e => 8 ≤ e.resent then s.portDown p .retryLimit else s

/-! ### Receiving (R334, R336 to R338) -/

/-- The protocol errors of R336 that a flit shows by itself, where its command takes flits of one type: a reserved value or field, a
breach of R332 or R334, an AACK that names a flit not yet sent, a NAK that names one already acknowledged. -/
def Port.flitBad (p : Port) (f : FlitHdr) (ftype : BitVec 4) : Bool :=
  f.ftype != ftype || f.rsvd != 0 || decide (2 ≤ f.dir.toNat) || (f.vlen != 0 && !f.eop) || seqBefore p.lseq f.aack ||
  (if ftype = 1 then f.vc == 3
    else f.vc != 3 || f.job != 0 || f.vlen != 0 ||
      (if ftype = 2 then !f.sop || !f.eop
        else f.lseq != 0 || f.ccnt != 0 || f.dst != 0 || f.dir != 0 || f.xpd || f.uturn || f.hops != 0)) ||
  (ftype == 3 && decide (p.inflight < (f.aack - p.oldest).toNat))

/-- The protocol errors of a flit that is the next in LSEQ order: credits beyond those consumed, or a packet that does not begin, go on
and end by R334. -/
def Port.orderBad (p : Port) (f : FlitHdr) : Bool :=
  decide (p.grant[f.cvc.toFin]'(f.cvc.isLt) < p.credits[f.cvc.toFin]'(f.cvc.isLt) + f.ccnt.toNat) ||
  (f.ftype == 1 && (match p.part[f.vc.toFin]'(f.vc.isLt) with
    | none => !f.sop
    | some q => f.sop || f.dst != q.dst || f.job != q.job || decide (16 ≤ q.n)))

/-- The next flit in LSEQ order is accepted: its credits are taken, one is owed for it, and its packet goes on. -/
def Port.take (p : Port) (f : FlitHdr) : Port :=
  let credits := p.credits.set f.cvc.toFin (p.credits[f.cvc.toFin]'(f.cvc.isLt) + f.ccnt.toNat)
  let n := match p.part[f.vc.toFin]'(f.vc.isLt) with
    | some q => q.n + 1
    | none => 1
  { p with aack := p.aack + 1, nakSent := false, credits := credits
           owed := p.owed.set f.vc.toFin (p.owed[f.vc.toFin]'(f.vc.isLt) + 1)
           part := p.part.set f.vc.toFin (if f.eop then none else some ⟨f.dst, f.job, n⟩) }

/-- How the reception of flits ends: a protocol error, a flit after a missing one, a second copy, or the last one accepted. -/
inductive RxEnd where
  | bad | gap | copy | ok
deriving DecidableEq, Repr

/-- One sequenced flit arrives. -/
def Port.rxFlit (p : Port) (f : FlitHdr) (ftype : BitVec 4) : Port × RxEnd :=
  if p.flitBad f ftype then (p, .bad)
  else
    let p := p.ack f.aack
    if f.lseq = p.aack then (if p.orderBad f then (p, .bad) else (p.take f, .ok))
    else (p, if seqBefore p.aack f.lseq then .gap else .copy)

/-- Flits of packets that are not complete arrive; after a missing flit every later one is discarded. -/
def Port.rxBefore (p : Port) : List FlitHdr → Port × RxEnd
  | [] => (p, .ok)
  | f :: fs => match p.rxFlit f 1 with
    | (p', .bad) => (p', .bad)
    | (p', .gap) => (p', .gap)
    | (p', _) => Port.rxBefore p' fs

/-- The seal groups whose tags have verified count under the neighbour's key. -/
def Port.opened (p : Port) : Nat → Port
  | 0 => p
  | n + 1 => Port.opened { p with rxKey := p.rxKey.map DirKey.advance } n

/-- The flits of a command arrive: those of unfinished packets, then the one that completes it. -/
def Port.rx (p : Port) (f : RxFlit) (ftype : BitVec 4) : Port × RxEnd :=
  match p.rxBefore f.before with
  | (p', .ok) => match p'.rxFlit f.toFlitHdr ftype with
    | (q, .ok) => (q.opened f.seals, .ok)
    | r => r
  | r => r

/-- The flits of the packet that a command's last flit belongs to, that flit among them. -/
def Port.flitsOf (p : Port) (f : RxFlit) : Nat := match ((p.rxBefore f.before).1.part)[f.vc.toFin]'(f.vc.isLt) with
  | some q => q.n + 1
  | none => 1

/-- The last flit of a COLL packet does not end it as R334 asks: EOP, at the flit where the packet ends, with the bytes it leaves. -/
def Port.endBad (p : Port) (f : RxFlit) (k : CollPkt) : Bool :=
  !f.eop || p.flitsOf f != collFlits k || (match k.body with
    | .data _ => f.vlen != k.vlen
    | _ => false)

/-- A NAK naming the LSEQ that is awaited, once (R338). -/
def State.sendNak (s : State) (p : MPort) : State :=
  let v := s.ctl.port p
  if v.nakSent then s
  else (s.mapCtl fun c => c.setPort p { v with nakSent := true }).send (.flit p { FlitHdr.plain 3 with aack := v.aack } none)

/-- Sequenced flits arrive and complete a command: a protocol error takes the port DOWN, a flit after a missing one is discarded with
one NAK, a second copy is discarded; what is accepted is handed on, and the neighbour learns of it with the next flit. -/
def State.rxSeq (s : State) (p : MPort) (f : RxFlit) (ftype : BitVec 4) (bad : Bool) (act : State → State) : State :=
  let v := s.ctl.port p
  if v.state ≠ .up ∧ v.state ≠ .draining then s
  else
    let (v', r) := v.rx f ftype
    let s := s.mapCtl fun c => c.setPort p v'
    match r with
    | .bad => s.portDown p .protocol
    | .gap => (s.pump p).sendNak p
    | .copy => s.pump p
    | .ok =>
      if bad then s.portDown p .protocol
      else
        let s := act (s.pump p)
        if (s.ctl.port p).maySend && (s.ctl.port p).lseq == v.lseq then s.sendIdle p else s

end Sys2Proof.Machine
end

