-- ==== Sys2Proof/Machine/Coll.lean ====
section
/-! DEFINITION. The collectives (14; 09 R263 to R271): groups, schedules, the belay adders, what a member sends and writes,
waits, and how an operation ends. -/
namespace Sys2Proof.Machine

/-! ### Groups (R357 to R361) -/

/-- The axes of a mask, in the order of their digits. -/
def maskAxes (m : Nat) : List Axis := axes.filter fun a => m.testBit a.val

/-- Weights of the participants in a port direction (R387): the enabled groups of shared-mode jobs and the enabled axis-mode
jobs. -/
def Ctl.weights (c : Ctl) : Nat :=
  let shared := (List.range 16).filter fun j => c.bit (Addr.collJobLo j) 16 && c.bit (Addr.collJobLo j) 17
  ((List.range 64).filter fun n => c.bit (Addr.collGrpA n) 16 &&
      shared.any fun j => c.fld (Addr.collJobLo j) 0 16 == c.fld (Addr.collGrpA n) 0 16).foldl
    (fun w n => w + c.fld (Addr.collGrpA n) 18 8) 0 +
  ((List.range 16).filter fun j => c.bit (Addr.collJobLo j) 16 && !c.bit (Addr.collJobLo j) 17).foldl
    (fun w j => w + c.fld (Addr.collJobLo j) 18 8) 0

/-- WEIGHT of a group, AXW of the job of an axis-mode group. -/
def Ctl.weightOf (c : Ctl) (g : Group) : Nat :=
  if g.mask = 0 then c.fld (Addr.collGrpA g.entry) 18 8 else c.fld (Addr.collJobLo ((g.qkey - 64) / 32)) 18 8

/-- The most bytes of a chunk (R362): STEP_KIB, and what the group's guaranteed share of 188.2 GB/s moves in 200 us. -/
def Ctl.chunkBytes (c : Ctl) (g : Group) : Nat :=
  min (c.fld Addr.collCfg 17 15 * 1024) (c.weightOf g * 37640000 / max 1 c.weights)

/-- The group that CD_GROUP names for a job; none where it is not configured for it (R359). -/
def Ctl.group (c : Ctl) (job : Nat) (g : BitVec 16) : Option Group :=
  match c.collJob job with
  | none => none
  | some j =>
    if c.bit (Addr.collJobLo j) 17 then
      let n := g.toNat
      let a := Addr.collGrpA n
      if n < 64 ∧ c.bit a 16 = true ∧ c.fld a 0 16 = job then
        some ⟨n, c.fld a 26 16, c.fld a 42 15, c.bit a 17, 0, n, BitVec.ofNat 32 (c.fld (Addr.collGrpC n) 0 32)⟩
      else none
    else
      let m := g.toNat % 16
      if g.toNat < 32 ∧ m ≠ 0 then
        some ⟨64 + 32 * j + g.toNat, (maskAxes m).foldl (fun n a => n * c.axisLen a) 1,
          (maskAxes m).foldr (fun a r => coord c.devid a + c.axisLen a * r) 0, g.getLsbD 4, m, 0, 0⟩
      else none

/-- The DEVID of a rank. -/
def Ctl.devOf (c : Ctl) (g : Group) (r : Nat) : BitVec 15 :=
  if g.mask = 0 then ((KMap.get [] c.coll.lists g.entry).getD r 0).extractLsb' 0 15
  else ((maskAxes g.mask).foldl (fun (p : BitVec 15 × Nat) a => (withCoord p.1 a (p.2 % c.axisLen a), p.2 / c.axisLen a))
    (c.devid, r)).1

namespace Group
/-- Successor and predecessor on the ring (R361). -/
def up (g : Group) (r : Nat) : Nat := (r + 1) % g.size
def down (g : Group) (r : Nat) : Nat := (r + g.size - 1) % g.size
def succ (g : Group) (r : Nat) : Nat := if g.rev then g.down r else g.up r
def pred (g : Group) (r : Nat) : Nat := if g.rev then g.up r else g.down r
/-- The lowest set bit of a rank; beyond every rank for 0. -/
def low (r : Nat) : Nat := ((List.range 16).find? fun i => r.testBit i).getD 16
/-- The control tree rooted at rank 0. -/
def parent (g : Group) : Nat := g.rank - 2 ^ low g.rank
def children (g : Group) : List Nat :=
  ((List.range (low g.rank)).map fun i => g.rank + 2 ^ i).filter fun r => decide (r < g.size)
def others (g : Group) : List Nat := (List.range g.size).filter fun r => r ≠ g.rank
end Group

/-! ### Units of an operation (R361, R364) -/

/-- Elements first to first + n - 1 of a stream as a stream of its own. -/
def Desc.window (d : Desc) (first n : Nat) : Desc :=
  let pay := if d.fmt = 9 then d.pay + first / 32 * (4 * (d.sw + 1)) else if d.fmt = 12 then d.pay + first / 8
    else d.pay + first * fmtSize d.fmt
  let hdr := d.hdr + first / 32 * 2
  let n := if fmtBlocked d.fmt then (n + 31) / 32 * 32 else n
  ((d.set 0 (putBits d[0] 0 48 pay)).set 1 (putBits d[1] 0 40 n)).set 2 (putBits d[2] 0 48 hdr)

def rangesLen (rs : List (Nat × Nat)) : Nat := rs.foldl (fun n r => n + r.2) 0

/-- Address of byte i of a list of ranges. -/
def rangeAddr : List (Nat × Nat) → Nat → Nat
  | [], _ => 0
  | (a, n) :: rs, i => if i < n then a + i else rangeAddr rs (i - n)

def readRanges (m : Memory) (rs : List (Nat × Nat)) (off n : Nat) : List Byte :=
  (List.range n).map fun i => m.read8 (rangeAddr rs (off + i))
/-- The part of a list of ranges that bytes off to off + n - 1 take. -/
def subRanges : List (Nat × Nat) → Nat → Nat → List (Nat × Nat)
  | [], _, _ => []
  | (a, l) :: rs, off, n =>
    if n = 0 then []
    else if off < l then (a + off, min n (l - off)) :: subRanges rs 0 (n - (l - off))
    else subRanges rs (off - l) n

def writeRanges (m : Memory) (rs : List (Nat × Nat)) (off : Nat) (bs : List Byte) : Memory :=
  bs.zipIdx.foldl (fun (m : Memory) b => m.write8 (rangeAddr rs (off + b.2)) b.1) m

namespace GroupOp

def seqNo (o : GroupOp) : Nat := o.key.seq.toNat
/-- Bytes of one unit on the wire, and units in one packet. -/
def unitBytes (o : GroupOp) : Nat := if o.dtype = 1 then 32 else if o.dtype = 2 then 16 else 1
def perPacket (o : GroupOp) : Nat := 4064 / o.unitBytes

/-- Ranges of the c elements that a BYTES contribution holds. -/
def whole (o : GroupOp) (d : Option Desc) (k : Nat) : List (Nat × Nat) := match d with
  | some d => (d.window (k * o.count) o.count).ranges
  | none => []

/-- B of R361 for a reduction, and the bytes of one contribution for a movement. -/
def units (o : GroupOp) : Nat :=
  if o.dtype = 1 then (o.count + 31) / 32
  else if o.dtype = 2 then o.count
  else rangesLen (if o.src.isSome then o.whole o.src 0 else o.whole o.dst 0)

/-- First unit of segment k; a chain of REDUCE carries all units. -/
def segLo (o : GroupOp) (k : Nat) : Nat := if o.opc = 2 ∨ o.opc = 3 then k * o.units / o.grp.size else 0
def segLen (o : GroupOp) (k : Nat) : Nat :=
  if o.opc = 2 ∨ o.opc = 3 then (k + 1) * o.units / o.grp.size - k * o.units / o.grp.size else o.units

/-- Elements that member s sends to member d in an ALLTOALL, and those it drops (R377). -/
def sends (o : GroupOp) (d : Nat) : Nat := min (o.lens.getD d 0) o.cap
def drops (o : GroupOp) (d : Nat) : Nat := o.lens.getD d 0 - o.cap

/-- Ranges of ALLTOALL: what goes to member d, and where n elements from member s go. -/
def segOut (o : GroupOp) (d : Nat) : List (Nat × Nat) := match o.src with
  | some x => (x.window (d * o.count) (o.sends d)).ranges
  | none => []
def segIn (o : GroupOp) (s n : Nat) : List (Nat × Nat) := match o.dst with
  | some x => (x.window (s * o.cap) n).ranges
  | none => []

/-- Length that member s announced. -/
def rlen (o : GroupOp) (s : Nat) : Option Nat := (o.rlens.find? fun e => e.1 = s).map (·.2.1)

/-- Members that send data to this one, and members that it sends data to (R361). -/
def dataFrom (o : GroupOp) : List Nat :=
  let g := o.grp
  if g.size ≤ 1 then []
  else match o.opc with
    | 1 => if g.rank = g.succ o.root then [] else [g.pred g.rank]
    | 4 => if g.rank = o.root then [] else [g.pred g.rank]
    | 6 => g.others
    | 7 => []
    | _ => [g.pred g.rank]
def dataTo (o : GroupOp) : List Nat :=
  let g := o.grp
  if g.size ≤ 1 then []
  else match o.opc with
    | 1 => if g.rank = o.root then [] else [g.succ g.rank]
    | 4 => if g.succ g.rank = o.root then [] else [g.succ g.rank]
    | 6 => g.others
    | 7 => []
    | _ => [g.succ g.rank]

def sumOver (f : Nat → Nat) (l : List Nat) : Nat := l.foldl (fun n k => n + f k) 0

/-- Units that this member sends along the ring over the whole operation. -/
def owed (o : GroupOp) : Nat :=
  let g := o.grp
  let all := List.range g.size
  if g.size ≤ 1 then 0
  else match o.opc with
    | 1 => if g.rank = o.root then 0 else o.units
    | 2 => sumOver o.segLen (all.filter (· ≠ g.rank))
    | 3 => sumOver o.segLen (all.filter (· ≠ g.rank)) + sumOver o.segLen (all.filter (· ≠ g.succ g.rank))
    | 4 => if g.succ g.rank = o.root then 0 else o.units
    | 5 => sumOver o.segLen (all.filter (· ≠ g.succ g.rank))
    | _ => 0

/-- Units that the destination expects, by origin; none where an ALLTOALL length has not arrived. -/
def expects (o : GroupOp) : List (Nat × Option Nat) :=
  let g := o.grp
  let all := List.range g.size
  match o.opc with
  | 1 => if g.rank = o.root then [(o.root, some o.units)] else []
  | 2 => [(g.rank, some (o.segLen g.rank))]
  | 3 => all.map fun k => (k, some (o.segLen k))
  | 4 => if g.rank = o.root then [] else [(o.root, some o.units)]
  | 5 => all.map fun k => (k, some (o.segLen k))
  | 6 => all.map fun s => (s, (o.rlen s).map fun n => rangesLen (o.segIn s n))
  | _ => []

/-! Chunks and collective steps (R362): a chunk of a chain is passed on whole; between two chunks lies a step boundary. -/

/-- Units of a path from this member to a receiver, by origin. -/
def pathLen (o : GroupOp) (peer origin : Nat) : Nat := if o.opc = 6 then rangesLen (o.segOut peer) else o.segLen origin

/-- Units of units lo to hi - 1 of one path that this member has sent. -/
def unitsSent (o : GroupOp) (peer origin pass lo hi : Nat) : Nat :=
  (o.spans.filter fun e => e.peer = peer ∧ e.origin = origin ∧ e.pass = pass).foldl
    (fun n e => n + (min hi (e.first + e.n) - max lo e.first)) 0

/-- Chunk j of a path, of so many units a chunk, has been begun and not finished. -/
def chunkOpen (o : GroupOp) (chunk peer origin pass j : Nat) : Bool :=
  let hi := min ((j + 1) * chunk) (o.pathLen peer origin)
  let n := o.unitsSent peer origin pass (j * chunk) hi
  n != 0 && decide (n < hi - j * chunk)

/-- A collective step is in progress at this member. -/
def inStep (o : GroupOp) (chunk : Nat) : Bool :=
  o.spans.any fun e => (List.range ((e.first + e.n - 1) / chunk + 1 - e.first / chunk)).any fun i =>
    o.chunkOpen chunk e.peer e.origin e.pass (e.first / chunk + i)

/-- Which passage of its units an item makes: the second where they have gone to the same receiver before. -/
def passOf (o : GroupOp) (i : OutItem) : Nat :=
  if o.spans.any fun e => e.peer = i.peer ∧ e.origin = i.origin ∧ e.first = i.offset then 1 else 0

/-- An item would begin a new chunk. -/
def beginsChunk (o : GroupOp) (chunk : Nat) (i : OutItem) : Bool :=
  i.nunits != 0 && !o.chunkOpen chunk i.peer i.origin (o.passOf i) (i.offset / chunk)

def spanSum (l : List Span) (origin : Nat) : Nat := (l.filter fun e => e.1 = origin).foldl (fun n e => n + e.2.2) 0

/-- Every byte that the destination expects is written. -/
def allWritten (o : GroupOp) : Bool := o.expects.all fun e => match e.2 with
  | some n => decide (n ≤ spanSum o.written e.1)
  | none => false

/-- Every packet that this member owes to other members' destinations is sent. -/
def allSent (o : GroupOp) : Bool := o.outq.isEmpty && decide (o.owed ≤ o.sent)

/-- The whole of the data, and of its length, from one sender has arrived. -/
def gotFrom (o : GroupOp) (r : Nat) : Bool :=
  if o.opc = 6 then o.expects.all fun e => e.1 != r || (match e.2 with
    | some n => decide (n ≤ spanSum o.written r)
    | none => false)
  else o.allWritten && decide (o.owed ≤ o.sent + o.outq.foldl (fun n i => n + i.nunits) 0)

end GroupOp

/-! ### Values (R371 to R373) -/

/-- X_k as a scale; none for a NaN scale. -/
def GroupOp.scale (o : GroupOp) (blk : Nat) : Option Rat := e8m0 (o.scales.getD blk 0).toNat

/-- `hop_stream` of R371, and the stream of an encoding at the sender (R266). -/
def GroupOp.hopStream (o : GroupOp) (r : Nat) : BitVec 32 :=
  o.stream + o.key.seq + 0x9E3779B9 * BitVec.ofNat 32 (r + 1)
def GroupOp.ownStream (o : GroupOp) : BitVec 32 := o.stream + o.key.seq

/-- `sr_e4m3` (R79, R80). -/
def srE4m3 (x : FVal) (seed : BitVec 64) (stream : BitVec 32) (p : Nat) : Byte :=
  BitVec.ofNat 8 (roundFp e4m3 (.sr (srBits seed stream (BitVec.ofNat 32 p))) true x).1

/-- This member's own E4M3 contribution at element p, with its count (R72, R266). -/
def GroupOp.ownByte (o : GroupOp) (m : Memory) (p : Nat) : Byte × Nat :=
  match o.src with
  | none => (0, 0)
  | some d =>
    if o.count ≤ p then (0, 0)
    else if d.fmt = 4 then (m.read8 (d.pay + p), 0)
    else
      match decodeFp (if d.fmt = 1 then fp32 else bf16) (m.readLe (d.pay + p * fmtSize d.fmt) (fmtSize d.fmt)), o.scale (p / 32) with
      | .num n mag, some x =>
        if 448 < mag / x then (if n then 0xFE else 0x7E, 1)
        else (srE4m3 (.num n (mag / x)) o.seed o.ownStream p, 0)
      | _, _ => (0x7F, 1)

/-- `fix`: none for a NaN. -/
def fixE4m3 (e : Byte) : Option Int :=
  if e = 0x7F ∨ e = 0xFF then none
  else match decodeFp e4m3 e.toNat with
    | .num n mag => some (let v := (mag * 512).floor; if n then -v else v)
    | _ => none

/-- `encode_hop`: the byte and its count. -/
def GroupOp.encodeHop (o : GroupOp) (v : Option Int) (p : Nat) : Byte × Nat :=
  match v with
  | none => (0x7F, 1)
  | some v =>
    if 229376 < v.natAbs then (if v < 0 then 0xFE else 0x7E, 1)
    else (srE4m3 (.num (decide (v < 0)) ((v.natAbs : Rat) / 512)) o.seed (o.hopStream o.grp.rank) p, 0)

def addFix (a b : Option Int) : Option Int := match a, b with
  | some x, some y => some (x + y)
  | _, _ => none

/-- An FP32 pattern of an E4M3 value under a scale, by R71. -/
def GroupOp.fp32Of (o : GroupOp) (p : Nat) (v : Option Rat) (neg : Bool) : Nat :=
  match v, o.scale (p / 32) with
  | some x, some s => (roundMag fp32 .rne false neg (ratAbs x * s)).1
  | _, _ => 0x7FC00000

/-- An E4M3 byte decoded under the agreed scale. -/
def GroupOp.decodeAt (o : GroupOp) (p : Nat) (b : Byte) : Nat :=
  match decodeFp e4m3 b.toNat with
  | .num n mag => o.fp32Of p (some mag) n
  | _ => o.fp32Of p none false

/-- One hop of a chain over n units from unit `u` of the source: the bytes to send on, and the count added. -/
def GroupOp.hop (o : GroupOp) (m : Memory) (u n : Nat) (arrived : List Byte) : List Byte × Nat :=
  if o.dtype = 1 then
    let es := (arrived.take (32 * n)).zipIdx.map fun (b, i) =>
      let p := 32 * u + i
      if o.count ≤ p then ((0 : Byte), 0)
      else
        let (own, k) := o.ownByte m p
        let (r, k') := o.encodeHop (addFix (fixE4m3 b) (fixE4m3 own)) p
        (r, k + k')
    (es.map (·.1), es.foldl (fun n e => n + e.2) 0)
  else
    let es := (List.range n).map fun i =>
      let a := ofLe ((arrived.drop (16 * i)).take 16)
      let own := (o.src.map fun d => m.readLe (d.pay + 16 * (u + i)) 16).getD 0
      let (r, cs) := atomicAdd 3 a own
      (leBytes 16 r, min 1 cs.length)
    ((es.map (·.1)).flatten, es.foldl (fun n e => n + e.2) 0)

/-- This member's own contribution of n units from unit u, as it begins a chain. -/
def GroupOp.own (o : GroupOp) (m : Memory) (u n : Nat) : List Byte × Nat :=
  if o.dtype = 1 then
    let es := (List.range (32 * n)).map fun i => o.ownByte m (32 * u + i)
    (es.map (·.1), es.foldl (fun n e => n + e.2) 0)
  else ((o.src.map fun d => m.readBytes (d.pay + 16 * u) (16 * n)).getD [], 0)

/-- Writes n final units of a reduction, starting at unit u of the source's numbering; E4M3 and RAW128 bytes as they stand,
FP32 decoded from E4M3. -/
def GroupOp.storeUnits (o : GroupOp) (m : Memory) (u : Nat) (bs : List Byte) : Memory :=
  match o.dst with
  | none => m
  | some d =>
    let base := if o.opc = 2 then o.segLo o.grp.rank else 0
    if o.dtype = 2 then m.writeBytes (d.pay + 16 * (u - base)) bs
    else
      bs.zipIdx.foldl (fun (m : Memory) (b : Byte × Nat) =>
        let p := 32 * u + b.2
        if o.count ≤ p then m
        else
          let q := p - 32 * base
          if d.fmt = 1 then m.writeLe (d.pay + 4 * q) 4 (o.decodeAt p b.1) else m.write8 (d.pay + q) b.1) m

/-- Where the n bytes of units from u on lie in the destination of a reduction, as `storeUnits` writes them. -/
def GroupOp.unitRanges (o : GroupOp) (u n : Nat) : List (Nat × Nat) :=
  match o.dst with
  | none => []
  | some d =>
    let base := if o.opc = 2 then o.segLo o.grp.rank else 0
    if o.dtype = 2 then [(d.pay + 16 * (u - base), n)]
    else
      let sz := if d.fmt = 1 then 4 else 1
      [(d.pay + sz * (32 * (u - base)), sz * min n (o.count - 32 * u))]

/-- The contribution of a group of one member, converted by R372 (R363). -/
def GroupOp.alone (o : GroupOp) (m : Memory) (u n : Nat) : List Byte × Nat :=
  if o.dtype = 1 then
    let es := (List.range (32 * n)).map fun i =>
      let p := 32 * u + i
      if o.count ≤ p then ((0 : Byte), 0)
      else
        let (own, k) := o.ownByte m p
        let (r, k') := o.encodeHop (fixE4m3 own) p
        (r, k + k')
    (es.map (·.1), es.foldl (fun n e => n + e.2) 0)
  else o.own m u n

/-- The last addition of a chain, written into the destination (R372): the memory, the bytes that an allgather then carries,
and the count added. -/
def GroupOp.finish (o : GroupOp) (m : Memory) (u n : Nat) (arrived : Option (List Byte)) : Memory × List Byte × Nat :=
  let exact := o.dtype = 1 ∧ o.opc ≠ 3 ∧ (o.dst.map Desc.fmt) = some 1
  if exact then
    let base := if o.opc = 2 then o.segLo o.grp.rank else 0
    let at_ := (o.dst.map Desc.pay).getD 0
    let r := (List.range (32 * n)).foldl (fun (r : Memory × Nat) i =>
      let p := 32 * u + i
      if o.count ≤ p then r
      else
        let (own, k) := o.ownByte m p
        let v := match arrived with
          | some bs => addFix (fixE4m3 (bs.getD i 0)) (fixE4m3 own)
          | none => fixE4m3 own
        let w := match v with
          | some v => o.fp32Of p (some ((v : Rat) / 512)) (decide (v < 0))
          | none => o.fp32Of p none false
        (r.1.writeLe (at_ + 4 * (p - 32 * base)) 4 w, r.2 + k + (if v.isNone then 1 else 0))) (m, 0)
    (r.1, [], r.2)
  else
    let (bs, k) := match arrived with
      | some bs => o.hop m u n bs
      | none => o.alone m u n
    (o.storeUnits m u bs, bs, k)

/-! ### Operations in the state -/

def State.mapColl (s : State) (f : Coll → Coll) : State := s.mapCtl fun c => { c with coll := f c.coll }
def Coll.op? (x : Coll) (k : OpKey) : Option GroupOp := x.ops.find? fun o => o.key = k
def Coll.past? (x : Coll) (k : OpKey) : Option PastOp := x.past.find? fun o => o.key = k
def State.op? (s : State) (k : OpKey) : Option GroupOp := s.ctl.coll.op? k
def State.updOp (s : State) (k : OpKey) (f : GroupOp → GroupOp) : State :=
  s.mapColl fun x => { x with ops := x.ops.map fun o => if o.key = k then f o else o }

/-- The key that a packet names. -/
def keyOf (k : CollPkt) : OpKey := ⟨k.hdr.group, k.job, k.hdr.seq⟩

/-! ### Sending (R364 to R367) -/

/-- PTYPE of a body (R365). -/
def ptypeOf : CollBody → BitVec 8
  | .open .. => 1
  | .data .. => 2
  | .ready => 3
  | .commit => 4
  | .finish .. => 5
  | .report .. => 6
  | .retry => 7
  | .probe => 8
  | .probeReply .. => 9
  | .length .. => 10

/-- A packet to a rank of a group. -/
def Ctl.packetTo (c : Ctl) (g : Group) (key : OpKey) (dtype attempt : Nat) (dhash : BitVec 32) (peer : Nat) (blame reason : Nat)
    (body : CollBody) : CollPkt :=
  { dst := c.devOf g peer, job := key.job, vc := 0, dir := 0, xpd := false, uturn := false, hops := 0
    hdr := { ptype := ptypeOf body, dtype := BitVec.ofNat 4 dtype, attempt := BitVec.ofNat 4 attempt, group := key.group
             seq := key.seq, dhash := dhash, srcRank := BitVec.ofNat 16 g.rank, origin := 0, pidx := 0, offset := 0, nunits := 0
             wflags := BitVec.ofNat 8 (reason % 16), blame := BitVec.ofNat 16 blame, satcnt := 0 }
    body := body }

/-- Sends a control packet of an operation. -/
def State.sendCtl (s : State) (o : GroupOp) (peer blame reason : Nat) (body : CollBody) : State :=
  s.route (s.ctl.packetTo o.grp o.key o.dtype o.attempt o.dhash peer blame reason body) none

/-- Units of a chunk of an operation. -/
def Ctl.chunkUnits (c : Ctl) (o : GroupOp) : Nat := max 1 (c.chunkBytes o.grp / o.unitBytes)

/-- Writes bytes from an offset of device ranges on. -/
def State.putRanges (s : State) (rs : List (Nat × Nat)) (off : Nat) (bs : List Byte) : State :=
  s.store (writeRanges s.mem rs off bs) (subRanges rs off bs.length)

/-- Sends an item to a receiver whose OPEN has arrived. -/
def State.sendItem (s : State) (key : OpKey) (i : OutItem) : State :=
  match s.op? key with
  | none => s
  | some o =>
    let pidx := KMap.get 0 o.pidxOut i.peer
    let k := s.ctl.packetTo o.grp key o.dtype o.attempt o.dhash i.peer i.blame i.reason i.body
    let k := match i.body with
      | .data _ => { k with hdr := { k.hdr with origin := BitVec.ofNat 16 i.origin, pidx := BitVec.ofNat 32 pidx
                                                offset := BitVec.ofNat 40 i.offset, nunits := BitVec.ofNat 16 i.nunits
                                                satcnt := BitVec.ofNat 16 (min 0xFFFF i.satcnt) } }
      | _ => k
    let o' := match i.body with
      | .data _ => { o with pidxOut := KMap.set 0 o.pidxOut i.peer (pidx + 1), sent := o.sent + i.nunits,
                            spans := ⟨i.peer, i.origin, o.passOf i, i.offset, i.nunits⟩ :: o.spans }
      | _ => o
    (s.updOp key fun _ => o').route k none

/-- An item may be sent now: its receiver's OPEN has arrived (R367), and a member that the host pre-empts begins no further chunk
(R384). -/
def State.maySend (s : State) (o : GroupOp) (i : OutItem) : Bool :=
  o.opens.contains i.peer && !(o.leaving.isSome && o.beginsChunk (s.ctl.chunkUnits o) i)

/-- Sends items, or keeps those that may not be sent yet. -/
def State.emit (s : State) (key : OpKey) (items : List OutItem) : State :=
  items.foldl (fun (s : State) i =>
    match s.op? key with
    | none => s
    | some o =>
      if s.maySend o i then s.sendItem key i
      else s.updOp key fun o => { o with outq := o.outq ++ [i] }) s

/-- The pieces (offset, units) of n units, at most a packet each. -/
def pieces (per n : Nat) : List (Nat × Nat) :=
  (List.range ((n + per - 1) / per)).map fun i => (i * per, min per (n - i * per))

/-- The chunks (first unit, units) of a path of n units. -/
def chunksOf (chunk n : Nat) : List (Nat × Nat) := pieces chunk n
/-- The packets of a path: the pieces of its chunks. -/
def packetsOf (chunk per n : Nat) : List (Nat × Nat) :=
  (chunksOf chunk n).flatMap fun c => (pieces per c.2).map fun p => (c.1 + p.1, p.2)

/-- REASON 0x5 PATH. -/
def rsPATH : Nat := 5

/-- Units written into the destination: the span and their count. -/
def GroupOp.wrote (o : GroupOp) (origin first n sat : Nat) : GroupOp :=
  { o with written := (origin, first, n) :: o.written, nsat := o.nsat + sat }

/-- Counts at the station that serves an operation. -/
def State.countSats (s : State) (o : GroupOp) (n : Nat) : State :=
  match o.station with
  | some p => s.mapCtl fun c => c.bump (Addr.collBstat p.val) 16 32 n
  | none => s

/-- A member's own part, from its source: what it writes itself and what it owes (R361). Data of R265 that nobody else sends. -/
def State.produce (s : State) (key : OpKey) : State :=
  match s.op? key with
  | none => s
  | some o =>
    let g := o.grp
    let r := g.rank
    let peer := g.succ r
    let chunk := s.ctl.chunkUnits o
    let item (origin off n sat : Nat) (b : CollBody) (peer : Nat) : OutItem := ⟨peer, origin, off, n, sat, r, rsPATH, b⟩
    -- a chain of segment k that starts here: sent on, or with one member written at once
    let chain (s : State) (k : Nat) : State :=
      (packetsOf chunk o.perPacket (o.segLen k)).foldl (fun (s : State) p =>
        let u := o.segLo k + p.1
        if g.size ≤ 1 then
          let (m, _, sat) := o.finish s.mem u p.2 none
          ((s.store m (o.unitRanges u (32 * p.2))).updOp key fun o => o.wrote k p.1 p.2 sat).countSats o sat
        else
          let (bs, sat) := o.own s.mem u p.2
          ((s.updOp key fun o => { o with passed := (k, p.1, p.2) :: o.passed }).countSats o sat).emit key [item k p.1 p.2 sat (.data bs) peer]) s
    let move (s : State) (rs : List (Nat × Nat)) (peer : List Nat) : State :=
      s.emit key ((packetsOf chunk o.perPacket (rangesLen rs)).flatMap fun p =>
        peer.map fun t => item r p.1 p.2 0 (.data (readRanges s.mem rs p.1 p.2)) t)
    match o.opc with
    | 1 => if g.pred r = o.root then chain s o.root else s
    | 2 => chain s (g.pred r)
    | 3 => chain s (g.pred r)
    | 4 => if r = o.root ∧ 1 < g.size then move s (o.whole o.src 0) [peer] else s
    | 5 =>
      let rs := o.whole o.src 0
      let n := rangesLen rs
      let s := s.putRanges (o.whole o.dst r) 0 (readRanges s.mem rs 0 n)
      let s := s.updOp key fun o => o.wrote r 0 n 0
      if g.size ≤ 1 then s else move s rs [peer]
    | 6 =>
      let n := o.sends r
      let bs := readRanges s.mem (o.segOut r) 0 (rangesLen (o.segOut r))
      let s := (s.putRanges (o.segIn r o.cap) 0 (List.replicate (rangesLen (o.segIn r o.cap)) 0)).putRanges (o.segIn r n) 0 bs
      let s := s.store (s.mem.writeLe (o.lensAt + 4 * g.size + 4 * r) 4 n) [(o.lensAt + 4 * g.size + 4 * r, 4)]
      let s := s.updOp key fun o => { o.wrote r 0 bs.length 0 with
        rlens := (r, n, o.drops r) :: o.rlens, ndrop := o.ndrop + o.drops r }
      g.others.foldl (fun (s : State) d =>
        let s := s.emit key [item r 0 0 0 (.length (BitVec.ofNat 32 (o.sends d)) (BitVec.ofNat 32 (o.drops d))) d]
        s.emit key ((packetsOf chunk o.perPacket (rangesLen (o.segOut d))).map fun p =>
          item r p.1 p.2 0 (.data (readRanges s.mem (o.segOut d) p.1 p.2)) d)) s
    | _ => s

/-! ### Waits (R388, R389) -/

/-- Charges a wait of some nanoseconds; at most 16 ranks are kept. -/
def GroupOp.charge (o : GroupOp) (blame reason ns : Nat) : GroupOp :=
  if ns = 0 then o
  else
    let ranks := (o.charged.map (·.1)).eraseDups
    let o := { o with waitNs := o.waitNs + ns, lastWait := some (blame, reason) }
    if o.charged.any fun e => e.1 = blame ∧ e.2.1 = reason then
      { o with charged := o.charged.map fun e => if e.1 = blame ∧ e.2.1 = reason then (e.1, e.2.1, e.2.2 + ns) else e }
    else if ranks.contains blame || decide (ranks.length < 16) then
      { o with charged := o.charged ++ [(blame, reason, ns)] }
    else o

/-- The total charged to a rank, the rank with the largest, and its main reason. -/
def GroupOp.chargedTo (o : GroupOp) (r : Nat) : Nat :=
  (o.charged.filter fun e => e.1 = r).foldl (fun n e => n + e.2.2) 0
def GroupOp.mostBlamed (o : GroupOp) : Option Nat :=
  o.charged.foldl (fun (b : Option Nat) e => match b with
    | none => some e.1
    | some r =>
      if o.chargedTo r < o.chargedTo e.1 ∨ (o.chargedTo r = o.chargedTo e.1 ∧ e.1 < r) then some e.1 else b) none
def GroupOp.mainReason (o : GroupOp) (r : Nat) : Nat :=
  ((o.charged.filter fun e => e.1 = r).foldl (fun (b : Nat × Nat) e => if b.2 < e.2.2 then (e.2.1, e.2.2) else b) (0, 0)).1

/-- The wait ledger record (R389). -/
def GroupOp.ledgerRecord (o : GroupOp) (num : Nat) (st : Status) (openNs : Nat) : List Byte :=
  let b := o.mostBlamed
  leBytes 8 num ++ leBytes 2 o.key.job.toNat ++ leBytes 2 o.key.group.toNat ++ leBytes 4 o.seqNo ++
  leBytes 6 o.cmd.seq.toNat ++ leBytes 2 o.cmd.queue.toNat ++ leBytes 2 st.toNat ++ leBytes 2 o.phase.toNat ++
  leBytes 2 o.grp.rank ++ [BitVec.ofNat 8 (1 + o.retries), BitVec.ofNat 8 ((b.map o.mainReason).getD 0)] ++
  leBytes 4 (b.getD 0xFFFFFFFF) ++ leBytes 4 0 ++ leBytes 8 openNs ++ leBytes 8 o.waitNs ++
  leBytes 8 ((b.map o.chargedTo).getD 0)

/-- The completion record (R269). -/
def GroupOp.record (o : GroupOp) (st : Status) (rank : BitVec 32) : List Byte :=
  leBytes 2 st.toNat ++ leBytes 2 0 ++ leBytes 4 o.seqNo ++ leBytes 4 rank.toNat ++ leBytes 4 (min (2 ^ 32 - 1) o.nsat) ++
  leBytes 8 o.ndrop ++ leBytes 4 o.retries ++ leBytes 4 o.dhash.toNat

/-- Writes the wait ledger record of an operation. -/
def State.writeLedger (s : State) (o : GroupOp) (st : Status) : State :=
  match s.ctl.collJob o.key.job.toNat with
  | none => s
  | some j =>
    let base := s.ctl.fld (Addr.collJobHi j) 0 48
    if base = 0 then s
    else
      let n := KMap.get 0 s.ctl.coll.ledgerN j
      let at_ := base + 64 * (n % 2 ^ s.ctl.fld (Addr.collJobHi j) 48 5)
      (s.store (s.mem.writeBytes at_ (o.ledgerRecord n st ((s.ctl.dev.uptime - o.openAt) * 1000))) [(at_, 64)]).mapColl
        fun x => { x with ledgerN := addAt x.ledgerN j 1 }

/-! ### Ending (R268, R378, R386) -/

def noRank : BitVec 32 := 0xFFFFFFFF

def Coll.next (x : Coll) (g : Group) : BitVec 32 := KMap.get 0 x.nextSeq g.qkey

/-- An operation lies below its group's window: it has committed or ended here (R360). -/
def Ctl.opPassed (c : Ctl) (key : OpKey) : Bool :=
  match c.group key.job.toNat key.group with
  | some g => decide (2 ^ 31 ≤ (key.seq - c.coll.next g).toNat)
  | none => false

/-- An operation commits or ends at this member: its records are written, CINC is added to the counter word, be the core that issued it
lost or not (R268, R385), and its group's queue advances. -/
def State.endOp (s : State) (o : GroupOp) (st : Status) (rank : BitVec 32) : State :=
  let s := s.writeLedger o st
  let r := o.record st rank
  let s := s.store (s.mem.writeBytes o.doneAt r) [(o.doneAt, r.length)]
  { s with mem := addCounter s.mem o.counter o.cinc }.mapColl fun x =>
    { x with ops := x.ops.filter fun p => p.key ≠ o.key
             past := ⟨o.key, o.attempt, o.cmd, o.logical, st, rank, o.dtype, o.dhash, o.doneAt, r, o.core, o.core.isSome⟩ :: x.past
             nextSeq := KMap.set 0 x.nextSeq o.grp.qkey (o.key.seq + 1) }

/-- Ends in order: the operation whose turn it is, then those decided after it. -/
def State.endReady (s : State) (g : Group) : Nat → State
  | 0 => s
  | n + 1 =>
    match s.ctl.coll.ops.find? fun o => o.grp.qkey = g.qkey ∧ o.key.seq = s.ctl.coll.next g ∧ o.decided.isSome with
    | some o => match o.decided with
      | some d => State.endReady (s.endOp o d.1 d.2) g n
      | none => s
    | none => s

/-- A decision reaches an open operation; it ends here once every earlier one has. -/
def State.decideHere (s : State) (key : OpKey) (st : Status) (rank : BitVec 32) : State :=
  match s.op? key with
  | none => s
  | some o =>
    if o.decided.isSome then s
    else (s.updOp key fun o => { o with decided := some (st, rank), outq := [] }).endReady o.grp 4

/-- Rank 0 ends an operation: END to its children, and its own end. -/
def State.sendEnd (s : State) (o : GroupOp) (st : Status) (rank : BitVec 32) : State :=
  let s := o.grp.children.foldl (fun (s : State) r => s.sendCtl o r o.grp.rank rsPATH (.finish st rank)) s
  s.decideHere o.key st rank

/-! ### Opening (R367 to R369) -/

/-- BLAME and REASON of an OPEN: 2 where a core clock was lowered. -/
def openReason (slowed : Bool) : Nat := if slowed then 2 else 1
/-- A command of the journal, and a change of it. -/
def State.cmd? (s : State) (k : CmdKey) : Option Cmd := s.ctl.jnl.cmds.find? fun m => m.key = k
def State.mapJnl (s : State) (f : Journal → Journal) : State := s.mapCtl fun c => { c with jnl := f c.jnl }
def State.updCmd (s : State) (k : CmdKey) (f : Cmd → Cmd) : State :=
  s.mapJnl fun j => { j with cmds := j.cmds.map fun m => if m.key = k then f m else m }

/-- The governor has lowered a core clock of a command's since it started or last opened an operation (R388). -/
def State.cmdSlowed (s : State) (k : CmdKey) : Bool := (s.ctl.jnl.cmds.find? fun m => m.key = k).any (·.slowed)
def State.clearSlowed (s : State) (k : CmdKey) : State := s.updCmd k fun m => { m with slowed := false }

/-- Sends OPEN to every member that will send data. -/
def State.sendOpens (s : State) (o : GroupOp) (reason : Nat) : State :=
  o.dataFrom.foldl (fun (s : State) r => s.sendCtl o r o.grp.rank reason (.open o.grp.crc)) s

/-- A packet's DHASH, DTYPE and LIST_CRC agree with the operation. -/
def GroupOp.agrees (o : GroupOp) (k : CollPkt) : Bool :=
  k.hdr.dhash == o.dhash && k.hdr.dtype.toNat == o.dtype && (match k.body with
    | .open crc => crc == o.grp.crc
    | _ => true)

/-- A member repeats its part under a new attempt (R381): context, maps and counts are discarded. -/
def GroupOp.again (o : GroupOp) (attempt : Nat) : GroupOp :=
  { o with attempt := attempt, retries := o.retries + 1, opens := [], outq := [], pidxOut := [], pidxIn := [], sent := 0, spans := [],
           told := false, passed := [], written := [], rlens := [], ready := [], readySent := false, nsat := 0, ndrop := 0, probed := [] }

/-- The destination covers the source and a byte of it has been written (R382). -/
def GroupOp.cannotRepeat (o : GroupOp) : Bool := match o.src, o.dst with
  | some a, some b => anyOverlap a.ranges b.ranges && !o.written.isEmpty
  | _, _ => false

/-- Report kinds of R365. -/
def kMISMATCH : BitVec 8 := 1
def kSTALL : BitVec 8 := 2
def kPREEMPT : BitVec 8 := 3
def kLEFT : BitVec 8 := 5

def rank32 (r : Nat) : BitVec 32 := BitVec.ofNat 32 r

/-- A member reports to another rank 0. -/
def State.reportAway (s : State) (o : GroupOp) (kind : BitVec 8) (rank : Nat) : State :=
  (s.updOp o.key fun o => { o with probed := if o.probed.contains 0 then o.probed else 0 :: o.probed }).sendCtl o 0
    o.grp.rank rsPATH (.report kind (rank32 rank))

/-- Rank 0's answer to a report that leads to an END at once. -/
def State.endOnReport (s : State) (o : GroupOp) (kind : BitVec 8) (rank : Nat) : State :=
  if kind = kMISMATCH then s.sendEnd o stABORTED_MISMATCH (rank32 rank)
  else if kind = kPREEMPT then s.sendEnd o stPREEMPTED noRank
  else if kind = kSTALL ∨ kind = kLEFT then s.sendEnd o stABORTED_STALL (rank32 rank)
  else s

/-- A report that can lead to an END alone: rank 0 ends the operation, another member tells rank 0. -/
def State.tell (s : State) (o : GroupOp) (kind : BitVec 8) (rank : Nat) : State :=
  let s := s.updOp o.key fun o => { o with told := true }
  if o.grp.rank = 0 then s.endOnReport o kind rank else s.reportAway o kind rank

/-- A member that leaves an operation says so; one that the host pre-empts does once no collective step is in progress (R382,
R384). -/
def State.stepDone (s : State) (key : OpKey) : State :=
  match s.op? key with
  | none => s
  | some o => match o.leaving with
    | none => s
    | some kind =>
      if o.told || o.decided.isSome || (kind == kPREEMPT && o.inStep (s.ctl.chunkUnits o)) then s else s.tell o kind o.grp.rank

/-- Compares an OPEN of the current attempt: on agreement its sender may receive data (R367), otherwise the member reports the
mismatch (R369). -/
def State.takeOpen (s : State) (key : OpKey) (k : CollPkt) (waitNs : Nat) : State :=
  match s.op? key with
  | none => s
  | some o =>
    let src := k.hdr.srcRank.toNat
    if o.agrees k = false then s.tell o kMISMATCH src
    else if o.opens.contains src ∨ o.dataTo.contains src = false then s
    else
      let blame := k.hdr.blame.toNat
      let reason := k.hdr.wflags.toNat % 16
      let mine := o.outq.filter fun i => i.peer = src
      let s := s.updOp key fun o =>
        { (o.charge blame reason waitNs) with opens := src :: o.opens, outq := o.outq.filter fun i => i.peer ≠ src }
      s.emit key (if waitNs = 0 then mine else mine.map fun i => { i with blame := blame, reason := reason })

/-- OPENs held for an operation are compared as it opens, or opens again; one of a later attempt goes on waiting for it. -/
def State.takeHeld (s : State) (key : OpKey) : State :=
  match s.op? key with
  | none => s
  | some o =>
    let mine := s.ctl.coll.held.filter fun k => keyOf k = key ∧ o.attempt ≤ k.hdr.attempt.toNat
    let s := s.mapColl fun x => { x with held := x.held.filter fun k => ¬ (keyOf k = key ∧ k.hdr.attempt.toNat ≤ o.attempt) }
    mine.foldl (fun (s : State) k =>
      if k.hdr.attempt.toNat = o.attempt then s.takeOpen key k 0
      else if o.agrees k = false then s.tell o kMISMATCH k.hdr.srcRank.toNat
      else s) s

/-- An operation that has just opened, or opens again: OPENs go out, held ones are compared, and the member's own part is
produced. -/
def State.beginOp (s : State) (key : OpKey) (reason : Nat) : State :=
  match s.op? key with
  | none => s
  | some o => ((s.sendOpens o reason).takeHeld key).produce key

/-- What is known of an operation that is not open here. -/
def Coll.early? (x : Coll) (key : OpKey) : EarlyOp := (x.early.find? fun e => e.key = key).getD ⟨key, 0, none⟩
def Coll.setEarly (x : Coll) (e : EarlyOp) : Coll := { x with early := e :: x.early.filter fun y => y.key ≠ e.key }

/-- An operation opens (R367): at the attempt that rank 0 has raised it to; one that is decided ends with that decision. -/
def State.openOp (s : State) (o : GroupOp) (reason : Nat) : State :=
  let e := s.ctl.coll.early? o.key
  let s := s.mapColl fun x => { x with ops := x.ops ++ [{ o with attempt := e.attempt, retries := e.attempt }]
                                       early := x.early.filter fun y => y.key ≠ o.key }
  match e.decided with
  | some d => s.decideHere o.key d.1 d.2
  | none => s.beginOp o.key reason

/-- RETRY at this member: the new attempt, or a report that it cannot repeat, or is leaving (R381, R382). -/
def State.retryHere (s : State) (key : OpKey) (attempt : Nat) : State :=
  match s.op? key with
  | none => s
  | some o =>
    let left := if o.cannotRepeat then some kLEFT else o.leaving
    let s := s.updOp key fun o => { (o.again attempt) with leaving := left }
    if left.isSome then s.stepDone key
    else
      let r := openReason (s.cmdSlowed o.cmd)
      (s.clearSlowed o.cmd).beginOp key r

/-- Rank 0 takes a report of an open operation (R369, R381, R382, R384). -/
def State.takeReport (s : State) (o : GroupOp) (kind : BitVec 8) (rank : Nat) : State :=
  if o.decided.isSome then s
  else if kind = kSTALL ∧ o.retries < s.ctl.fld Addr.collCfg 14 3 then
    let n := o.attempt + 1
    let s := o.grp.children.foldl (fun (s : State) r =>
      s.sendCtl { o with attempt := n } r rank rsPATH .retry) s
    s.retryHere o.key n
  else s.endOnReport o kind rank

/-- A member reports an open operation: rank 0 acts at once, another member sends REPORT. -/
def State.report (s : State) (key : OpKey) (kind : BitVec 8) (rank : Nat) : State :=
  match s.op? key with
  | none => s
  | some o => if o.grp.rank = 0 then s.takeReport o kind rank else s.reportAway o kind rank

/-- A member leaves an operation for a reason: the end of its command is reported whatever was reported before (R382, R459), a
pre-emption where nothing was. -/
def GroupOp.leave (o : GroupOp) (kind : BitVec 8) : GroupOp :=
  if o.leaving = some kLEFT ∨ (kind = kPREEMPT ∧ o.leaving.isSome) then o
  else { o with leaving := some kind, told := o.told && kind == kPREEMPT }

/-- Every open operation of a command is left (R382) or pre-empted (R384). -/
def State.leaveOps (s : State) (k : CmdKey) (kind : BitVec 8) : State :=
  ((s.ctl.coll.ops.filter fun o => o.cmd = k ∧ o.decided.isNone).map (·.key)).foldl
    (fun (s : State) key => (s.updOp key fun o => o.leave kind).stepDone key) s

/-- An open operation of a command has a collective step in progress at this member (R362, R384). -/
def State.cmdInStep (s : State) (k : CmdKey) : Bool :=
  s.ctl.coll.ops.any fun o => o.cmd == k && o.decided.isNone && !o.told && o.inStep (s.ctl.chunkUnits o)

/-- A lost core leaves its operations to the ports and stations (R385). -/
def Coll.forget (x : Coll) (c : CoreId) : Coll :=
  { x with ops := x.ops.map (fun o => if o.core = some c then { o with core := none } else o)
           past := x.past.map fun o => if o.core = some c then { o with core := none, waiting := false } else o }

/-! ### READY and COMMIT (R378) -/

/-- The conditions for READY. -/
def State.readyNow (s : State) (o : GroupOp) : Bool :=
  o.decided.isNone && o.allWritten && o.allSent && o.grp.children.all (fun r => o.ready.contains r) &&
  o.key.seq == s.ctl.coll.next o.grp

/-- BLAME and REASON of a packet sent now: those of the wait that ended last, or this member and PATH. -/
def GroupOp.blameNow (o : GroupOp) : Nat × Nat := o.lastWait.getD (o.grp.rank, rsPATH)

/-- COMMIT goes to the children and the operation commits here. -/
def State.commitOp (s : State) (o : GroupOp) (blame : Nat × Nat) : State :=
  let s := o.grp.children.foldl (fun (s : State) r => s.sendCtl o r blame.1 blame.2 .commit) s
  s.decideHere o.key stOK noRank

/-! ### Data that arrives (R366, R371, R372) -/

/-- Whether a PIDX is new: 0 new, 1 a second copy, 2 beyond the map. -/
def PidxMap.look (m : PidxMap) (p : Nat) : Nat :=
  if p < m.low ∨ m.set.contains p then 1 else if m.low + 4096 < p then 2 else 0

/-- Advances the lowest PIDX not received. -/
def PidxMap.settle : Nat → PidxMap → PidxMap
  | 0, m => m
  | n + 1, m => if m.set.contains m.low then settle n ⟨m.low + 1, m.set.filter (· ≠ m.low)⟩ else m
def PidxMap.mark (m : PidxMap) (p : Nat) : PidxMap := PidxMap.settle (m.set.length + 1) { m with set := p :: m.set }

def GroupOp.pidxFrom (o : GroupOp) (r : Nat) : PidxMap := ((o.pidxIn.find? fun e => e.1 = r).map (·.2)).getD ⟨0, []⟩
def GroupOp.markPidx (o : GroupOp) (r p : Nat) : GroupOp :=
  { o with pidxIn := (r, (o.pidxFrom r).mark p) :: o.pidxIn.filter fun e => e.1 ≠ r }

/-- A span of an origin has been passed on or ended here. -/
def GroupOp.hasPassed (o : GroupOp) (origin first : Nat) : Bool :=
  o.passed.any fun e => e.1 == origin && decide (e.2.1 ≤ first) && decide (first < e.2.1 + e.2.2)

/-- What a DATA packet leads to: adding and passing on, ending a chain, or writing and forwarding. -/
def State.takeData (s : State) (o : GroupOp) (h : CollHdr) (bs : List Byte) (blame : Nat × Nat) : State :=
  let g := o.grp
  let r := g.rank
  let k := h.origin.toNat
  let off := h.offset.toNat
  let n := h.nunits.toNat
  let sat := h.satcnt.toNat
  let pass (s : State) (sat : Nat) (bs : List Byte) : State :=
    s.emit o.key [⟨g.succ r, k, off, n, sat, blame.1, blame.2, .data bs⟩]
  let note (s : State) : State := s.updOp o.key fun o => { o with passed := (k, off, n) :: o.passed }
  let u := o.segLo k + off
  let add (s : State) : State :=
    let (out, c) := o.hop s.mem u n bs
    ((note s).countSats o c).emit o.key [⟨g.succ r, k, off, n, sat + c, blame.1, blame.2, .data out⟩]
  let last (s : State) : State × List Byte × Nat :=
    let (m, out, c) := o.finish s.mem u n (some bs)
    let s := (s.store m (o.unitRanges u (32 * n))).updOp o.key fun o => o.wrote k off n (sat + c)
    ((note s).countSats o c, out, sat + c)
  match o.opc with
  | 1 => if r = o.root then (last s).1 else add s
  | 2 => if r = k then (last s).1 else add s
  | 3 =>
    if r = k then
      let (s, out, c) := last s
      if 1 < g.size then pass s c out else s
    else if o.hasPassed k off || r == g.succ k then
      let s := (s.store (o.storeUnits s.mem u bs) (o.unitRanges u bs.length)).updOp o.key fun o => o.wrote k off n sat
      if g.succ r = k then s else pass s sat bs
    else add s
  | 4 =>
    let s := (s.putRanges (o.whole o.dst 0) off bs).updOp o.key fun o => o.wrote k off n 0
    if g.succ r = o.root then s else pass s 0 bs
  | 5 =>
    let s := (s.putRanges (o.whole o.dst k) off bs).updOp o.key fun o => o.wrote k off n 0
    if g.succ r = k then s else pass s 0 bs
  | 6 =>
    (s.putRanges (o.segIn k ((o.rlen k).getD o.cap)) off bs).updOp o.key fun o => o.wrote k off n 0
  | _ => s

/-- A DATA packet fits its operation: an origin of the group, a span of its segment and as many bytes as it counts. -/
def GroupOp.dataFits (o : GroupOp) (h : CollHdr) (bs : List Byte) : Bool :=
  let k := h.origin.toNat
  let len := if o.opc = 6 then rangesLen (o.segIn k ((o.rlen k).getD o.cap)) else o.segLen k
  decide (k < o.grp.size) && decide (h.offset.toNat + h.nunits.toNat ≤ len) && h.nunits != 0 &&
  decide (h.nunits.toNat ≤ o.perPacket) && bs.length == h.nunits.toNat * o.unitBytes && o.dataFrom.contains h.srcRank.toNat

end Sys2Proof.Machine
end

