-- ==== Sys2Proof/Machine/Images.lean ====
section
/-! DEFINITION. Program images (07 R204 to R206, 15 R409) and probe set bundles (18 R477) as they are read from bytes. -/
namespace Sys2Proof.Machine

/-! ### Program images -/

/-- A section entry: SFLAGS must be zero. -/
def sectionAt (b : List Byte) (i : Nat) : Section :=
  let o := 0x40 + 32 * i
  ⟨BitVec.ofNat 32 (leField b o 4), leField b (o + 8) 8, leField b (o + 16) 8, leField b (o + 24) 8⟩

def nsect (b : List Byte) : Nat := leField b 6 2
def sectionsOf (b : List Byte) : List Section := (List.range (nsect b)).map (sectionAt b)

/-- Capacity entries of the CAPACITY section (R409), from the image's bytes. -/
def capsOf (b : List Byte) : List (BitVec 16 × BitVec 16 × BitVec 32) :=
  match (sectionsOf b).find? fun x => x.stype = 5 with
  | none => []
  | some x => (List.range (x.ssize / 8)).map fun k =>
      let o := x.soff + 8 * k
      (BitVec.ofNat 16 (leField b o 2), BitVec.ofNat 16 (leField b (o + 2) 2), BitVec.ofNat 32 (leField b (o + 4) 4))

/-- The sections that are loaded. -/
def loaded (ss : List Section) : List Section := ss.filter fun x => x.stype ≠ 5

/-- No two loaded sections overlap, and each lies within LEDGE_NEED. -/
def sectionsFit (ss : List Section) (need : Nat) : Bool :=
  let l := loaded ss
  l.all (fun x => decide (x.sload + x.ssize ≤ need)) &&
  (List.range l.length).all fun i => (List.range i).all fun j =>
    match l[i]?, l[j]? with
    | some x, some y => decide (x.sload + x.ssize ≤ y.sload) || decide (y.sload + y.ssize ≤ x.sload) ||
        x.ssize == 0 || y.ssize == 0
    | _, _ => true

/-- The sections' own rules: known types, bytes within the image, ZERO with SOFFSET 0, CAPACITY with SLOAD 0. -/
def sectionOk (len : Nat) (x : Section) : Bool :=
  (x.stype == 1 || x.stype == 2 || x.stype == 3 || x.stype == 4 || x.stype == 5) &&
  (if x.stype == 4 then x.soff == 0 else decide (x.soff + x.ssize ≤ len)) && (x.stype != 5 || x.sload == 0)

/-- An image of `len` bytes is well formed (R204, R205, R409). -/
def imageOk (b : List Byte) (len : Nat) : Bool :=
  let ss := sectionsOf b
  let texts := ss.filter fun x => x.stype = 1
  let caps := capsOf b
  let entry := leField b 0x18 4
  let trap := leField b 0x1C 4
  let inText (a : Nat) : Bool := texts.any fun x => decide (x.sload ≤ a) && decide (a < x.sload + x.ssize) && a % 8 == 0
  decide (64 ≤ len) && leField b 0 4 == 0x4759424C && decide (1 ≤ nsect b) && decide (nsect b ≤ 16) &&
  decide (0x40 + 32 * nsect b ≤ len) && leField b 0x28 24 == 0 &&
  (List.range (nsect b)).all (fun i => leField b (0x44 + 32 * i) 4 == 0) &&
  ss.all (sectionOk len) && texts.length == 1 && texts.all (fun x => x.sload % 8 == 0 && x.ssize % 8 == 0) &&
  decide (leField b 0x24 4 ≤ 3145728) && sectionsFit ss (leField b 0x24 4) &&
  inText entry && (trap == 0 || inText trap) &&
  decide (0x8000 ≤ leField b 0x20 2) && decide (1 ≤ leField b 0x22 2) && decide (leField b 0x22 2 ≤ 384) &&
  decide ((ss.filter fun x => x.stype = 5).length ≤ 1) &&
  ss.all (fun x => x.stype != 5 || (x.ssize % 8 == 0 && decide (x.ssize ≤ 256))) &&
  caps.all (fun e => e.1 != 0 && e.2.1 == 0) && (caps.map (·.1)).eraseDups.length == caps.length

/-- The image as the S4 holds it. -/
def imageOf (b : List Byte) (addr len : Nat) (job : BitVec 16) : Image :=
  { id := BitVec.ofNat 64 (leField b 0x10 8), addr := addr, len := len, job := job, entry := leField b 0x18 4
    trapEntry := leField b 0x1C 4, trapStatus := BitVec.ofNat 16 (leField b 0x20 2), ncores := leField b 0x22 2
    ledgeNeed := leField b 0x24 4, sections := sectionsOf b, caps := (capsOf b).map fun e => (e.1, e.2.2) }

/-- ISA_LEVEL and FEATURES of an image (R206). -/
def imageLevel (b : List Byte) : Nat := leField b 4 2
def imageFeatures (b : List Byte) : Word := BitVec.ofNat 64 (leField b 8 8)

/-! ### Probe set bundles (R477) -/

def psNprog (b : List Byte) : Nat := leField b 6 2
def psLen (b : List Byte) : Nat := leField b 0x14 4

/-- Where the entry of a program lies. -/
def psProgAt (b : List Byte) (i : Nat) : Nat := 0x40 + 4 * psNpoint b + 32 * i

/-- The image bytes of a program. -/
def psImage (b : List Byte) (i : Nat) : List Byte := (b.drop (leField b (psProgAt b i) 8)).take (leField b (psProgAt b i + 8) 4)
def psNsig (b : List Byte) (i : Nat) : Nat := leField b (psProgAt b i + 16) 1
/-- The program is expected to escalate its injected fault. -/
def psExpect (b : List Byte) (i : Nat) : Bool := leField b (psProgAt b i + 17) 1 == 1
def psGolden (b : List Byte) (i : Nat) : Nat := leField b (psProgAt b i + 20) 8
/-- Golden signature words, and the golden flags FLAGS_MAC, FLAGS_ACC, FLAGS_VEC, FLAGS_QNT. -/
def psSigs (b : List Byte) (i : Nat) : List (BitVec 32) :=
  (List.range (psNsig b i)).map fun k => BitVec.ofNat 32 (leField b (psGolden b i + 4 * k) 4)
def psFlags (b : List Byte) (i : Nat) : List (BitVec 16) :=
  (List.range 4).map fun k => BitVec.ofNat 16 (leField b (psGolden b i + 4 * psNsig b i + 2 * k) 2)

/-- A well-formed stress point: VOFF from -60 mV to +30 mV, DCLK from 0 to 100 MHz, reserved bytes zero. -/
def psPointOk (b : List Byte) (p : Nat) : Bool :=
  let q := psPoint b p
  decide (-60 ≤ q.1) && decide (q.1 ≤ 30) && decide (q.2 ≤ 100) && leField b (0x42 + 4 * p) 2 == 0

/-- A well-formed program entry. -/
def psProgOk (b : List Byte) (i : Nat) : Bool :=
  let o := psProgAt b i
  let im := psImage b i
  decide (leField b o 8 + leField b (o + 8) 4 ≤ psLen b) && decide (1 ≤ psNsig b i) && decide (psNsig b i ≤ 16) &&
  decide (leField b (o + 17) 1 ≤ 1) && leField b (o + 18) 2 == 0 && leField b (o + 28) 4 == 0 &&
  decide (psGolden b i + 4 * psNsig b i + 8 ≤ psLen b) && decide (leField b (o + 12) 4 + 4 * psNsig b i ≤ 3145728) &&
  imageOk im im.length && imageLevel im == 1 && (imageFeatures im &&& ~~~0x3F) == 0 && leField im 0x22 2 == 1

/-- A well-formed bundle of n bytes. -/
def psOk (b : List Byte) (n : Nat) : Bool :=
  leField b 0 4 == 0x50534554 && leField b 4 2 == 1 && decide (1 ≤ psNprog b) && decide (psNprog b ≤ 64) &&
  leField b 8 4 != 0 && decide (1 ≤ psNpoint b) && decide (psNpoint b ≤ 32) && leField b 0x12 2 == 0 &&
  leField b 0x18 40 == 0 && decide (psProgAt b (psNprog b) ≤ psLen b) && psLen b + 3604 == n &&
  decide (n ≤ 16 * 2 ^ 20) && (List.range (psNpoint b)).all (psPointOk b) && (List.range (psNprog b)).all (psProgOk b)

/-- STEP_MASK names B0, and the signature verifies under the key whose hash is TUG_PS_ROOT. -/
def psForB0 (b : List Byte) : Bool := (leField b 0x0C 4).testBit 1
def psSigned (b : List Byte) : Bool :=
  keyHash Config.psRootKey == Config.psRoot && hssVerifyFixed Config.psRootKey (b.take (psLen b)) ((b.drop (psLen b)).take 3604)

/-- A class of stress point (R472): 0 SERVICE, 1 GUARD, 2 EDGE. -/
def psClass (q : Int × Nat) : Nat :=
  if q.1 = 0 ∧ q.2 = 0 then 0
  else if (-30 ≤ q.1 ∧ q.1 ≤ -10 ∧ q.2 = 0) ∨ (q.1 = 0 ∧ 1 ≤ q.2 ∧ q.2 ≤ 70) then 1
  else 2

end Sys2Proof.Machine
end

