-- ==== Sys2Proof/Machine/Guide.lean ====
section
/-! DEFINITION. The course of an accepted command (02 R35 to R39, 07 R207 to R212, 12 R305 to R322): images on cores, halts,
stops, restarts, completion and ending, and the version record and tables of a job. -/
namespace Sys2Proof.Machine

/-! ### A job's entry and tables (R307, R316, R440) -/

/-- The enabled entry of a loaded job. -/
def Ctl.jobEntry (c : Ctl) (job : BitVec 16) : Option Nat :=
  (List.range 16).find? fun j =>
    c.bit (Addr.jobA j) 16 && c.fld (Addr.jobA j) 0 16 == job.toNat && c.bit (Addr.jobF j) 0

def Ctl.nlayers (c : Ctl) (j : Nat) : Nat := c.fld (Addr.jobA j) 18 13
def Ctl.lwt (c : Ctl) (j : Nat) : Nat := c.fld (Addr.jobB j) 0 48
def Ctl.vr (c : Ctl) (j : Nat) : Nat := c.fld (Addr.jobC j) 0 48
def Ctl.nw (c : Ctl) (j : Nat) : Nat := c.fld (Addr.jobD j) 0 48

/-- VERSION and ATTEMPT of a version record (R307). -/
def vrVersion (m : Memory) (a : Nat) : Nat := bits (m.readLe a 8) 0 48
def vrAttempt (m : Memory) (a : Nat) : Nat := bits (m.readLe a 8) 48 4
def vrWord (ver att : Nat) : Nat := ver % 2 ^ 48 + att % 16 * 2 ^ 48

/-- Layer l of a layer width table (R117). -/
def lwEntry (m : Memory) (a l : Nat) : Nat := m.readLe (a + 8 * l) 8

/-- Steps 4 and 5 of R319: the staged table becomes the layer width table, then VR_BOOK equals VR_WORD. -/
def finishTable (m : Memory) (lwt vr n : Nat) : Memory :=
  (m.writeBytes lwt (m.readBytes (lwt + 8 * n) (8 * n))).writeLe (vr + 8) 8 (m.readLe vr 8)

/-- VERSION of a loaded job, 0 where it is not loaded. -/
def State.jobVersion (s : State) (job : BitVec 16) : Nat :=
  match s.ctl.jobEntry job with
  | some j => vrVersion s.mem (s.ctl.vr j)
  | none => 0

/-! ### Commands -/

/-- The control queue's number (R397). -/
def ctrlQueue : BitVec 16 := 0xFFFE

/-- Index of a queue in a session's list: command queues, then the control queue. -/
def qSlot (ses : Session) (q : BitVec 16) : Option Nat :=
  if q = ctrlQueue then some ses.nq else if q.toNat < ses.nq then some q.toNat else none

def Session.queue? (ses : Session) (q : BitVec 16) : Option CmdQueue := match qSlot ses q with
  | some i => ses.queues[i]?
  | none => none

def Session.setQueue (ses : Session) (q : BitVec 16) (v : CmdQueue) : Session := match qSlot ses q with
  | some i => { ses with queues := ses.queues.set i v }
  | none => ses

def Ctl.sessionById (c : Ctl) (id : BitVec 32) : Option (Nat × Session) := c.elo.sessions.find? fun e => e.2.id = id

/-- The sequence number that a queue may run next: one above LAST_DONE (R35). -/
def CmdQueue.head (q : CmdQueue) : BitVec 48 := match q.lastDone with
  | some d => d + 1
  | none => 0

/-- Every lower-numbered command of its queue has completed or ended (R35). -/
def State.atHead (s : State) (k : CmdKey) : Bool :=
  match s.ctl.sessionById k.session with
  | some (_, ses) => match ses.queue? k.queue with
    | some q => q.head == k.seq
    | none => false
  | none => false

/-- HALT_ON_FAIL of a command queue (R38). -/
def Ctl.haltOnFail (c : Ctl) (slot : Nat) (q : BitVec 16) : Bool :=
  q ≠ ctrlQueue && c.bit (Addr.sesHof slot) q.toNat

/-- A status of R37: it ends a command, and holds its queue. -/
def endsHeld (st : Status) : Bool :=
  st == stABORTED_MISMATCH || st == stABORTED_STALL || st == stABORTED_NORM || st == stSOURCE_LOST ||
  st == stQUARANTINED || st == stPARITY_UNRECOVERED || st == stPREEMPTED

/-- The OR of the flag registers of cores, and the first valid NONFIN_POS in core-number order (R89). -/
def State.flagsOf (s : State) (cs : List CoreId) : BitVec 16 × BitVec 32 :=
  cs.foldl (fun (a : BitVec 16 × BitVec 32) c =>
    let k := s.core c
    (a.1 ||| k.flags[0] ||| k.flags[1] ||| k.flags[2] ||| k.flags[3],
     if a.2.getLsbD 31 then a.2 else if k.nonfinPos.getLsbD 31 then k.nonfinPos else a.2)) (0, 0)

/-- Cores in rising order. -/
def sortCores (cs : List CoreId) : List CoreId := (List.finRange 384).filter fun c => cs.contains c

/-- Frees the cores of a command. -/
def State.freeCores (s : State) (k : CmdKey) : State :=
  { s with cores := s.cores.map fun c => if (c.prog.map Prog.key) = some k then { c with prog := none } else c }

/-- A TRAIN or ADOPT command completes or ends: VR_EXPECT becomes all ones, and unless a decision was taken VR_WORD becomes
(VERSION, 1) (R307, R320). -/
def State.closeStep (s : State) (job : BitVec 16) (decided : Bool) : State :=
  match s.ctl.jobEntry job with
  | none => s
  | some j =>
    let a := s.ctl.vr j
    let m := s.mem.writeLe (a + 16) 8 (2 ^ 48 - 1)
    let v := vrWord (vrVersion m a) 1
    let m := if decided || m.readLe a 8 == v then m
      else finishTable (m.writeLe a 8 v) (s.ctl.lwt j) a (s.ctl.nlayers j)
    let s := if decided then s else s.wrote [(s.ctl.lwt j, 8 * s.ctl.nlayers j)]
    s.store m [(a, 24)]

/-- The Guide finds VR_BOOK different from VR_WORD in a loaded job's record and repeats steps 4 and 5 of R319. -/
def State.settleTable (s : State) (j : Nat) : State :=
  let a := s.ctl.vr j
  if s.mem.readLe a 8 = s.mem.readLe (a + 8) 8 then s
  else s.store (finishTable s.mem (s.ctl.lwt j) a (s.ctl.nlayers j)) [(s.ctl.lwt j, 8 * s.ctl.nlayers j), (a + 8, 8)]

/-- The COMPLETE record of a command (R283). -/
def Cmd.completeRec (m : Cmd) (st : Status) : JRec :=
  { kind := .complete, ncont := 0, key := m.key, job := m.job, status := st, rpoint := 0, lidx := 0, body := [] }

/-- Writes records into every mirror, numbered from JSEQ on (R283, R284); a word written anew is no longer bad. -/
def State.jnlWrite (s : State) (rs : List JRec) : State :=
  rs.foldl (fun (s : State) r =>
    let n := s.ctl.jnl.nextSlot
    (s.mapJnl fun j => { j.put (r.bytes j.jseq) with jseq := j.jseq + 1 }).wrote
      [s.ctl.slotRange s.ctl.jnl.mirror0 n, s.ctl.slotRange s.ctl.jnl.mirror1 n]) s

/-- Writes a command's COMPLETE record: the queue's LAST_DONE, its hold (R38), the completion to report after the next batch
(R48, R412), and a new snapshot (R45). -/
def State.complete (s : State) (m : Cmd) (st : Status) (result : BitVec 32) (decided : Bool) : State :=
  let (fl, nf) := s.flagsOf (sortCores (m.placement.filterMap (·.core)))
  let s := if m.stepKind ≠ 0 ∧ m.phase ≠ .accepted then s.closeStep m.job decided else s
  let ver : BitVec 48 := if m.stepKind = 0 then 0 else BitVec.ofNat 48 (s.jobVersion m.job)
  let s := s.freeCores m.key
  let s := match s.ctl.sessionById m.key.session with
    | none => s
    | some (slot, ses) => match ses.queue? m.key.queue with
      | none => s
      | some q =>
        let held := q.held || (endsHeld st && s.ctl.haltOnFail slot m.key.queue)
        s.mapCtl fun c => c.setSession slot
          (ses.setQueue m.key.queue { q with lastDone := some m.key.seq, held := held, done := (m.key.seq, st) :: q.done })
  let s := s.mapJnl fun j => { j with cmds := j.cmds.filter fun x => x.key ≠ m.key }
  let s := s.cut
  let ev := EventBody.completion m.key.queue m.key.seq st fl nf result ver s.snapVer (natWord (m.energyUj / 1000))
  (s.jnlWrite [m.completeRec st]).mapJnl fun j =>
    { j with reports := j.reports ++ [⟨m.key, ev, cmdRecords m.body + m.rpoints.length + 1⟩] }

/-- PREEMPT's target: queue in ARG1 [63:48], number in [47:0] (R406). -/
def preemptTarget (m : Cmd) : CmdKey :=
  ⟨m.key.session, m.body.arg1.extractLsb' 48 16, m.body.arg1.extractLsb' 0 48⟩

/-- The status that a queue holds for a command. -/
def State.doneStatus (s : State) (k : CmdKey) : Option Status :=
  match s.ctl.sessionById k.session with
  | some (_, ses) => match ses.queue? k.queue with
    | some q => (q.done.find? fun e => e.1 = k.seq).map (·.2)
    | none => none
  | none => none

/-- What follows from a completion: accepted commands whose end is decided end when their turn comes, and a PREEMPT completes
once its target has completed or ended (R35, R407). -/
def State.followUp : Nat → State → State
  | 0, s => s
  | n + 1, s =>
    match s.ctl.jnl.cmds.find? fun m => m.phase = .accepted ∧ m.doom.isSome ∧ s.atHead m.key with
    | some m => State.followUp n (s.complete m (m.doom.getD 0) 0 false)
    | none =>
      match s.ctl.jnl.cmds.find? fun m =>
          m.phase = .running ∧ m.op = 3 ∧ (s.cmd? (preemptTarget m)).isNone with
      | some m =>
        let r : BitVec 32 := if s.doneStatus (preemptTarget m) = some stPREEMPTED then 1 else 0
        State.followUp n (s.complete m stOK r false)
      | none => s

/-- Completes or ends a command and what follows from it. -/
def State.finish (s : State) (m : Cmd) (st : Status) (result : BitVec 32 := 0) (decided : Bool := false) : State :=
  State.followUp s.ctl.jnl.cmds.length (s.complete m st result decided)

/-! ### Loading programs (R207, R208, R475) -/

/-- Loads the sections of an image into a ledge (R207 step 5). -/
def loadSections (ledge mem : Memory) (img : Image) : Memory :=
  img.sections.foldl (fun (l : Memory) x =>
    if x.stype = 5 then l
    else if x.stype = 4 then l.zeroFill x.sload x.ssize
    else l.writeBytes x.sload (mem.readBytes (img.addr + x.soff) x.ssize)) ledge

/-- The TEXT section's ledge range, and the read-only ranges (R205). -/
def Image.text (i : Image) : Nat × Nat := match i.sections.find? fun x => x.stype = 1 with
  | some x => (x.sload, x.ssize)
  | none => (0, 0)
def Image.ro (i : Image) : List (Nat × Nat) := (i.sections.filter fun x => x.stype = 1 ∨ x.stype = 2).map fun x => (x.sload, x.ssize)

/-- A core loaded with an image by R207 step 5 and R208. -/
def Core.load (c : Core) (mem : Memory) (img : Image) (arg : Word) (logical rp : Nat) (key : CmdKey) (job : BitVec 16)
    (probe : Option (BitVec 32)) : Core :=
  let g : Vector Word 32 := Vector.replicate 32 0
  let g := (((g.set 1 arg).set 2 (natWord logical)).set 3 (natWord img.ncores)).set 4 (natWord rp)
  { c with
    g := g, p := Vector.replicate 8 false, d := Vector.replicate 16 (Vector.replicate 4 0), sem := Vector.replicate 32 0
    ledge := loadSections c.ledge mem img, queues := Vector.replicate 6 [], stall := none, trapping := none, run := .running
    pc := BitVec.ofNat 22 img.entry, trapInfo := trapInfoReset, trapPc := 0, trapSeq := 0, phase := 0
    waitLimit := 0x01000000, fpctl := 0, fpq := Vector.replicate 6 0, seed := 0, srStream := 0
    armed := Vector.replicate 4 0, haltStatus := none
    prog := some { imageId := img.id, textLo := img.text.1, textLen := img.text.2, readOnly := img.ro
                   trapEntry := BitVec.ofNat 22 img.trapEntry, trapStatus := img.trapStatus, job := job
                   logical := logical, key := key, probe := probe } }

/-- Loads a program of the run's probe set on the core under probe (R475 step 3). -/
def State.loadProbe (s : State) (r : ProbeRun) (prog : Nat) : State :=
  let im := psImage r.set prog
  let core := (s.core r.core).load (Memory.writeBytes [] 0 im) (imageOf im 0 im.length 0) 0 0 0 ⟨0, 0, 0⟩ 0 (some r.number)
  let s := s.setCore r.core core
  s.mapCtl fun c => { c with rel := { c.rel with runs := c.rel.runs.map fun (x : ProbeRun) =>
    if x.core = r.core then { x with prog := prog, esc := false } else x } }

/-- A run's current point begins with the set's first program (R475). -/
def State.beginPoint (s : State) (r : ProbeRun) : State :=
  let s := s.mapCtl fun c => { c with rel := { c.rel with runs := c.rel.runs.map fun (x : ProbeRun) =>
    if x.core = r.core then { x with res := [] } else x } }
  s.loadProbe r 0

/-- Step 1 of R475, which a routine run's wait for a hot window comes before (R474), and the first point. -/
def State.beginRun (s : State) (r : ProbeRun) : State :=
  let s := s.mapCtl fun c =>
    let c : Ctl := { c with rel := { c.rel with runs := c.rel.runs.map fun (x : ProbeRun) =>
      if x.core = r.core then { x with waiting := false } else x } }
    c.setFld (Addr.relCore r.core.val) 0 2 1
  (s.setCore r.core Core.reset).beginPoint r

/-- What a program of a probe set left on its core: its status, signature words and flag registers (R475 step 3, R477). -/
def Core.probed (k : Core) (b : List Byte) (i : Nat) (st : Status) (esc : Bool) : ProbeProg :=
  { halt := st
    sigs := (List.range (psNsig b i)).map fun n => BitVec.ofNat 32 (k.ledge.readLe (leField b (psProgAt b i + 12) 4 + 4 * n) 4)
    flags := k.flags.toList, escalated := esc }

/-- After a halt what the program left is noted, and the next program of the set is loaded, if there is one. -/
def State.nextProbe (s : State) (c : CoreId) (st : Status) : State :=
  match s.ctl.rel.runs.find? fun r => r.core = c with
  | some r =>
    let s := s.mapCtl fun x => { x with rel := { x.rel with runs := x.rel.runs.map fun y =>
      if y.core = c then { y with res := y.res ++ [(s.core c).probed r.set r.prog st r.esc] } else y } }
    if r.prog + 1 < psNprog r.set then s.loadProbe r (r.prog + 1) else s
  | none => s

/-! ### Halts (R209) -/

/-- Every logical index has halted. -/
def Cmd.allHalted (m : Cmd) : Bool := m.placement.all fun p => p.halted.isSome

/-- Ends a command whose cores have all halted, or passes a TRAIN or ADOPT to the Guide's decision. One that awaits its decision
ends at once, with none taken, unless PREEMPTED decides its end: then the decision still runs (R320, R323). A PREEMPT that waits for
its target ends too once its end is decided (R291, R302). -/
def State.conclude (s : State) (k : CmdKey) : State :=
  match s.cmd? k with
  | none => s
  | some m =>
    if m.phase = .running ∧ m.op = 1 ∧ m.allHalted then
      match m.doom with
      | some st => s.finish m st
      | none =>
        if m.stepKind = 0 then s.finish m stOK
        else s.updCmd k fun m => { m with phase := .deciding }
    else if m.phase = .running ∧ m.op = 3 then
      match m.doom with
      | some st => s.finish m st
      | none => s
    else if m.phase = .deciding then
      match m.doom with
      | some st => if st = stPREEMPTED then s else s.finish m st
      | none => s
    else s

/-- A core halts: its state, and its mark in the placement. -/
def State.markHalt (s : State) (c : CoreId) (st : Status) : State :=
  let core := s.core c
  let s := s.setCore c { core with run := .halted, haltStatus := some st, stall := none, trapping := none,
                                   armed := Vector.replicate 4 0 }
  match core.prog with
  | none => s
  | some p =>
    if p.probe.isSome then s
    else s.updCmd p.key fun m =>
      { m with placement := m.placement.map fun x => if x.core = some c then { x with halted := some st } else x }

/-- Stops one core of a command, which halts at once when nothing it started is left. -/
def State.stopCore (s : State) (c : CoreId) : State :=
  let core := (s.core c).stop
  let s := s.setCore c core
  if core.trapping = some (.halt 0) ∧ core.idleQueues then s.markHalt c 0 else s

/-- Stops every core of a running command that does not halt already; a logical index that waits for another core has nothing left to
do. -/
def State.stopCores (s : State) (k : CmdKey) : State :=
  match s.cmd? k with
  | none => s
  | some m =>
    let s := s.updCmd k fun m =>
      { m with placement := m.placement.map fun x => if x.core.isNone then { x with halted := some 0 } else x }
    m.placement.foldl (fun (s : State) x => match x.core with
      | some c => if x.halted.isNone then s.stopCore c else s
      | none => s) s

/-- Pre-empted commands whose operations have finished the collective step in progress reach their step boundary: their cores stop
(R384, R407). -/
def State.stopDue (s : State) : State :=
  let due := s.ctl.jnl.cmds.filter fun m => m.phase == .running && m.doom == some stPREEMPTED && !s.cmdInStep m.key &&
    m.placement.any fun x => x.halted.isNone && match x.core with
      | some c => (s.core c).trapping.isNone
      | none => true
  due.foldl (fun (s : State) m => (s.stopCores m.key).conclude m.key) s

/-- Decides the end of a command, once (R544), and stops its cores: those of a pre-empted one at its step boundary (R407). -/
def State.doomCmd (s : State) (k : CmdKey) (st : Status) : State :=
  match s.cmd? k with
  | none => s
  | some m =>
    let s := if m.doom.isNone then
        -- its open group operations are left (R382), or pre-empted (R384)
        (s.updCmd k fun m => { m with doom := some st }).leaveOps k (if st = stPREEMPTED then kPREEMPT else kLEFT)
      else s
    let s := if m.phase = .running ∧ (st = stPREEMPTED ∧ s.cmdInStep k = true) = False then s.stopCores k else s
    s.conclude k

/-- Ends an accepted command with a status of R37: a running one stops, one that waits ends when its turn comes. -/
def State.endCmd (s : State) (k : CmdKey) (st : Status) : State :=
  let s := s.doomCmd k st
  State.followUp s.ctl.jnl.cmds.length s

/-- A core halts with a status: a non-zero one stops the command's other cores and decides its status (R209). -/
def State.coreHalt (s : State) (c : CoreId) (st : Status) : State :=
  let core := s.core c
  let s := s.markHalt c st
  match core.prog with
  | none => s
  | some p =>
    if p.probe.isSome then s.nextProbe c st
    else if st ≠ 0 then s.doomCmd p.key st
    else s.conclude p.key

/-! ### What the scalar unit waits for, once a unit has finished -/

/-- Every issued instruction has completed and its writes are visible (R188, R209). -/
def Core.drained (c : Core) : Bool := c.idleQueues && c.spills.isEmpty

/-- The slots that an entry names (R142): a Fixed-Rope preload, FR in bit 36 (R244), takes the four slots of its tile (R145). -/
def entryTiles (e : QEntry) : List (Fin 16) :=
  match e.op with
  | .macStep => [tileOf (fld e.w 39 4)]
  | .accSadd => [tileOf (fld e.w 39 4)]
  | .accSpill => [tileOf (fld e.w 39 4)]
  | .accDrain => [tileOf (fld e.w 39 4)]
  | .accFree => [tileOf (fld e.w 39 4)]
  | .accPreload =>
    let n := tileOf (fld e.w 39 4)
    if e.w.getLsbD 36 then (List.finRange 16).filter fun a => a.val / 4 == n.val / 4 else [n]
  | _ => []

/-- Slots of a Fixed-Rope tile count as one: the group of four that holds a slot. -/
def sameTile (c : Core) (a b : Fin 16) : Bool :=
  a == b || (a.val / 4 == b.val / 4 && ((c.tiles[a]).mode == .frMember || (c.tiles[b]).mode == .frMember ||
    (c.tiles[a]).mode == .fixedRope || (c.tiles[b]).mode == .fixedRope))

/-- An entry names slot n, or a slot of the same Fixed-Rope tile. -/
def tilesClash (c : Core) (e : QEntry) (n : Fin 16) : Bool := (entryTiles e).any (sameTile c n)

/-- No earlier instruction that names the slot is left (R138, R142). A background addition does not hold a read of the slot's
registers: SPILL_BUSY shows it. -/
def Core.tileIdle (c : Core) (n : Fin 16) (iseq : BitVec 48) : Bool :=
  !(c.queues.any fun q => q.any fun e => decide (e.iseq < iseq) && tilesClash c e n)

/-- Lets a stalled or stopped scalar unit go on where its wait has ended (R201, R209, R222). -/
def State.settle (s : State) (c : CoreId) : State :=
  let core := s.core c
  match core.trapping with
  | some (.halt st) => if core.idleQueues then s.coreHalt c st else s
  | some .handler => s
  | none =>
    match core.stall with
    | some (.tileRead idx rd iseq) =>
      match srTile idx with
      | some n =>
        if core.tileIdle n iseq then
          s.setCore c ({ core with stall := none }.wg (BitVec.ofFin ⟨rd.val, by omega⟩) (core.mfsr idx))
        else s
      | none => s
    | some (.halt st _) => if core.drained then s.coreHalt c st else s
    | _ => s

/-- An entry has left its queue: a transfer's flow ends, and what waited for it goes on. -/
def State.afterEntry (s : State) (c : CoreId) : State := (s.endFlows c).settle c

/-! ### Programs on cores (R207, R208, R212) -/

def State.image? (s : State) (id : BitVec 64) : Option Image := s.ctl.elo.images.find? fun i => i.id = id

/-- What a later attempt does not inherit on its core (R321): tiles, spills, weight and tile buffers, codebooks, the ledge,
ACC_CTL and VEC_LAST. Flags and statistics stay (R89, R208). -/
def Core.forget (c : Core) : Core :=
  { c with ledge := [], tiles := Vector.replicate 16 Tile.reset, spills := [], wb := Vector.replicate 2 ⟨[], [], []⟩
           vb := Vector.replicate 4 ⟨[], 0, 0⟩, cb := Vector.replicate 8 [], accCtl := 0x1000, vecLast := 0 }

/-- Loads logical index l of a command on a core; g4 is the last recorded replay point (R212). The start of a later attempt
inherits nothing (R321). -/
def State.loadIndex (s : State) (m : Cmd) (img : Image) (l : Nat) (c : CoreId) (rp : Nat) : State :=
  let k := if m.stepKind = 1 ∧ 1 < m.attempt ∧ rp = 0 then (s.core c).forget else s.core c
  let s := s.setCore c (k.load s.mem img m.body.arg1 l rp m.key m.job none)
  s.updCmd m.key fun m =>
    { m with placement := m.placement.map fun x => if x.logical = l then ⟨l, some c, none⟩ else x }

/-- The last recorded replay point of a logical index in the attempt that runs: a TRAIN numbers them from ATTEMPT x 2^24, and
an attempt inherits none (R321). -/
def Cmd.rpoint (m : Cmd) (l : Nat) : Nat :=
  let n := ((m.rpoints.find? fun r => r.1 = l).map (·.2.toNat)).getD 0
  if n < m.attempt * 2 ^ 24 then 0 else n

/-- A core in service that belongs to no command's placement. -/
def State.coreFree (s : State) (c : CoreId) : Bool :=
  !s.ctl.coreGone c.val && !(s.ctl.jnl.cmds.any fun m => m.placement.any fun x => x.core == some c)

/-- Abandons a probe run that uses a core which a placement needs (R475). -/
def State.abandonProbe (s : State) (c : CoreId) : State :=
  match s.ctl.rel.runs.find? fun r => r.core = c with
  | some r =>
    let s := s.mapCtl fun x =>
      ({ x with rel := { x.rel with runs := x.rel.runs.filter fun r => r.core ≠ c } }).setFld (Addr.relCore c.val) 0 2
        (if r.release then 2 else 0)
    if r.waiting then s else s.setCore c Core.reset
  | none => s

/-! ### WIDE_ALL (R120) -/

/-- Every layer that has a bail-out shadow is WIDE, and there is one. -/
def allWide (m : Memory) (lwt n : Nat) : Bool :=
  let ls := (List.range n).map fun l => lwEntry m lwt l
  let able := ls.filter fun e => bits e 0 3 ≠ 7
  !able.isEmpty && able.all fun e => e.testBit 3

def countWide (m : Memory) (lwt n : Nat) : Nat := ((List.range n).filter fun l => (lwEntry m lwt l).testBit 3).length

/-- An attempt of a TRAIN starts: WIDE_ALL where it has become true (R120). -/
def State.noteWide (s : State) (job : BitVec 16) : State :=
  match s.ctl.jobEntry job with
  | none => s
  | some j =>
    let n := s.ctl.nlayers j
    let a := s.ctl.lwt j
    let v := s.ctl.vr j
    if allWide s.mem a n then
      if s.ctl.jnl.wideAll.contains job then s
      else
        let s := s.mapJnl fun x => { x with wideAll := job :: x.wideAll }
        s.raise evWIDE_ALL (job ++ BitVec.ofNat 48 (vrVersion s.mem v) ++ BitVec.ofNat 8 (vrAttempt s.mem v) ++
          BitVec.ofNat 16 (countWide s.mem a n) ++ 0#40)
    else s.mapJnl fun x => { x with wideAll := x.wideAll.filter (· ≠ job) }

/-! ### A lost core (R39, R212, R468) -/

/-- The work of a lost core restarts from its last replay point on the core that the Guide chooses, waits for one, or ends
with QUARANTINED when too few cores remain (R37, R469). In SAFE no core is started (R28). -/
def State.restartWork (s : State) (c : CoreId) (repl : Option CoreId) : State :=
  match s.ctl.jnl.cmds.find? fun m => m.placement.any fun x => x.core = some c ∧ x.halted.isNone with
  | none =>
    -- a halted index needs no core any more
    s.mapJnl fun j => { j with cmds := j.cmds.map fun m =>
      { m with placement := m.placement.map fun x => if x.core = some c then { x with core := none } else x } }
  | some m =>
    let l := ((m.placement.find? fun x => x.core = some c).map (·.logical)).getD 0
    let s := s.updCmd m.key fun m =>
      { m with placement := m.placement.map fun x => if x.core = some c then { x with core := none } else x }
    match m.doom, s.image? m.body.imageId with
    | none, some img =>
      if s.ctl.coresSvc < img.ncores then s.endCmd m.key stQUARANTINED
      else match repl with
        | some r => if s.coreFree r && s.ctl.dev.dstate != .safe then (s.abandonProbe r).loadIndex m img l r (m.rpoint l) else s
        | none => s
    | _, _ =>
      let s := s.updCmd m.key fun m =>
        { m with placement := m.placement.map fun x => if x.logical = l then { x with halted := some 0 } else x }
      s.conclude m.key

/-- The command that runs on a core, and its job; none for a probe program. -/
def State.affected (s : State) (c : CoreId) : Option (CmdKey × BitVec 16) := match (s.core c).prog with
  | some p => if p.probe.isSome then none else some (p.key, p.job)
  | none => none

/-- A cairn record that names the command running on a core (R480). -/
def State.coreCairn (s : State) (c : CoreId) (kind action : Nat) (data : List Byte) : Cairn :=
  (s.ctl.cairn kind .core c.val action data).naming (s.affected c)

/-- A core leaves service: island reset, quarantine with its cause, the OUT_OF_SERVICE record, and its work elsewhere (R468,
R512). An escalation adds 1 to ESC_CNT; below 3 the Guide owes it a release probe. -/
def State.quarantine (s : State) (c : CoreId) (cause : Nat) (repl : Option CoreId) : State :=
  let a := Addr.relCore c.val
  let s := s.beginRecovery.mapCtl fun x =>
    let x := (x.setFld a 0 2 2).setFld a 9 3 cause
    let x := if cause = 1 then x.setFld a 7 2 (min 3 (x.fld a 7 2 + 1)) else x
    let owes := cause == 1 && decide (x.fld a 7 2 < 3)
    { x with rel := { x.rel with runs := x.rel.runs.filter fun r => r.core ≠ c
                                 owed := if owes then x.rel.owed.filter (· ≠ c) ++ [c] else x.rel.owed } }
  let s := ((s.setCore c Core.reset).mapColl fun x => x.forget c).mapCtl fun x =>
    { x with flows := x.flows.filter fun f => f.core != c }
  let s := s.restartWork c repl
  ((s.unitLeft .core c.val cause).mapCtl fun x => { x with dev := { x.dev with relocate := true } }).endRecovery

end Sys2Proof.Machine
end

