-- ==== Sys2Proof/Machine/Faults.lean ====
section
/-! DEFINITION. Faults of checks and units (05 R151, 10 R286 to R291, 11 R300 to R302, 18 R468): what a replay that keeps
failing leads to, slices and stacks that are retired, and the journal's mirrors. -/
namespace Sys2Proof.Machine

/-! ### The journal's mirrors (R42, R286) -/

/-- Base die of a slice (R274). -/
def dieOf (n : Nat) : Nat := n / 8

/-- The slice that a new standby region would take, without one slice: the lowest in service on a die without a mirror, with
TRANSIT_MIB of 12 or more and no journal region. -/
def Ctl.standbySlice (c : Ctl) : Option (Fin 32) :=
  (List.finRange 32).find? fun n =>
    c.sliceState n.val == 0 && dieOf n.val != dieOf c.jnl.mirror0.val && dieOf n.val != dieOf c.jnl.mirror1.val &&
    decide (12 ≤ c.fld (Addr.bcSliceCfg n.val) 0 6) && n != c.jnl.mirror0 && n != c.jnl.mirror1

/-- Makes a new standby region where there is none and one can be made. -/
def Ctl.makeStandby (c : Ctl) : Ctl :=
  if c.jnl.standbyValid then c
  else match c.standbySlice with
    | none => c
    | some n =>
      let a := Addr.bcSliceCfg n.val
      { c with jnl := { c.jnl with standby := n, standbyValid := true } }.setFld a 0 6 (c.fld a 0 6 - 8)

/-- The ring of a mirror that is lost; the slice that takes its place receives every new record from here on (R42). -/
def Journal.dropMirror (j : Journal) (k : Fin 32) : Journal :=
  { j with ring0 := if j.mirror0 = k then [] else j.ring0, ring1 := if j.mirror1 = k then [] else j.ring1 }

/-- The records of a journal that goes on in one mirror. -/
def Journal.oneRing (j : Journal) (k : Fin 32) : Journal :=
  let r := if j.mirror0 = k then j.ring1 else j.ring0
  { j with ring0 := r, ring1 := r }

/-- Journaling of a first copy fails where a mirror is lost before its acceptance: the second copy, where one waits, takes its
place (R32; DESIGN CHOICE, log 159). -/
def Journal.secondCopies (j : Journal) : Journal :=
  { j with cmds := j.cmds.map fun m => match m.phase, m.dups with
    | .journaling, h :: hs => { m with hdr := h, dups := hs }
    | _, _ => m }

/-- The journal is lost (R25, R285). -/
def State.loseJournal (s : State) : State :=
  (s.mapCtl fun c => { c with dev := { c.dev with jnlLost := true } }).enterSafe 2

/-- The Guide rebuilds the journal from its mirrors and writes each record taken back into both, so that no word of it stays bad
(R285, R287). -/
def State.rebuildJournal (s : State) : State :=
  let c := s.ctl
  match c.jnl.rebuild (fun n => c.slotBad c.jnl.mirror0 n) (fun n => c.slotBad c.jnl.mirror1 n) with
  | none => s.loseJournal
  | some j => (s.mapJnl fun _ => j).wrote
      (j.ring0.flatMap fun e => [c.slotRange j.mirror0 e.1, c.slotRange j.mirror1 e.1])

/-- A slice that held a journal region is out of service; SAFE where no mirror is left. DESIGN CHOICE, log 160: where the surviving
mirror is lost while REMIRROR is 1, for which R43 gives no promise, the slice that is being filled goes on as the single
mirror. -/
def State.moveJournal (s : State) (k : Fin 32) : State :=
  let j := s.ctl.jnl
  if j.mirror0 = k ∨ j.mirror1 = k then
    if j.single then s.loseJournal
    else if j.standbyValid then
      s.mapCtl fun c => { c with jnl :=
        { (j.dropMirror k).secondCopies with
                 mirror0 := if j.mirror0 = k then j.standby else j.mirror0
                 mirror1 := if j.mirror1 = k then j.standby else j.mirror1
                 standbyValid := false, remirror := true } }
    else
      let live := if j.mirror0 = k then j.mirror1 else j.mirror0
      s.mapCtl fun c => { c with jnl := 
        { (j.oneRing k).secondCopies with mirror0 := live, mirror1 := live, single := true, remirror := false } }
  else if j.standbyValid ∧ j.standby = k then
    s.mapCtl fun c => { c with jnl := { j with standbyValid := false } }.makeStandby
  else s

/-! ### Slices (R290, R291) -/

/-- Ends with SOURCE_LOST every running or accepted command of some jobs; a PREEMPT that waits for its target before that target. -/
def State.loseJobs (s : State) (jobs : List Nat) : State :=
  let (waits, rest) := (s.ctl.jnl.cmds.filter fun m => m.accepted && jobs.contains m.job.toNat).partition fun m =>
    m.phase == .running && m.op == 3
  ((waits ++ rest).map (·.key)).foldl (fun (s : State) k => s.endCmd k stSOURCE_LOST) s

/-- Indices of the Base Camp regions that lie in a slice. -/
def Ctl.sliceRegions (c : Ctl) (k : Fin 32) : List Nat :=
  (List.range 256).filter fun i => rgnSlice (c.reg (Addr.bcRgnLo i)) == [k.val]

/-- A slice leaves service (R291). -/
def State.retireSlice (s : State) (k : Fin 32) : State :=
  if s.ctl.sliceState k.val = 0 then
    let rs := s.ctl.sliceRegions k
    let s := s.beginRecovery.mapCtl fun c =>
      let c := c.setFld (Addr.bcSliceStat k.val) 0 2 1
      let c := { c with rel := { c.rel with sliceRet := addAt c.rel.sliceRet k.val 1 } }
      rs.foldl (fun (c : Ctl) i => c.setBit (Addr.bcRgnHi i) 19 true) c
    let s := s.moveJournal k
    let s := s.loseJobs (rs.map fun i => s.ctl.fld (Addr.bcRgnLo i) 38 16)
    (s.unitLeft .slice k.val 0).endRecovery
  else s

/-! ### Stacks (R296, R300 to R302) -/

/-- A stack leaves service (R302). -/
def State.retireStack (s : State) (k : Fin 12) : State :=
  if s.ctl.stackState k.val = 0 then
    let s := s.beginRecovery.mapCtl fun c =>
      let c := c.setFld (Addr.hbmStat k.val) 0 2 1
      { c with rel := { c.rel with stackRet := addAt c.rel.stackRet k.val 1 } }
    let plain := s.ctl.hbmUsed.filter fun i => !s.ctl.anchored i
    let anch := s.ctl.hbmUsed.filter fun i => s.ctl.anchored i
    let gone := anch.filter fun i => s.ctl.pageLost i
    let s := s.mapCtl fun c =>
      let c := (plain ++ gone).foldl (fun (c : Ctl) i => c.setBit (Addr.hbmRgnHi i) 17 true) c
      anch.foldl (fun (c : Ctl) i => c.noteLoss i) c
    let s := anch.foldl (fun (s : State) i => s.serveCopies i) s
    let s := s.loseJobs ((plain ++ gone).map fun i => s.ctl.fld (Addr.hbmRgnHi i) 0 16)
    (s.unitLeft .stack k.val 0).endRecovery
  else s

/-! ### Detections -/

/-- CR_DATA of a PARITY_ESC record: row of R289, island kind of the receiver, PAR_DET. -/
def parityData (row : Nat) (u : UType) (det : Nat) : List Byte :=
  [BitVec.ofNat 8 row, BitVec.ofNat 8 u.code, 0, 0] ++ leBytes 4 det

/-- A core runs a program of a probe set under a probe run. -/
def Core.probing (k : Core) : Bool := match k.prog with
  | some p => p.probe.isSome
  | none => false

/-- Counts checks that failed at a core (R151, R236, R289). -/
def State.countCore (s : State) (c : CoreId) (det esc par : Nat) : State := s.setCore c ((s.core c).countChecks det esc par)

/-- An escalation at a core: its record, then quarantine. Under a probe run it is a result of the point only (R476). -/
def State.escalate (s : State) (c : CoreId) (r : Cairn) (repl : Option CoreId) : State :=
  if (s.core c).probing then s.mapCtl fun x => { x with rel := { x.rel with runs := x.rel.runs.map fun y =>
    if y.core = c then { y with esc := true } else y } }
  else (s.mapCtl fun x => x.record r).quarantine c 1 repl

/-- The command that a core runs ends with PARITY_UNRECOVERED (R289, R301). -/
def State.parityEnd (s : State) (c : CoreId) : State :=
  match (s.core c).prog with
  | some p => if p.probe.isSome then s else s.endCmd p.key stPARITY_UNRECOVERED
  | none => s

/-- A slice's stored word reads bad every time: PAR_UNREC, and retirement at 4 (R289, R290). -/
def State.storedBad (s : State) (k : Fin 32) : State :=
  let s := s.mapCtl fun x => x.bump (Addr.bcPar k.val) 32 16 1
  if 4 ≤ s.ctl.fld (Addr.bcPar k.val) 32 16 then s.retireSlice k else s

/-- The slice of a Base Camp address. -/
def sliceOf (a : BitVec 48) : Option (Fin 32) :=
  let n := (a.toNat - bcBase) / 0x3000000
  if h : bcBase ≤ a.toNat ∧ n < 32 then some ⟨n, h.2⟩ else none

/-- An uncorrected read of an HBM page: counted once per page, recorded with the command that it ends, and at 16 the stack is retired
(R301, R302). -/
def State.hbmPageBad (s : State) (a : BitVec 48) (anch : Bool) (who : Option (CmdKey × BitVec 16)) : State :=
  let page := a.toNat / 4096
  let st := stackOfPage page
  if s.ctl.rel.uePages.contains page then s
  else
    let s := s.mapCtl fun x =>
      let x := { x with rel := { x.rel with uePages := page :: x.rel.uePages } }.bump (Addr.hbmEcc st) 32 16 1
      let r := x.cairn 3 .stack st (if anch then 1 else 2)
        (leBytes 4 page ++ [if anch then 1 else 0, 0, 0, 0] ++ leBytes 4 (x.fld (Addr.hbmEcc st) 0 32))
      x.record ({ r with addr := a.zeroExtend 64 }.naming who)
    if 16 ≤ s.ctl.fld (Addr.hbmEcc st) 32 16 then
      if h : st < 12 then s.retireStack ⟨st, h⟩ else s
    else s

/-- MAJOR and MINOR of an instruction whose arithmetic the residue checkers cover (R150, R481). -/
def checkedOp : QOp → Nat × Nat
  | .macStep => (8, 1)
  | .accPreload => (9, 0)
  | .accSadd => (9, 1)
  | .accSpill => (9, 2)
  | _ => (9, 3)

/-- A collective instruction. -/
def isColl : QOp → Bool
  | .collSend | .collRecv | .collXchg => true
  | _ => false

/-- What a check met while an operation of a core ran that moves the device ranges `rs`. The second part tells whether the operation
cannot complete. A slice that is not on the way of the ranges receives no word of it (R279). A parity check escalates at its fourth
failure, after three failed replays (R231, R289; DEDUCED against R465, log 136). -/
def State.coreObs (s : State) (c : CoreId) (e : QEntry) (repl : Option CoreId) (rs : List (Nat × Nat)) (o : FaultObs) :
    State × Bool :=
  match o with
  | .residue n =>
    if n = 0 then (s, false)
    else if n < 3 then (s.countCore c n 0 0, false)
    else
      let s := s.countCore c 3 1 0
      let v := s.free
      let k := s.core c
      let r := s.coreCairn c 1 3
        (leBytes 4 e.iseq.toNat ++ [BitVec.ofNat 8 (checkedOp e.op).1, BitVec.ofNat 8 (checkedOp e.op).2,
          v.extractLsb' 0 8, v.extractLsb' 8 8] ++ leBytes 4 (bits k.chkResidue.toNat 0 32))
      (s.tick.escalate c r repl, !k.probing)
  | .arriveCore n =>
    let s := s.countCore c 0 0 n
    if n < 4 then (s, false)
    else
      let k := s.core c
      (s.escalate c (s.coreCairn c 2 3 (parityData 2 .core (bits k.chkResidue.toNat 40 24))) repl, !k.probing)
  | .arriveSlice k n =>
    let on := (s.ctl.pathSlices (isColl e.op) rs).contains k.val
    let s := if on then s.mapCtl fun x => x.bump (Addr.bcPar k.val) 0 32 n else s
    if n < 4 || !on then (s, false)
    else
      let r := s.ctl.cairn 2 .slice k.val 5 (parityData 3 .slice (s.ctl.fld (Addr.bcPar k.val) 0 32))
      ((s.mapCtl fun x => x.record r).retireSlice k, false)
  | .storedSlice a n =>
    match sliceOf a with
    | none => (s, false)
    | some k =>
      let s := s.mapCtl fun x => x.bump (Addr.bcPar k.val) 0 32 n
      if n < 4 then (s, false)
      else
        let r := (s.ctl.cairn 2 .slice k.val 2 (parityData 1 .slice (s.ctl.fld (Addr.bcPar k.val) 0 32))).naming (s.affected c)
        let s := (s.markBad a).mapCtl fun x => x.record { r with addr := a.zeroExtend 64 }
        ((s.parityEnd c).storedBad k, true)
  | .storedLedge off n =>
    let s := s.countCore c 0 0 n
    if n < 4 then (s, false)
    else
      let s := s.setCore c ((s.core c).markBadLedge off)
      let r := s.coreCairn c 2 2 (parityData 1 .core (bits (s.core c).chkResidue.toNat 40 24))
      ((s.mapCtl fun x => x.record r).parityEnd c, !(s.core c).probing)
  | .hbmCorrected a =>
    (s.mapCtl fun x => x.bump (Addr.hbmEcc (stackOfPage (a.toNat / 4096))) 0 32 1, false)
  | .hbmUncorrected a n =>
    if s.ctl.otherCopy a then (s.hbmPageBad a true none, false)
    else if n < 3 then (s, false)
    else (((s.markBad a).hbmPageBad a (s.ctl.inAnchored a) (s.affected c)).parityEnd c, true)

/-- All the observations of an operation, in order, until one stops it. -/
def State.coreObsAll (s : State) (c : CoreId) (e : QEntry) (repl : Option CoreId) (rs : List (Nat × Nat)) :
    List FaultObs → State × Bool
  | [] => (s, false)
  | o :: os =>
    match s.coreObs c e repl rs o with
    | (s, true) => (s, true)
    | (s, false) => State.coreObsAll s c e repl rs os

/-- An injected fault, handled as a real one (R236): a residue mismatch, or a word that arrives bad at the core; COUNT 3
escalates. -/
def State.coreInject (s : State) (c : CoreId) (e : QEntry) (repl : Option CoreId) (kind : Nat) (count : BitVec 2) :
    State × Bool :=
  if count = 0 then (s, false)
  else if kind < 2 then s.coreObs c e repl [] (.residue count.toNat)
  else
    let s := s.countCore c 0 0 count.toNat
    if count = 3 then
      let k := s.core c
      (s.escalate c (s.coreCairn c 2 3 (parityData 2 .core (bits k.chkResidue.toNat 40 24))) repl, !k.probing)
    else (s, false)

end Sys2Proof.Machine
end

