-- ==== Sys2Proof/Machine/Governor.lean ====
section
/-! DEFINITION. Power and temperature (17 R442 to R457): the estimate of each 2 us tick, the allocation among the classes, the
measurement, the calibration, the energy accounts, droop and temperature. -/
namespace Sys2Proof.Machine

/-! ### Time (R57, R480; log 21) -/

/-- Guide time passes: the uptime, the availability counter of the state (R55 to R57), and each hour of service the
HOURS_SINCE of the cores in service. SERVICE and DEGRADED count as in service whatever excludes (R55). DESIGN CHOICE, log 157:
a cold reset that a host requested under MAINTENANCE clears the bit; the BOOT that follows stays excluded to its end, the wait
for attestation included, and ADMITTED after it is downtime. -/
def Ctl.passTime (c : Ctl) (us : Nat) : Ctl :=
  let d := c.dev
  let svc := d.dstate == .service || d.dstate == .degraded
  let excl := c.bit Addr.gcfg 1 || d.dstate == .retreat || (d.dstate == .boot && d.maint) ||
    (d.boot == .powerOn && d.dstate != .safe && decide (d.sinceT0 < 60000000))
  let d' := { d with uptime := d.uptime + us, sinceT0 := d.sinceT0 + us }
  let d' : Device :=
    if d.dstate = .off then d
    else if svc then { d' with svcUs := d.svcUs + us }
    else if excl then { d' with exclUs := d.exclUs + us }
    else { d' with downUs := d.downUs + us }
  let c := { c with dev := d' }
  if svc then
    let n := c.rel.svcUs + us
    if n < 3600000000 then { c with rel := { c.rel with svcUs := n } }
    else
      let c := { c with rel := { c.rel with svcUs := n - 3600000000 } }
      (List.range 384).foldl (fun (c : Ctl) i => if c.coreGone i then c else c.bump (Addr.relCore i) 12 14 1) c
  else c

/-! ### The estimate (R442) -/

def sumRat (l : List Rat) : Rat := l.foldl (· + ·) 0

/-- The classes of R448. -/
inductive PClass where
  | ports | mem | vec | arr
deriving DecidableEq, Repr

/-- Class of an event kind (R442, R448): of a core's kinds, operand bits, weight loads and accumulator accesses are the
array's, the others the vector engine's (log 25). The Guide's own activity is fixed power. -/
def classOf (a : ActCount) : Option PClass := match a.island with
  | .core _ => if a.event = 0 ∨ a.event = 1 ∨ a.event = 3 then some .arr else some .vec
  | .slice _ => some .mem
  | .stack _ => some .mem
  | .mport _ => some .ports
  | .hostBlock => some .ports
  | .guide => none

/-- Power of activity counts of one 2 us interval, in watts. -/
def dynWatts (l : List ActCount) : Rat := sumRat (l.map fun a => (a.count : Rat) * Config.weight a.island a.event) * 500000

def ofClass (l : List ActCount) (k : PClass) : List ActCount := l.filter fun a => classOf a = some k
def ofCore (l : List ActCount) (c : CoreId) : List ActCount := l.filter fun a => a.island = .core c

/-- Every island of R21. -/
def allIslands : List Island :=
  (List.finRange 384).map .core ++ (List.finRange 32).map .slice ++ (List.finRange 12).map .stack ++
    (List.finRange 16).map .mport ++ [.hostBlock, .guide]

/-- Voltage offset of an island in mV: VTRIM of a core, and that of a stress point (R471, R472). -/
def Ctl.voltOff (c : Ctl) : Island → Int
  | .core n => 10 * (c.fld (Addr.relCore n.val) 2 2 : Int) + c.coreVoff n.val
  | _ => 0

/-- The fixed power: leakage of every island, Guide, security engine and management port. -/
def Ctl.fixedWatts (c : Ctl) : Rat :=
  sumRat (allIslands.map fun i => Config.leakage i (c.temp (islandIdx i)) (c.voltOff i)) + Config.fixedPower

/-- a / b; a share with divisor 0 is not stated. -/
def ratio (a b : Rat) : Rat := if b = 0 then Config.openRatio else a / b

/-- A class's demand: its power divided by the fraction of the interval during which it was limited (R449). -/
def demandOf (p limited : Rat) : Rat := ratio p limited

/-! ### Allocation (R448 to R451) -/

/-- Cores that the governor governs: they run a command. -/
def State.governed (s : State) : List CoreId :=
  (List.finRange 384).filter fun c =>
    let k := s.core c
    (k.run == .running || k.run == .handler) && !k.probing

/-- The clock in steps of 17.5 MHz for a fraction of 700 MHz, rounded down, from 175 MHz to 700 MHz. -/
def clockUnits (f : Rat) : Nat := min 40 (max 10 (40 * f).floor.toNat)

/-- The result of an allocation: array and memory power, clock units of 17.5 MHz, duty. -/
structure Alloc where
  arr   : Rat
  mem   : Rat
  clock : Nat
  duty  : Nat
deriving DecidableEq, Repr

/-- The lines of R17: the most that the governor allots to each function at a cap of 2,400 W, in watts. -/
structure TdpTable where
  arrays     : Nat := 970
  ledge      : Nat := 300
  vector     : Nat := 120
  baseCamp   : Nat := 150
  hbm        : Nat := 340
  meloend    : Nat := 210
  hostPorts  : Nat := 40
  guide      : Nat := 60
  conversion : Nat := 210
deriving DecidableEq, Repr

/-- The total of R17. -/
def TdpTable.total (t : TdpTable) : Nat :=
  t.arrays + t.ledge + t.vector + t.baseCamp + t.hbm + t.meloend + t.hostPorts + t.guide + t.conversion

/-- The lines of R17 by the classes of R448: ports, Base Camp and HBM, vector engines, MAC arrays. -/
def TdpTable.classes (t : TdpTable) : Demand := ⟨t.meloend + t.hostPorts, t.baseCamp + t.hbm, t.vector, t.arrays⟩

/-- What a maximum leaves of a value, where there is one. -/
def atMost (m : Option Rat) (x : Rat) : Rat := m.elim x (min x)

/-- `allocate_priority` of R449, with the most that a class may get where R17 gives it. -/
def allocatePriority (most : Option Demand) (capEff k fixed : Rat) (d : Demand) : Alloc :=
  let left := capEff / k - fixed - d.ports
  let mem := min (atMost (most.map (·.mem)) d.mem) (max left 0)
  let left := left - mem
  let vec := min (atMost (most.map (·.vec)) d.vec) (max left 0)
  let left := left - vec
  let arr := min (atMost (most.map (·.arr)) d.arr) (max left 0)
  let clock := if d.vec = 0 then 40 else clockUnits (vec / d.vec)
  ⟨arr, mem, clock, min 64 (max 1 (64 * ratio arr (d.arr * clock / 40)).floor.toNat)⟩

/-- The fraction of a demand that a maximum admits. -/
def admitted (most d : Rat) : Rat := if d ≤ most then 1 else most / d

/-- `allocate_fallback` of R451, with the most that a class may get where R17 gives it. -/
def allocateFallback (most : Option Demand) (capEff k fixed f ports : Rat) (d : Demand) : Alloc :=
  let left := capEff / k - fixed - ports
  let dc := d.vec + d.arr
  let core := left * ratio dc (d.mem + dc)
  let core := max core (dc * ratio (min f d.arr) d.arr)
  let core := atMost (most.map fun m => dc * min (admitted m.vec d.vec) (admitted m.arr d.arr)) core
  let clock := clockUnits (ratio core dc)
  ⟨d.arr * clock / 40, atMost (most.map (·.mem)) (left - dc * clock / 40), clock, 64⟩

/-- The cap of R447, and the allowance of R445 and R446, in watts of the estimate. While the estimator is untrusted the allowance
is one of measured power: the last sample gives what it is in the estimate, whose proportions divide it (DESIGN CHOICE, log 91). -/
def Ctl.capEff (c : Ctl) : Rat :=
  let cap : Rat := (c.fld Addr.pwrCap 0 8 * 10 : Nat)
  if c.pow.measFault then cap * 92 / 100
  else if c.pow.untrusted then cap * 92 / 100 * c.pow.trim
  else cap

/-- The lines of R17 by class. -/
def tdpMost : Demand := TdpTable.classes {}

/-- The most that a class may get at a cap of 2,400 W, for demands of Base Camp and of HBM (R17); a lower cap is divided by R449 and
R451 alone. Ports are never limited (R448; log 169, DEDUCED). -/
def Ctl.most (c : Ctl) (bc hbm : Rat) : Option Demand :=
  if c.fld Addr.pwrCap 0 8 = 240 then some { tdpMost with mem := min bc 150 + min hbm 340 } else none

/-- ARR_FLOOR_W. -/
def Ctl.arrFloor (c : Ctl) : Rat := (c.fld Addr.pwrCap 8 10 : Nat)

def Demand.add (a b : Demand) : Demand := ⟨a.ports + b.ports, a.mem + b.mem, a.vec + b.vec, a.arr + b.arr⟩
def Demand.scale (a : Demand) (q : Rat) : Demand := ⟨a.ports * q, a.mem * q, a.vec * q, a.arr * q⟩
def Demand.zero : Demand := ⟨0, 0, 0, 0⟩
def Demand.sum (l : List Demand) : Demand := l.foldl Demand.add .zero

/-- The TDP shares of R17 for one core. -/
def tdpShare : Demand := Demand.scale tdpMost (1 / 384)

/-- The pair of a core (R210). -/
def Core.pair (k : Core) : BitVec 16 × BitVec 16 := (BitVec.ofNat 16 k.job, k.phase)

/-- The mean of a pair's last intervals. -/
def PhaseEnt.mean (e : PhaseEnt) : Demand := (Demand.sum e.seen).scale (ratio 1 e.seen.length)

/-- What a core of a pair is expected to draw. -/
def Power.learned (p : Power) (q : BitVec 16 × BitVec 16) : Demand :=
  match p.phases.find? fun e => e.job = q.1 ∧ e.phase = q.2 with
  | some e => e.mean
  | none => tdpShare

/-- Learns one pair's demand per core: 16 intervals, 256 pairs, the least recently seen replaced. -/
def Power.learn (p : Power) (q : BitVec 16 × BitVec 16) (d : Demand) : Power :=
  let old := match p.phases.find? fun e => e.job = q.1 ∧ e.phase = q.2 with
    | some e => e.seen
    | none => []
  let rest := p.phases.filter fun e => ¬ (e.job = q.1 ∧ e.phase = q.2)
  { p with phases := (⟨q.1, q.2, (d :: old).take 16⟩ :: rest).take 256 }

/-- Commands whose cores the governor has slowed (R388, R452). -/
def State.noteSlow (s : State) : State :=
  let slow (c : CoreId) : Bool :=
    decide (0 < s.ctl.clkSteps c.val) || decide ((KMap.get CoreClk.reset s.ctl.pow.clk c.val).duty < 64)
  s.mapJnl fun j => { j with cmds := j.cmds.map fun m =>
    if m.phase = .running ∧ (m.placement.any fun x => match x.core with
        | some c => slow c
        | none => false) then { m with slowed := true } else m }

/-- Sets the clock and duty of the cap path: the same for every governed core, which spreads the allowance in proportion to
each core's demand. -/
def Power.govern (p : Power) (cs : List CoreId) (a : Alloc) : Power :=
  { p with
    allocArr := a.arr, allocMem := a.mem
    clk := (List.finRange 384).foldl (fun (m : KMap CoreClk) c =>
      let k := KMap.get CoreClk.reset m c.val
      KMap.set CoreClk.reset m c.val
        (if cs.contains c then { k with cap := 40 - a.clock, duty := a.duty } else { k with cap := 0, duty := 64 })) p.clk }

/-- The demand of the interval for one core of a pair: the mean over the pair's cores, with an equal share of the memory's and
the ports' (log 25). -/
def pairDemand (s : State) (cs : List CoreId) (r : EstReading) (tot : Demand) (q : BitVec 16 × BitVec 16) : Demand :=
  let mine := cs.filter fun c => (s.core c).pair = q
  let one (c : CoreId) : Demand :=
    ⟨tot.ports / cs.length, tot.mem / cs.length,
      demandOf (dynWatts (ofClass (ofCore r.counts c) .vec)) r.limVec,
      demandOf (dynWatts (ofClass (ofCore r.counts c) .arr)) r.limArr⟩
  (Demand.sum (mine.map one)).scale (1 / mine.length)

/-- The fraction of its rates that an allocation leaves a class; all of them where it asks for nothing. -/
def rateOf (a d : Rat) : Rat := if d = 0 then 1 else min 1 (max 0 (a / d))

/-- The classes in which a slice serves its requesters (R280). -/
inductive SliceClass where
  | jnl | link | hbm | host | core
deriving DecidableEq, Repr

/-- The fraction of its rate at which a slice serves a class (R448). HBM and CORE traffic that a running collective step uses, which
`step` tells, is never limited. -/
def Ctl.sliceRate (c : Ctl) (step : Bool) : SliceClass → Rat
  | .jnl => 1
  | .link => 1
  | .hbm => if step then 1 else c.pow.memRate
  | .host => c.pow.memRate
  | .core => if step then 1 else c.pow.memRate

/-- The fraction of its request rate that an HBM controller may use: the lower of the cap path's and, at 95 C or more, half
(R448, R454, R455); the cap path does not limit what a running collective step uses. -/
def Ctl.stackRate (c : Ctl) (step : Bool) (n : StackId) : Rat := min (if step then 1 else c.pow.memRate) (if 95 ≤ c.fld (Addr.hbmStat n.val) 3 8 then 1 / 2 else 1)

/-- Adds to what cores have spent on a command, uJ. -/
def addUj (l : List (CmdKey × BitVec 16 × Rat)) (w : CmdKey × BitVec 16) (x : Rat) : List (CmdKey × BitVec 16 × Rat) :=
  if l.any fun e => e.1 = w.1 then l.map fun e => if e.1 = w.1 then (e.1, e.2.1, e.2.2 + x) else e else l ++ [(w.1, w.2, x)]

/-- ESTIMATE_TICK (R442, R449 to R451): the estimate, the demand of each class, what the pairs learn, the floor's watch, and
the clocks and duty of the running cores. -/
def execEstimateTick (r : EstReading) (s : State) : Host.Outcome State Fault Refusal :=
  .next (
    if s.ctl.dev.dstate = .off then s
    else
      let s := s.mapCtl fun c => { c with pow := { c.pow with
        temps := r.temps.foldl (fun (m : KMap Int) e => KMap.set 100 m (islandIdx e.1) e.2) c.pow.temps } }
      let cs := s.governed
      let fixed := s.ctl.fixedWatts
      let dyn := dynWatts r.counts
      let p := s.ctl.pow
      let dl := Demand.sum (cs.map fun c => p.learned (s.core c).pair)
      let est := p.k * (fixed + dyn)
      let d : Demand :=
        ⟨dynWatts (ofClass r.counts .ports), demandOf (dynWatts (ofClass r.counts .mem)) r.limMem,
          demandOf (dynWatts ((ofClass r.counts .vec).filter fun a => cs.any fun c => a.island = .core c)) r.limVec,
          demandOf (dynWatts ((ofClass r.counts .arr).filter fun a => cs.any fun c => a.island = .core c)) r.limArr⟩
      let p := ((cs.map fun c => (s.core c).pair).eraseDups).foldl
        (fun (p : Power) q => p.learn q (pairDemand s cs r d q)) p
      let bc := demandOf (dynWatts (r.counts.filter fun a => match a.island with
        | .slice _ => true
        | _ => false)) r.limMem
      let a := allocatePriority (s.ctl.most bc (d.mem - bc)) s.ctl.capEff p.k fixed d
      let miss := decide (a.arr < min d.arr s.ctl.arrFloor)
      let (b, dm) := if p.fallback then (allocateFallback (s.ctl.most 150 340) s.ctl.capEff p.k fixed s.ctl.arrFloor d.ports dl, dl.mem)
        else (a, d.mem)
      let p := { p.govern cs b with
        memRate := rateOf b.mem dm
        pEst := est, recent := est :: p.recent, dynUj := p.dynUj + dyn * 2
        coreUj := (List.finRange 384).foldl (fun (l : List (CmdKey × BitVec 16 × Rat)) c => match s.affected c with
          | some w => addUj l w (dynWatts (ofCore r.counts c) * 2)
          | none => l) p.coreUj
        missed := if miss then p.missed + 1 else 0
        kept := if miss then 0 else p.kept + 1 }
      (s.mapCtl fun c => { c with pow := p }.passTime 2).noteSlow)

/-- FALLBACK_ENTER (R450): the floor was missed in every tick of 5 ms. -/
def execFallbackEnter (s : State) : Host.Outcome State Fault Refusal :=
  .next (
    if 2500 ≤ s.ctl.pow.missed ∧ s.ctl.pow.fallback = false then
      s.mapCtl fun c => { c with pow := { c.pow with fallback := true, kept := 0 } }
    else s)

/-- FALLBACK_EXIT (R450): the priority path would have kept the floor in every tick of 50 ms. -/
def execFallbackExit (s : State) : Host.Outcome State Fault Refusal :=
  .next (
    if 25000 ≤ s.ctl.pow.kept ∧ s.ctl.pow.fallback = true then
      s.mapCtl fun c => { c with pow := { c.pow with fallback := false, missed := 0 } }
    else s)

/-! ### Measurement (R443 to R446) -/

/-- K in units of 2^-15. -/
def Power.kUnits (p : Power) : Nat := (p.k * 32768).floor.toNat % 2 ^ 16

/-- ESTIMATOR record and its event (R445, R446, R481, R545): condition, M and E in watts. -/
def State.estimatorRecord (s : State) (cond : Nat) (m e : Nat) : State :=
  let hi : BitVec 64 := BitVec.ofNat 8 cond ++ (0 : BitVec 8) ++ BitVec.ofNat 16 m ++ BitVec.ofNat 16 e ++ (0 : BitVec 16)
  s.mapCtl fun c =>
    c.record { c.cairn 8 .module 0 0 ([BitVec.ofNat 8 cond, 0] ++ leBytes 2 m ++ leBytes 2 e ++ leBytes 2 c.pow.kUnits) with
      ev := some (evESTIMATOR_UNTRUSTED, hi) }

/-- The mean of the estimates since the last sample; the last estimate where there is none. -/
def Power.meanEst (p : Power) : Rat := if p.recent.isEmpty then p.pEst else sumRat p.recent / p.recent.length

/-- Whole watts of E of the last sample (R445). -/
def Power.eWatts (p : Power) : Nat := watts p.eLast

def absRat (r : Rat) : Rat := if r < 0 then -r else r

/-- A sample disagrees, or agrees closely (R445, R446). -/
def disagrees (e m : Rat) : Bool := decide (12 * max m 600 < 100 * absRat (e - m))
def agrees6 (e m : Rat) : Bool := decide (100 * absRat (e - m) ≤ 6 * max m 600)

/-- Sets MEAS_FAULT, with the record of R446; where it is set already, the run of valid readings starts again. -/
def State.setMeasFault (s : State) : State :=
  if s.ctl.pow.measFault then s.mapCtl fun c => { c with pow := { c.pow with valid := 0 } }
  else
    let s := s.mapCtl fun c => { c with pow := { c.pow with measFault := true, valid := 0, disagree := 0, agree := 0 } }
    s.estimatorRecord 2 s.ctl.pow.pMeas s.ctl.pow.eWatts

/-! ### Energy (R456, R457) -/

def sumNat (l : List Nat) : Nat := l.foldl (fun (a b : Nat) => a + b) 0

/-- Splits n among weights exactly: rounded down, the remainder to the first. -/
def splitBy (n : Nat) (ws : List Nat) : List Nat :=
  let tot := sumNat ws
  let parts := ws.map fun w => n * w / tot
  match parts with
  | [] => []
  | x :: xs => (x + (n - sumNat parts)) :: xs

/-- Adds energy to a job's account and, where it names a command, to the command's. -/
def State.charge (s : State) (key : Option CmdKey) (job : BitVec 16) (uj : Nat) : State :=
  let s := s.mapCtl fun c => { c with pow := { c.pow with ledger := addAt c.pow.ledger job.toNat uj } }
  match key with
  | some k => s.updCmd k fun m => { m with energyUj := m.energyUj + uj }
  | none => s

/-- Cores that each running command holds, by job. -/
def State.held (s : State) : List (BitVec 16 × Nat) :=
  (s.ctl.jnl.cmds.filter fun m => m.phase = .running ∨ m.phase = .deciding).map fun m =>
    (m.job, (m.placement.filter fun x => x.core.isSome).length)

/-- The accounts that dynamic energy goes to, in uJ: what cores spent on their commands, and what was spent on each job, divided among
its commands in proportion to that (R456). -/
def accounts (cores : List (CmdKey × BitVec 16 × Rat)) (jobs : List (BitVec 16 × Nat)) : List (Option CmdKey × BitVec 16 × Nat) :=
  let own := cores.map fun e => (some e.1, e.2.1, e.2.2.floor.toNat)
  own ++ jobs.flatMap fun x =>
    let mine := own.filter fun e => e.2.1 = x.1
    if sumNat (mine.map (·.2.2)) = 0 then [(none, x.1, x.2)]
    else ((splitBy x.2 (mine.map (·.2.2))).zip mine).map fun y => (y.2.1, x.1, y.1)

/-- Divides the energy of 50 us: what the activity drew to the pairs of command and job that caused it, the rest to the jobs
by the cores they hold, or to IDLE. -/
def State.divide (s : State) (uj dynUj : Nat) (shares : List (Option CmdKey × BitVec 16 × Nat)) : State :=
  let act := if sumNat (shares.map fun x => x.2.2) = 0 then 0 else min uj dynUj
  let s : State := ((splitBy act (shares.map fun x => x.2.2)).zip shares).foldl
    (fun (s : State) x => if act = 0 then s else s.charge x.2.1 x.2.2.1 x.1) s
  let rest := uj - act
  let jobs : List (BitVec 16 × Nat) := s.held
  if sumNat (jobs.map fun x => x.2) = 0 then
    s.mapCtl fun c => { c with pow := { c.pow with idleUj := c.pow.idleUj + rest } }
  else
    ((splitBy rest (jobs.map (·.2))).zip jobs).foldl (fun (s : State) x => s.charge none x.2.1 x.1) s

/-- MEASURE_SAMPLE (R444, R445, R456): the reading, its comparison with the estimate, and the division of the energy. -/
def execMeasureSample (r : PwrReading) (s : State) : Host.Outcome State Fault Refusal :=
  .next (
    if s.ctl.dev.dstate = .off then s
    else
      let p := s.ctl.pow
      let e := p.meanEst
      let m : Rat := (r.powerMw : Rat) / 1000
      let good := r.present && decide (0 ≤ r.currMa) && decide (r.currMa ≤ 75000)
      let s := s.mapCtl fun c => { c with pow := { c.pow with
        pMeas := if r.present then r.powerMw / 1000 else c.pow.pMeas
        vin := if r.present then r.vin20mv else c.pow.vin
        eLast := e
        samples := if r.present then c.pow.samples + 1 else c.pow.samples
        sumM := if r.present then c.pow.sumM + m else c.pow.sumM
        sumLoad := if r.present then c.pow.sumLoad + e / c.pow.k else c.pow.sumLoad
        valid := if good then c.pow.valid + 1 else 0
        trim := if good ∧ m ≠ 0 then e / m else c.pow.trim } }
      let s := if r.present && !good then s.setMeasFault else s
      let s :=
        if good && !s.ctl.pow.measFault then
          s.mapCtl fun c => { c with pow := { c.pow with
            disagree := if disagrees e m then c.pow.disagree + 1 else 0
            agree := if agrees6 e m then c.pow.agree + 1 else 0 } }
        else s
      let total : Nat :=
        if s.ctl.pow.measFault then (s.ctl.pow.pEst * 50).floor.toNat else if r.present then r.powerMw / 20 else 0
      let s := s.divide total p.dynUj.floor.toNat (accounts p.coreUj r.shares)
      s.mapCtl fun c => { c with pow := { c.pow with recent := [], dynUj := 0, coreUj := [] } })

/-- CALIBRATION_TICK (R443): K follows r = sum of M over sum of P_load of the samples since the last tick, where their mean of M is 300 W
or more and MEAS_FAULT is 0; the sums start again. They are the state's own: the operands say nothing. -/
def execCalibrationTick (_sumM _sumLoad : Rat) (s : State) : Host.Outcome State Fault Refusal :=
  .next (s.mapCtl fun c =>
    let p := c.pow
    let r := ratio p.sumM p.sumLoad
    let k := p.k + (r - p.k) / (if p.untrusted then 2 else 8)
    let go := decide (p.measFault = false ∧ 0 < p.samples ∧ 300 * (p.samples : Rat) ≤ p.sumM)
    { c with pow := { p with k := if go then min (5 / 4) (max 1 k) else p.k, samples := 0, sumM := 0, sumLoad := 0 } })

/-- MEAS_ABSENT_TIMEOUT (R444): no reading for 200 us. -/
def execMeasAbsentTimeout (s : State) : Host.Outcome State Fault Refusal :=
  .next (if s.ctl.dev.dstate = .off then s else s.setMeasFault)

/-- MEAS_FAULT_CLEAR (R444): 100 consecutive valid readings. -/
def execMeasFaultClear (s : State) : Host.Outcome State Fault Refusal :=
  .next (
    if s.ctl.pow.measFault = true ∧ 100 ≤ s.ctl.pow.valid then
      s.mapCtl fun c => { c with pow := { c.pow with measFault := false, disagree := 0, agree := 0 } }
    else s)

/-- ESTIMATOR_UNTRUSTED (R445): 20 samples in a row disagree. -/
def execEstimatorUntrusted (s : State) : Host.Outcome State Fault Refusal :=
  .next (
    if s.ctl.pow.untrusted = false ∧ s.ctl.pow.measFault = false ∧ 20 ≤ s.ctl.pow.disagree then
      let s := s.mapCtl fun c => { c with pow := { c.pow with untrusted := true, agree := 0 } }.bump Addr.pwrCal 32 16 1
      s.estimatorRecord 1 s.ctl.pow.pMeas s.ctl.pow.eWatts
    else s)

/-- ESTIMATOR_TRUSTED (R446): 2,000 samples in a row agree within 6 %. -/
def execEstimatorTrusted (s : State) : Host.Outcome State Fault Refusal :=
  .next (
    if s.ctl.pow.untrusted = true ∧ 2000 ≤ s.ctl.pow.agree then
      let s := s.mapCtl fun c => { c with pow := { c.pow with untrusted := false, disagree := 0 } }
      s.estimatorRecord 0 s.ctl.pow.pMeas s.ctl.pow.eWatts
    else s)

/-! ### Droop and temperature (R21, R453, R454) -/

/-- ISLAND_DROOP (R21, R453): the island stretches its own cycles; they are counted. -/
def execIslandDroop (_i : Island) (cycles : Nat) (s : State) : Host.Outcome State Fault Refusal :=
  .next (if s.ctl.dev.dstate = .off then s else s.mapCtl fun c => c.bump Addr.pwrDroop 0 32 cycles)

/-- Changes a core's clock settings. -/
def Ctl.setClk (c : Ctl) (n : Nat) (f : CoreClk → CoreClk) : Ctl :=
  { c with pow := { c.pow with clk := KMap.set CoreClk.reset c.pow.clk n (f (KMap.get CoreClk.reset c.pow.clk n)) } }

/-- DROOP_LIMIT (R453): the island's clock drops one step, from where it stands, for 1 ms. Slices, HBM controllers and ports, the host
block's among them (R448), keep their clock. -/
def execDroopLimit (i : Island) (s : State) : Host.Outcome State Fault Refusal :=
  .next (
    match i with
    | .core n =>
      (s.mapCtl fun c => (c.setClk n.val fun k => { k with droop := 1 + c.clkSteps n.val }).bump Addr.pwrDroop 32 16 1).noteSlow
    | .guide => s.mapCtl fun c => ({ c with pow := { c.pow with guideSlow := true } }).bump Addr.pwrDroop 32 16 1
    | _ => s)

/-- DROOP_STEP_EXPIRE (R453). -/
def execDroopStepExpire (i : Island) (s : State) : Host.Outcome State Fault Refusal :=
  .next (
    match i with
    | .core n => s.mapCtl fun c => c.setClk n.val fun k => { k with droop := 0 }
    | .guide => s.mapCtl fun c => { c with pow := { c.pow with guideSlow := false } }
    | _ => s)

/-- The unit that a SAFE record names for an island (R454). -/
def islandUnit : Island → UType × Nat
  | .core n => (.core, n.val)
  | .slice n => (.slice, n.val)
  | .stack n => (.stack, n.val)
  | .mport n => (.mport, n.val)
  | .hostBlock => (.hport, 0)
  | .guide => (.guide, 0)

/-- A core's thermal steps after a reading in units of 0.25 C (R454). -/
def thermStep (slow : Int) (t : Int) (n : Nat) : Nat :=
  if 4 * slow ≤ t then min 30 (n + 1) else if t < 4 * (slow - 3) then n - 1 else n

/-- The limit at which an island moves the S4 to SAFE: 105 C for a stack, 115 C for the others. -/
def tooHot (e : Island × Int) : Bool := match e.1 with
  | .stack _ => decide (420 ≤ e.2)
  | _ => decide (460 ≤ e.2)

/-- A release probe may begin: a set is active and the S4 is in service or admitted (R455, R474). -/
def Ctl.mayRelease (c : Ctl) : Bool :=
  (c.dev.dstate == .admitted || c.dev.dstate == .service || c.dev.dstate == .degraded) && c.psVer c.rel.psActive != 0
/-- A routine run may begin; none does during a recovery (R476). -/
def Ctl.mayProbe (c : Ctl) : Bool := c.mayRelease && !c.recovering

/-- THERMAL_SAMPLE (R454): islands' temperatures, the thermal step of each core that is read, HOT_CORES and TJ_HOT. -/
def execThermalSample (temps : List (Island × Int)) (s : State) : Host.Outcome State Fault Refusal :=
  .next (
    if s.ctl.dev.dstate = .off then s
    else
      let slow : Int := s.ctl.fld Addr.pwrTherm 8 8
      let s := s.mapCtl fun c => temps.foldl (fun (c : Ctl) e =>
        let c := { c with pow := { c.pow with temps := KMap.set 100 c.pow.temps (islandIdx e.1) e.2 } }
        match e.1 with
        | .core n => c.setClk n.val fun k => { k with therm := thermStep slow e.2 k.therm }
        | _ => c) c
      let s := s.mapCtl fun c => { c with pow := { c.pow with
        hot := (allIslands.foldl (fun (m : Int) i => max m (c.temp (islandIdx i))) 0 / 4).toNat
        hotCores := (List.range 384).filter fun n => decide (0 < (KMap.get CoreClk.reset c.pow.clk n).therm) } }
      let s := s.noteSlow
      -- a hot window of R474
      let s := (s.ctl.rel.runs.filter fun r => r.waiting && decide (380 ≤ s.ctl.temp r.core.val) && s.ctl.mayProbe).foldl
        (fun (s : State) r => s.beginRun r) s
      match temps.find? tooHot with
      | some e => let u := islandUnit e.1; s.enterSafe 3 u.1 u.2
      | none => s)

end Sys2Proof.Machine
end

