-- ==== Sys2Proof/Machine/UnitEvents.lean ====
section
/-! DEFINITION. Events of units (11 R295 to R302, 13 R330, 15 R418 and R419, 18 R468 to R470, 20 R512): handshakes that fail,
copies that complete, readings of the stacks, laser modules and host ports. -/
namespace Sys2Proof.Machine

/-- The S4 is powered: outside OFF. -/
def Ctl.powered (c : Ctl) : Bool := c.dev.dstate != .off

/-! ### Handshakes and copies -/

/-- CORE_HANDSHAKE_FAIL (R468, R512): an island reset; a core in service is quarantined with QCAUSE 4, and its work
restarts on another core. -/
def execCoreHandshakeFail (c : CoreId) (repl : Option CoreId) (s : State) : Host.Outcome State Fault Refusal :=
  .next (
    if s.ctl.powered then
      if s.ctl.coreOut c.val then s.setCore c Core.reset else s.quarantine c 4 repl
    else s)

/-- SLICE_HANDSHAKE_FAIL (R291). -/
def execSliceHandshakeFail (k : SliceId) (s : State) : Host.Outcome State Fault Refusal :=
  .next (if s.ctl.powered then s.retireSlice k else s)

/-- REMIRROR_DONE (R286): the standby slice holds a complete copy, and a new standby region is made where one can be. A slot of the
mirror that was read is taken from its valid copy, and the journal is lost where a slot has none (R285). -/
def execRemirrorDone (s : State) : Host.Outcome State Fault Refusal :=
  .next (
    if s.ctl.jnl.remirror then
      let s := (s.mapJnl fun j => { j with remirror := false }).rebuildJournal
      if s.ctl.dev.jnlLost then s else (s.mapCtl Ctl.makeStandby).shown.trySvc
    else s)

/-- STACK_HANDSHAKE_FAIL (R302). -/
def execStackHandshakeFail (k : StackId) (s : State) : Host.Outcome State Fault Refusal :=
  .next (if s.ctl.powered then s.retireStack k else s)

/-- SPARE_RESTORE_DONE (R300): every page with one copy whose spare page can take it has its spare copy; not while HBM refreshes
itself (R28). -/
def execSpareRestoreDone (r : Fin 256) (s : State) : Host.Outcome State Fault Refusal :=
  .next (
    if s.ctl.bit (Addr.hbmRgnHi r.val) 18 && !s.ctl.dev.selfRefresh then
      (s.restorePages r.val).shown
    else s)

/-- ECS_READ_TICK (R295): the scrub count is added to CE_CNT. -/
def execEcsReadTick (k : StackId) (count : Nat) (s : State) : Host.Outcome State Fault Refusal :=
  .next (
    if s.ctl.powered && s.ctl.stackState k.val == 0 then s.mapCtl fun c => c.bump (Addr.hbmEcc k.val) 0 32 count else s)

/-- HBM_TEMP_TICK (R295, R454): TEMP_C and HOT; at 105 C the S4 enters SAFE. -/
def execHbmTempTick (k : StackId) (tempC : BitVec 8) (hot : Bool) (s : State) : Host.Outcome State Fault Refusal :=
  .next (
    if s.ctl.powered then
      let s := s.mapCtl fun c =>
        let c := (c.setFld (Addr.hbmStat k.val) 3 8 tempC.toNat).setBit (Addr.hbmStat k.val) 11 hot
        { c with pow := { c.pow with temps := KMap.set 100 c.pow.temps (416 + k.val) (4 * (tempC.toNat : Int)) } }
      if 105 ≤ tempC.toNat then s.enterSafe 3 .stack k.val else s
    else s)

/-! ### Host ports (R418, R419) -/

/-- DOWN reasons that a host port has (R421). -/
def hostReason : DownReason → BitVec 4
  | .noLight => 2
  | .laserRemoved => 10
  | .disabled => 1
  | .none => 0
  | _ => 3

/-- The port without its peers: associations end with the link. -/
def Ctl.setHPort (c : Ctl) (p : HPort) (v : HostPort) : Ctl := { c with elo := { c.elo with ports := c.elo.ports.set p v } }
def Ctl.hport (c : Ctl) (p : HPort) : HostPort := c.elo.ports[p]

/-- DOWNS counts a departure from UP, a drain's at its start (R419, R421). -/
def Ctl.hostLeftUp (c : Ctl) (p : HPort) : Ctl := if (c.hport p).state = .up then c.bump (Addr.eloPerr p.val) 48 16 1 else c

/-- A host port goes DOWN. A departure from UP is a fault or removal: counted, recorded and announced (R418). -/
def State.hostDown (s : State) (p : HPort) (r : DownReason) : State :=
  let v := s.ctl.hport p
  let wasUp := v.state == .up || v.state == .draining
  let s := s.mapCtl fun c => (c.hostLeftUp p).setHPort p { v with state := .down, reason := hostReason r, peers := [] }
  if wasUp then s.unitLeft .hport p.val (hostReason r).toNat else s

/-- A host port is turned off by a commit, stage D or a reset: no fault. -/
def Ctl.hostOff (c : Ctl) (p : HPort) (reason : BitVec 4) : Ctl :=
  (c.hostLeftUp p).setHPort p { c.hport p with state := .off, reason := reason, peers := [] }

/-- A host port begins to train: EN is 1. -/
def Ctl.hostTrain (c : Ctl) (p : HPort) : Ctl :=
  let v := c.hport p
  if c.bit (Addr.eloPcfg p.val) 0 ∧ v.state ≠ .up then c.setHPort p { v with state := .training, peers := [] } else c

/-- HOST_PORT_DOWN (R418): loss of light or lock, or FEC that fails; the port trains again by itself. -/
def execHostPortDown (port : HPort) (reason : DownReason) (s : State) : Host.Outcome State Fault Refusal :=
  .next (
    if (s.ctl.hport port).state = .up ∨ (s.ctl.hport port).state = .draining ∨ (s.ctl.hport port).state = .training then
      s.hostDown port reason
    else s)

/-- The laser module that feeds a port (R14, R392). -/
def laserOfH (p : HPort) : LaserId := ⟨8 + p.val / 2, by omega⟩
def laserOfM (p : MPort) : LaserId := ⟨p.val / 2, by omega⟩

/-- HOST_PORT_UP (R419): a port that is enabled and lit gains lock and FEC; one that had left service returns (R470), and the S4 may
return to SERVICE. -/
def execHostPortUp (p : HPort) (s : State) : Host.Outcome State Fault Refusal :=
  .next (
    let v := s.ctl.hport p
    if s.ctl.powered && s.ctl.bit (Addr.eloPcfg p.val) 0 && (s.ctl.links.lasers[laserOfH p]).state == .on &&
        (v.state == .training || v.state == .down) then
      let s := s.mapCtl fun c => c.setHPort p { v with state := .up, reason := 0, peers := [] }
      (if leftBy v.reason then s.returnedRecord .hport p.val true else s).shown.trySvc
    else s)

/-! ### Laser modules (R330, R419) -/

def Ctl.laser (c : Ctl) (k : LaserId) : Laser := c.links.lasers[k]
def Ctl.setLaser (c : Ctl) (k : LaserId) (v : Laser) : Ctl := { c with links := { c.links with lasers := c.links.lasers.set k v } }

/-- Ports of a laser module's optical engine. -/
def mportsOf (k : LaserId) : List MPort := (List.finRange 16).filter fun p => laserOfM p = k
def hportsOf (k : LaserId) : List HPort := (List.finRange 8).filter fun p => laserOfH p = k

/-- No other laser module is DRAINING, off or absent. -/
def Ctl.othersLit (c : Ctl) (k : LaserId) : Bool :=
  (List.finRange 12).all fun j =>
    j == k || (!(c.laser j).draining && (c.laser j).state != .presentOff && (c.laser j).state != .absent)

/-- The S4 accepts a removal request (R330, R419). -/
def Ctl.mayRemove (c : Ctl) (k : LaserId) : Bool :=
  c.othersLit k &&
    (if k.val < 8 then c.links.ports.toList.all fun p => p.state != .down
      else
        let up (b : Bool) := (List.finRange 8).any fun p => netB p == b && laserOfH p != k && (c.hport p).state == .up
        up false && up true)

/-- Steps 1 and 2 of R330 and R419: a request starts draining both ports, or sets REFUSED. A second request for a module that is
draining changes nothing. -/
def State.removeLaser (s : State) (k : LaserId) : State :=
  if (s.ctl.laser k).draining then s
  else if s.ctl.mayRemove k then
    let s := s.mapCtl fun c => c.setLaser k { c.laser k with draining := true }
    let ms := mportsOf k
    let s := ms.foldl (fun (s : State) p => s.mapCtl fun c => (c.leftUp p).setPort p { c.port p with state := .draining }) s
    let s := ((ms.filterMap fun p => s.ctl.axisOf p).eraseDups).foldl (fun (s : State) a => s.announceAxis a) s
    (hportsOf k).foldl
      (fun (s : State) p => s.mapCtl fun c => (c.hostLeftUp p).setHPort p { c.hport p with state := .draining }) s
  else s.mapCtl fun c => c.setBit (Addr.lmStat k.val) 3 true

/-- Step 3: the packets queued for a port are routed again; it takes no new ones. -/
def State.emptyQueue (s : State) (p : MPort) : State :=
  let ks := (s.ctl.port p).queue.filterMap FlitLoad.packet?
  (s.mapCtl fun c => c.setPort p { c.port p with queue := [] }).reroute ks

/-- A port of a module carries traffic, or drains. -/
def Ctl.laserUsed (c : Ctl) (k : LaserId) : Bool :=
  (mportsOf k).any (fun p => (c.port p).state == .up || (c.port p).state == .draining) ||
  (hportsOf k).any fun p => (c.hport p).state == .up || (c.hport p).state == .draining

/-- A module is gone from service with its ports; where none of them was in service, the departure is the module's own, and a move to
DEGRADED names it (R26, R27). -/
def State.laserLeft (s : State) (k : LaserId) (r : DownReason) : State :=
  let own := !s.ctl.laserUsed k
  let s := (mportsOf k).foldl (fun (s : State) p => s.portDown p r) s
  let s := (hportsOf k).foldl (fun (s : State) p => s.hostDown p r) s
  if own then s.unitLeft .laser k.val 0 else s

/-- Steps 3 and 4: the ports go DOWN with LASER_REMOVED and the module is turned off. -/
def State.laserOff (s : State) (k : LaserId) : State :=
  let s := (mportsOf k).foldl (fun (s : State) p => s.emptyQueue p) s
  (s.mapCtl fun c => c.setLaser k { c.laser k with state := .presentOff, draining := false, removeOk := true }).laserLeft k .laserRemoved

/-- MLK_DRAIN_COMPLETE (R330): both retry buffers are empty. -/
def execMlkDrainComplete (k : LaserId) (s : State) : Host.Outcome State Fault Refusal :=
  .next (
    if (s.ctl.laser k).draining && decide (k.val < 8) && (mportsOf k).all fun p => (s.ctl.port p).retry.isEmpty then
      s.laserOff k
    else s)

/-- HOST_DRAIN_COMPLETE (R419): every message already received on the two ports is answered. -/
def execHostDrainComplete (k : LaserId) (s : State) : Host.Outcome State Fault Refusal :=
  .next (if (s.ctl.laser k).draining && decide (8 ≤ k.val) then s.laserOff k else s)

/-- Ports of a module begin to train once it is on; one whose EN is 0, or without a peer, is OFF (R346). -/
def Ctl.trainLaser (c : Ctl) (k : LaserId) : Ctl :=
  let c := ((mportsOf k).filter fun p => (c.port p).state != .up).foldl (fun (c : Ctl) p =>
    if c.pEn p && (c.axisOf p).isSome then c.startTraining p else c.setPort p ((c.port p).idle .off 1)) c
  (hportsOf k).foldl (fun (c : Ctl) p =>
    if c.bit (Addr.eloPcfg p.val) 0 then c.hostTrain p
    else if (c.hport p).state = .up then c else c.setHPort p { c.hport p with state := .off, reason := 1 }) c

/-- LM_INSERTED (R330 steps 6 and 7): the module is detected, its serial number read, and turned on; its ports train, and the unit has
returned by replacement (R470). -/
def execLmInserted (k : LaserId) (serial : BitVec 32) (s : State) : Host.Outcome State Fault Refusal :=
  .next (
    if (s.ctl.laser k).state = .on then s
    else
      let on : Bool := match s.ctl.dev.dstate with
        | .off => false
        | .boot => decide (6 ≤ s.ctl.dev.bootStep)
        | _ => true
      if on then
        ((s.mapCtl fun c => (c.setLaser k ⟨true, .on, false, false, serial⟩).trainLaser k).returnedRecord .laser k.val true).shown.trySvc
      else s.mapCtl fun c => c.setLaser k ⟨true, .presentOff, false, false, serial⟩)

/-- LM_PULLED (R330, R419, R539): a module is withdrawn. With REMOVE_OK its ports are down already; without, they go DOWN with
NO_LIGHT. -/
def execLmPulled (k : LaserId) (s : State) : Host.Outcome State Fault Refusal :=
  .next (
    let v := s.ctl.laser k
    let s := s.mapCtl fun c => c.setLaser k ⟨false, .absent, false, v.removeOk, 0⟩
    if v.state = .on ∨ (v.state = .fault ∧ s.ctl.laserUsed k = true) then s.laserLeft k .noLight else s)

/-- LASER_MODULE_FAULT (R481): STATE reads 3, the module gives no light, and the OUT_OF_SERVICE record is written. -/
def execLaserModuleFault (k : LaserId) (s : State) : Host.Outcome State Fault Refusal :=
  .next (
    if (s.ctl.laser k).state = .on then
      (s.mapCtl fun c => c.setLaser k { c.laser k with state := .fault, draining := false }).unitLeft .laser k.val 0
    else s)

end Sys2Proof.Machine
end

