-- ==== Sys2Proof/Machine/Boot.lean ====
section
/-! DEFINITION. Start-up, the reset classes, the retreat ladder, the pins and the Guide's lockstep (17 R458 to R462, 18,
20 R510 to R523, 21 R526 to R531), as operations and as the rows of the table that name them. -/
namespace Sys2Proof.Machine

/-! ### The summit book's contents (R517, R520) -/

/-- SUM_JVERj of a loaded job entry: its job and committed VERSION. -/
def Ctl.jverWord (c : Ctl) (m : Memory) (j : Nat) : Word := natWord (vrVersion m (c.vr j) + c.fld (Addr.jobA j) 0 16 * 2 ^ 48)

/-- The items of a batch as they stand. A job entry gives SUM_JVERj its job and committed VERSION while it is loaded, and once more
after it is unloaded. In SAFE the sessions stay as they were held at its entry. -/
def State.capture (s : State) : BookItems :=
  let c := s.ctl
  let old := c.book.items
  let loaded := (List.range 16).filter fun j => c.bit (Addr.jobF j) 0
  let left := c.book.lastVer.filter fun e => !loaded.contains e.1
  { sessions := if c.dev.dstate = .safe then old.sessions else c.bookSessions
    jver := loaded.foldl (fun (m : KMap Word) j => KMap.set 0 m j (c.jverWord s.mem j))
      (left.foldl (fun (m : KMap Word) e => KMap.set 0 m e.1 e.2) old.jver)
    jvalid := (loaded ++ left.map Prod.fst).foldl (fun (v : BitVec 16) j => v ||| BitVec.ofNat 16 (2 ^ j)) old.jvalid
    ledger := c.pow.ledger
    idleUj := c.pow.idleUj
    avail := (c.dev.svcUs, c.dev.downUs, c.dev.exclUs) }

/-- Moves the oldest k waiting records into the ring, numbered and stamped with a snapshot version (R483). -/
def Rel.intoRing (r : Rel) (k : Nat) (snap : Word) : Rel × List Cairn :=
  let new := (r.waiting.take k).zipIdx.map fun e => { e.1 with num := r.nextNum + e.2, snap := snap }
  ({ r with waiting := r.waiting.drop k, nextNum := r.nextNum + new.length, ring := (new.reverse ++ r.ring).take 4096 }, new)

/-- The tail (R520): every item as it stands, every waiting record, the next BSEQ. -/
def State.writeTail (s : State) : State :=
  let items := s.capture
  s.mapCtl fun c =>
    { c with rel := (c.rel.intoRing c.rel.waiting.length s.snapVer).1
             book := { c.book with items := items, bseq := c.book.bseq + 1, tail := true, writing := none, lastVer := [] } }

/-- A queue rebuilt from the summit book (R522 step 4). -/
def queueFromBook (e : Option (BitVec 48) × List (BitVec 48 × Status)) : CmdQueue :=
  { CmdQueue.new with
    nextExp := (e.1.map (· + 1)).getD 0, lastDone := e.1, done := e.2, lostUpTo := e.1 }

/-- A session rebuilt from the summit book (R403). -/
def sessionFromBook (b : BookSession) : Session :=
  { id := b.id, token := b.token, srcIp := 0, ver := b.ver, isa := b.isa, features := b.features, maxdata := 1, nq := b.nq
    state := .opened, admin := false, queues := b.lastDone.map queueFromBook, addrA := none, addrB := none, eseq := 0
    acked := 0, unacked := [], keptComp := [], keptDev := [], evLost := 0, txn := none, closed := [], keys := []
    report := none, rebuilt := true }

/-- The contents of the book as steps 1 to 3 of R522 find them: the newest checkpoint, the batches of the log that follow it, the
tail. -/
def Book.readBack (b : Book) : BookItems :=
  let k := if b.ckptA.bseq < b.ckptB.bseq then b.ckptB else b.ckptA
  if b.tail then b.items
  else match b.log.find? fun e => k.bseq < e.bseq with
    | some e => e.items
    | none => k.items

/-- Read-back (R522, R523): sessions, HALT_ON_FAIL bits, ledger and availability counters, TAIL_MISSING, and a header for the new
epoch in the older copy. -/
def Ctl.readBack (c : Ctl) : Ctl :=
  let b := c.book.readBack
  let live := b.sessions.filter fun e => !e.2.ended
  let c := live.foldl (fun (c : Ctl) e => c.setReg (Addr.sesHof e.1) e.2.hof) c
  { c with
    elo := { c.elo with sessions := live.map fun e => (e.1, sessionFromBook e.2) }
    pow := { c.pow with ledger := b.ledger, idleUj := b.idleUj }
    dev := { c.dev with tailMiss := !c.book.tail && c.book.mark, svcUs := b.avail.1, downUs := b.avail.2.1,
                        exclUs := b.avail.2.2 }
    book :=
      let k : Book := { c.book with items := b, ckptA := if c.book.tail then ⟨c.book.bseq, b⟩ else c.book.ckptA
                                    log := if c.book.tail then [] else c.book.log, mark := false, tail := false, writing := none }
      if k.hdrA < k.hdrB then { k with hdrA := c.dev.epoch + 1 } else { k with hdrB := c.dev.epoch + 1 } }

/-! ### What a cold reset or a power-on keeps (R50, R514) -/

/-- Registers kept across a cold reset (and, where `off`, a loss of power): REL_COREn, the STATE of retired slices and stacks;
PAR_UNREC, UE_PAGES and RETREATS until power-on. -/
def Ctl.keptRegs (c : Ctl) (off : Bool) : Ctl :=
  let z : Ctl := { c with regs := [] }
  let z := (List.range 384).foldl (fun (z : Ctl) n => z.setReg (Addr.relCore n) (c.reg (Addr.relCore n))) z
  let z := (List.range 32).foldl (fun (z : Ctl) n =>
    let z := z.setFld (Addr.bcSliceStat n) 0 2 (if c.sliceState n = 0 then 0 else 1)
    if off then z else z.setFld (Addr.bcPar n) 32 16 (c.fld (Addr.bcPar n) 32 16)) z
  let z := (List.range 12).foldl (fun (z : Ctl) n =>
    let z := z.setFld (Addr.hbmStat n) 0 2 (if c.stackState n = 0 then 0 else 1)
    if off then z else z.setFld (Addr.hbmEcc n) 32 16 (c.fld (Addr.hbmEcc n) 32 16)) z
  if off then z else z.setFld Addr.pwrVin 12 16 (c.fld Addr.pwrVin 12 16)

/-- A laser module that has gone dark. -/
def Laser.dark (l : Laser) : Laser := { l with state := if l.present then .presentOff else .absent, draining := false, removeOk := false }

/-- The control plane after its volatile contents are lost. -/
def Ctl.volatileLost (c : Ctl) (off : Bool) : Ctl :=
  let c := c.dropRuns
  { c.keptRegs off with
    elo := { Elo.reset with idsUsed := if off then [] else c.elo.idsUsed }
    jnl := { Journal.reset with jseq := if off then 0 else c.jnl.jseq }
    txn := { TxnState.reset with commits := if off then 0 else c.txn.commits }
    links := { Links.reset with lasers := c.links.lasers.map Laser.dark }
    coll := Coll.reset
    pow := Power.reset
    dev := { c.dev with guideA := true, guideB := true }
    book := { c.book with lastVer := [] }
    rel := { c.rel with waiting := [], written := [], psAct := none, psLast := 0, psSusp := 0,
                        uePages := if off then [] else c.rel.uePages, restored := [], svcUs := 0 }
    sec := { c.sec with act := none, rtAct := none, last := 0, kslots := Vector.replicate 8 none, hbmKey := none }
    mgmt := ⟨none, none⟩
    bad := []
    flows := [] }

/-- An SVN_COMMIT that is cut short leaves FUSE_SVN at some value between the old count and the target: a free value (R492, log 16). -/
def State.burnCut (s : State) : State :=
  match s.ctl.sec.act with
  | some a =>
    if a.code = 3 ∧ a.status = stOK then
      let old := s.ctl.svn
      let to_ := max old (leField (s.ctl.fwBytes s.ctl.sec.fwSlot) 0x0C 1)
      s.tick.mapCtl fun c => { c with sec := { c.sec with svn := some (BitVec.ofNat 7 (old + s.free.toNat % (to_ - old + 1))) } }
    else s
  | none => s

/-- Everything volatile is lost: cores, memory, control plane and snapshots. -/
def State.volatileLost (s : State) (off : Bool) : State :=
  let s := s.burnCut
  let c := s.ctl.volatileLost off
  { s with cores := Vector.replicate 384 Core.reset, mem := [], ctl := c, snap := c, snapVer := 0, prev := none }

/-! ### Entering BOOT (R510 step 3, R512) -/

/-- BOOT begins at step 3: its clock, epoch and cause; straps are read (R529); MOD_ALERT_N is released (R530). BOOT_MS keeps its
value over a warm reset only (R9, R524); a warm reset holds HBM in self-refresh (R514), and a summit book that could not be read back
stays so (R513). -/
def State.enterBoot (s : State) (k : BootClass) (cause : Nat) (maint : Bool) : State :=
  let s := s.mapCtl fun c =>
    { c with
      dev := { c.dev with prev := .boot, stage := 0, recovery := false, relocate := false, leftRetreat := false, halted := false, boot := k,
                          bootStep := 3, selfRefresh := k == .warm, bootMs := if k = .warm then c.dev.bootMs else 0, lastReset := cause, fallback := false, uptime := 0, sinceT0 := 0, epoch := c.dev.epoch + 1,
                          maint := maint, sbLost := k == .warm && c.dev.sbLost }
      -- the window of R482 is one of Guide time, which runs on: what was written lies before this start
      rel := { c.rel with written := c.rel.written.map fun e => (e.1, e.2.1, e.2.2.1.map (· - (c.dev.uptime : Int)), e.2.2.2) }
      pins := { c.pins with latched := c.pins.slotId, alertSafe := false } }
  -- entry from BOOT itself is a new BOOT
  if s.ctl.dev.dstate = .boot then s.cut else s.setDState .boot

/-! ### Steps 4 to 7 (R510, R511) -/

/-- An image is bootable (R491). An image as manufactured is, with FUSE_SVN as manufactured, and later while its FW_SVN is at least
FUSE_SVN (log 14). -/
def fwWellFormed (b : List Byte) : Bool :=
  let n := leField b 0x14 4
  leField b 0 4 == 0x54465731 && leField b 4 2 == 1 && leField b 6 2 == 0 && leField b 0x0D 3 == 0 &&
  decide (leField b 0x0C 1 ≤ 64) && decide (64 ≤ n) && decide (n ≤ 96 * 2 ^ 20 - 3604) && leField b 0x18 40 == 0
def fwForB0 (b : List Byte) : Bool := (leField b 0x10 4).testBit 1
def fwSvnOf (b : List Byte) : Nat := leField b 0x0C 1
/-- The signature verifies under the key whose hash is TUG_FW_ROOT. -/
def fwSigned (b : List Byte) : Bool :=
  let n := leField b 0x14 4
  keyHash Config.fwRootKey == Config.fwRoot && hssVerifyFixed Config.fwRootKey (b.take n) ((b.drop n).take 3604)
def Ctl.fwBootable (c : Ctl) (slot : Bool) : Bool :=
  match (if slot then c.sec.fwImg[1] else c.sec.fwImg[0]), c.sec.svn with
  | none, none => true
  | none, some v => decide (v.toNat ≤ fwSvnOf (Config.flashFirmware slot))
  | some b, _ => fwWellFormed b && fwForB0 b && decide (c.svn ≤ fwSvnOf b) && fwSigned b

/-- The boot ROM's choice (R491): what it writes of the trial, the slot that starts, and whether one is bootable. -/
def Ctl.startFirmware (c : Ctl) : Ctl × Bool :=
  let warm := c.dev.boot == .warm
  let x := c.sec
  let x := if !warm && x.trial then
      if x.trialBt then { x with next := !x.next, trial := false, trialBt := false } else { x with trialBt := true }
    else x
  let first := if warm then x.fwSlot else x.next
  if c.fwBootable first then ({ c with sec := { x with fwSlot := first } }, true)
  else if c.fwBootable (!first) then
    ({ c with sec := { x with fwSlot := !first }, dev := { c.dev with fallback := true } }, true)
  else ({ c with sec := x }, false)

/-- At BOOT the slices that BC_JNL_CFG names and that are not in service are treated as lost, one after another, with nothing
to copy (R286). -/
def State.bootJournal (s : State) : State :=
  if s.ctl.dev.boot = .warm then s
  else
    let s := ([(7 : Fin 32), 15, 23].filter fun n => s.ctl.sliceState n.val != 0).foldl
      (fun (s : State) n =>
        let s := s.moveJournal n
        s.mapCtl fun c => ({ c with jnl := { c.jnl with remirror := false } }).makeStandby) s
    s

/-- One slice or stack at BOOT (R470): in service it leaves on a failure; retired once it returns on a pass; retired twice it is
not tested. -/
def State.bootSlice (s : State) (fails : Bool) (k : Fin 32) : State :=
  if s.ctl.sliceState k.val = 0 then
    if fails then
      (s.mapCtl fun c =>
        { c with rel := { c.rel with sliceRet := addAt c.rel.sliceRet k.val 1 } }.setFld (Addr.bcSliceStat k.val) 0 2 1).unitLeft
          .slice k.val 0
    else s
  else if !fails && decide (KMap.get 0 s.ctl.rel.sliceRet k.val < 2) then
    (s.mapCtl fun c => c.setFld (Addr.bcSliceStat k.val) 0 2 0).returnedRecord .slice k.val true
  else s
def State.bootStack (s : State) (fails : Bool) (k : Fin 12) : State :=
  let a := Addr.hbmStat k.val
  if s.ctl.stackState k.val = 0 then
    if fails then s.retireStack k else s.mapCtl fun c => c.setBit a 2 true
  else if !fails && decide (KMap.get 0 s.ctl.rel.stackRet k.val < 2) then
    (s.mapCtl fun c => (c.setFld a 0 2 0).setBit a 2 true).returnedRecord .stack k.val true
  else s

/-- The journal at BOOT: rebuilt from its mirrors after a warm reset (R285), empty otherwise; one that is lost ends in SAFE. -/
def State.bootRing (s : State) : State :=
  if s.ctl.dev.jnlLost then s.loseJournal else if s.ctl.dev.boot = .warm then s.rebuildJournal else s

/-- RESERVE as the newer copy of the summit book holds it (R494). -/
def Sec.newestReserve (x : Sec) : Nat := if x.copyA.1 < x.copyB.1 then x.copyB.2 else x.copyA.2

/-- What every start sets before its checks: the sealed attribute where SEAL_AT_BOOT is burned (R505), the identity leaf (R494), and,
but for a warm reset, the next ML-KEM key pair (R498). -/
def Ctl.bootSecurity (c : Ctl) : Ctl :=
  let sl := c.dev.sealed || Config.sealAtBoot
  { c with
    dev := { c.dev with sealed := sl, dbgLocked := c.dev.dbgLocked || sl }
    sec := { c.sec with q := c.sec.newestReserve, reserve := c.sec.newestReserve
                        boots := if c.dev.boot = .warm then c.sec.boots else c.sec.boots + 1 } }

/-- The rest of step 3: the security engine, Guide self-test, firmware, summit book, journal (R23, R491, R494, R498, R505, R511, R513). -/
def State.bootGuide (s : State) (failing : List UnitRef) : State :=
  let warm := s.ctl.dev.boot == .warm
  let s := s.mapCtl Ctl.bootSecurity
  let s :=
    if warm then s
    else
      let a := !failing.contains (.guide 0)
      let b := !failing.contains (.guide 1)
      let s := s.mapCtl fun c => { c with dev := { c.dev with guideA := a, guideB := b } }
      let s := if a then s else s.unitLeft .guide 0 0
      if b then s else s.unitLeft .guide 1 0
  if !s.ctl.dev.guideA && !s.ctl.dev.guideB then s.enterSafe 1
  else if failing.contains .firmware then s.enterSafe 5
  else match s.ctl.startFirmware with
    | (c, false) => (s.mapCtl fun _ => c).enterSafe 5
    | (c, true) =>
      let s := s.mapCtl fun _ => c
      if s.ctl.dev.sbLost || (!warm && failing.contains .summitBook) then
        (s.mapCtl fun c => { c with dev := { c.dev with sbLost := true } }).enterSafe 2
      else s.bootRing

/-- Step 4: cores run self-test; after a cold reset or power-on slices are tested. -/
def State.bootCores (s : State) (failing : List UnitRef) : State :=
  let s := ((List.finRange 384).filter fun c => failing.contains (.core c) && !s.ctl.coreOut c.val).foldl
    (fun (s : State) c => s.quarantine c 5 none) s
  if s.ctl.dev.boot = .warm then s
  else ((List.finRange 32).foldl (fun (s : State) k => s.bootSlice (failing.contains (.slice k)) k) s).bootJournal

/-- The security engine draws the HBM controllers' key pair from its random generator and loads it (R297). -/
def State.drawHbmKey (s : State) : State :=
  let t := s.tick
  t.tick.mapCtl fun c => { c with sec := { c.sec with hbmKey := some (s.free ++ t.free) } }

/-- Step 5: after a cold reset or power-on the stacks are trained and tested; after a warm reset they leave self-refresh. -/
def State.bootStacks (s : State) (failing : List UnitRef) : State :=
  if s.ctl.dev.boot = .warm then s.mapCtl fun c => { c with dev := { c.dev with selfRefresh := false } }
  else (List.finRange 12).foldl (fun (s : State) k => s.bootStack (failing.contains (.stack k)) k) s.drawHbmKey

/-- Step 6: laser modules on, host ports and Meloend ports train; a host port that does not fail reaches UP, a Meloend port
awaits its neighbour (R345, log 26). SAFE when no host port is UP. -/
def State.bootPorts (s : State) (failing : List UnitRef) : State :=
  let s := (List.finRange 12).foldl (fun (s : State) k =>
    let l := s.ctl.laser k
    let serial := if l.serial = 0 then Config.laserSerial k else l.serial
    if !l.present then s
    else if failing.contains (.laser k) then
      (s.mapCtl fun c => c.setLaser k { l with state := .fault, serial := serial }).unitLeft .laser k.val 0
    else s.mapCtl fun c => c.setLaser k { l with state := .on, serial := serial }) s
  let lit (k : LaserId) : Bool := (s.ctl.laser k).state == .on
  let s := (List.finRange 16).foldl (fun (s : State) p =>
    if !s.ctl.pEn p then s.mapCtl fun c => c.setPort p ((c.port p).idle .off 1)
    else if failing.contains (.mport p) || !lit (laserOfM p) then
      if (s.ctl.axisOf p).isSome then
        (s.mapCtl fun c => c.setPort p ((c.port p).idle .down 2)).unitLeft .mport p.val 2
      else s
    else s.mapCtl fun c => c.startTraining p) s
  let s := (List.finRange 8).foldl (fun (s : State) p =>
    if !s.ctl.bit (Addr.eloPcfg p.val) 0 then s.mapCtl fun c => c.setHPort p ⟨.off, 1, [], (c.hport p).sak⟩
    else if failing.contains (.hport p) || !lit (laserOfH p) then
      (s.mapCtl fun c => c.setHPort p ⟨.down, 2, [], (c.hport p).sak⟩).unitLeft .hport p.val 2
    else s.mapCtl fun c => c.setHPort p ⟨.up, 0, [], (c.hport p).sak⟩) s
  if (List.finRange 8).any fun p => s.ctl.hportUp p then s else s.enterSafe 4

/-- What the Guide does with the steps of jobs after a warm reset (R323, R385): it finishes R319, a command whose flip happened
completes with OK, and one whose end the reset decided ends instead of resuming. -/
def State.resumeSteps (s : State) : State :=
  let s := ((List.range 16).filter fun j => s.ctl.bit (Addr.jobF j) 0).foldl (fun (s : State) j => s.settleTable j) s
  let go := s.ctl.jnl.cmds.filter fun m => m.phase == .running && m.op == 1
  go.foldl (fun (s : State) m => match m.doom with
    | some st => s.finish m st
    | none =>
      if m.stepKind ≠ 0 ∧ s.jobVersion m.job = (m.body.expectVer.toNat + 1) % 2 ^ 48 then s.finish m stOK 0 true else s) s

/-- One step of start-up with the units that fail at its bound. -/
def State.bootStep (s : State) (failing : List UnitRef) : State :=
  let n := s.ctl.dev.bootStep
  if s.ctl.dev.dstate ≠ .boot ∨ 7 ≤ n then s
  else
    let s :=
      if n = 3 then
        let s := s.bootGuide failing
        if s.ctl.dev.dstate = .boot then s.bootCores failing else s
      else if n = 4 then s.bootStacks failing
      else if n = 5 then s.bootPorts failing
      else
        let s := s.mapCtl fun c => { c with dev := { c.dev with bootMs := c.dev.sinceT0 / 1000 } }
        if s.ctl.dev.boot = .warm then s.resumeSteps else s
    if s.ctl.dev.dstate = .boot then (s.mapCtl fun c => { c with dev := { c.dev with bootStep := n + 1 } }).cut else s

/-- What the S4 does on an empty queue: start-up goes on with every unit passing; otherwise it idles (log 2). -/
def State.idleStep (s : State) : State := s.bootStep []

/-- Start-up from step 3 to the bound of step 6, with the units that fail; step 7 comes with the next step of the block, or does not
come by its bound (R511). -/
def State.bootAll (s : State) (failing : List UnitRef) : State :=
  ((s.bootStep failing).bootStep failing).bootStep failing

/-- BOOT_STEP_DEADLINE (R511): the bound of the next step passes; the units that fail it leave service, and a step 7 that is
not reached ends in SAFE. -/
def execBootStepDeadline (failing : List UnitRef) (s : State) : Host.Outcome State Fault Refusal :=
  .next (
    if s.ctl.dev.dstate = .boot ∧ s.ctl.dev.bootStep = 6 ∧ failing ≠ [] then s.enterSafe 4 else s.bootStep failing)

/-! ### Power-on (R25, R528, R531) -/

/-- Power-on, which ends the sealed attribute (R29, R505), from OFF once 3V3_AUX, MOD_PWR_EN, MOD_PWR_OK and an input of 40 V to 60 V are there and the dwell has run. -/
def State.tryPower (s : State) (failing : List UnitRef) : State :=
  let p := s.ctl.pins
  if s.ctl.dev.dstate = .off && p.aux && p.pwrEn && p.pwrOk && p.vinRange && !p.over60 && !p.offHold then
    let s := s.mapCtl fun c =>
      ({ c with dev := { c.dev with powerOns := c.dev.powerOns + 1, jnlLost := false, sealed := false, dbgLocked := false } }).readBack
    (s.enterBoot .powerOn 0 false).bootAll failing
  else s

def State.setPins (s : State) (f : Pins → Pins) : State := s.mapCtl fun c => { c with pins := f c.pins }

/-- MOD_PWR_EN_ASSERT (R528). -/
def execModPwrEnAssert (failing : List UnitRef) (s : State) : Host.Outcome State Fault Refusal :=
  .next ((s.setPins fun p => { p with pwrEn := true }).tryPower failing)

/-- MOD_PWR_OK_ASSERT (R528): MOD_PWR_OK is asserted, or the input enters its range, with MOD_PWR_EN asserted. -/
def execModPwrOkAssert (failing : List UnitRef) (s : State) : Host.Outcome State Fault Refusal :=
  .next ((s.setPins fun p => { p with pwrEn := true, pwrOk := true, vinRange := true }).tryPower failing)

/-- OFF_HOLD_EXPIRY (R531 step 9). -/
def execOffHoldExpiry (s : State) : Host.Outcome State Fault Refusal :=
  .next ((s.setPins fun p => { p with offHold := false }).tryPower [])

/-- AUX_POWER_PRESENT (R510 steps 1 and 2). -/
def execAuxPowerPresent (s : State) : Host.Outcome State Fault Refusal :=
  .next ((s.setPins fun p => { p with aux := true }).tryPower [])

/-- AUX_POWER_LOST (R531): the management port stops answering; no device state changes. -/
def execAuxPowerLost (s : State) : Host.Outcome State Fault Refusal :=
  .next ((s.setPins fun p => { p with aux := false }).mapCtl fun c => { c with mgmt := ⟨none, none⟩ })

/-- VIN_OVERVOLTAGE (R530). -/
def execVinOvervoltage (s : State) : Host.Outcome State Fault Refusal :=
  .next (s.setPins fun p => { p with over60 := true })

/-- VIN_OVERVOLTAGE_CLEAR (R530). -/
def execVinOvervoltageClear (s : State) : Host.Outcome State Fault Refusal :=
  .next (s.setPins fun p => { p with over60 := false })

/-- MOD_ALERT_N is asserted (R530): in SAFE until the next BOOT, or above 60 V, with 3V3_AUX present. -/
def Ctl.alert (c : Ctl) : Bool := c.pins.aux && (c.pins.alertSafe || c.pins.over60)

/-! ### Stopping work (R459 steps 1 and 2, R512) -/

/-- The open group operations of every running command are left (R382, R459). -/
def State.leaveAll (s : State) : State :=
  ((s.ctl.coll.ops.map (·.cmd)).eraseDups).foldl (fun (s : State) k => s.leaveOps k kLEFT) s

/-- Cores stop; no commit reaches its commit point; probe runs end. -/
def State.stopWork (s : State) : State :=
  let s := s.leaveAll
  let s := ({ s with cores := s.cores.map Core.haltNow }).dropRuns
  s.mapCtl fun c => { c with txn := { c.txn with queued := [], running := none }, flows := [] }

/-- Every port and laser module is turned off. -/
def State.portsDark (s : State) : State :=
  let s := (List.finRange 16).foldl (fun (s : State) p =>
    if (s.ctl.port p).state = .off then s else s.portOff p 0) s
  s.mapCtl fun c =>
    let c := (List.finRange 8).foldl (fun (c : Ctl) p => if (c.hport p).state = .off then c else c.hostOff p 0) c
    { c with links := { c.links with lasers := c.links.lasers.map Laser.dark } }

/-! ### Resets (R512 to R514) -/

/-- A reset of any class is ignored in OFF and from the start of stage C (R513, R528). -/
def Ctl.mayReset (c : Ctl) : Bool := c.dev.dstate != .off && decide (c.dev.stage < 3)

/-- RETREAT_STAGE: stage and input (R458). -/
def State.stageEvent (s : State) (stage : Nat) : State :=
  s.raise evRETREAT_STAGE
    (BitVec.ofNat 8 stage ++ (0 : BitVec 8) ++ BitVec.ofNat 16 s.ctl.pow.vin.toNat ++ (0 : BitVec 96))

/-- Cold reset: the actions of retreat steps 1 and 2 (the latter announces stage D, log 98), the tail, then BOOT from step 3. -/
def State.coldReset (s : State) (cause : Nat) : State :=
  if s.ctl.mayReset then
    let maint := cause == 2 && s.ctl.bit Addr.gcfg 1
    let s := (s.stopWork.stageEvent 4).portsDark.writeTail.volatileLost false
    let s := s.mapCtl fun c => ({ c with dev := { c.dev with jnlLost := false } }).readBack
    s.enterBoot .cold cause maint
  else s

/-- A core across a warm reset (R514): tiles FREE, tile buffers cleared, ledge lost; everything else is kept. -/
def Core.warm (c : Core) : Core :=
  { c.haltNow with
    ledge := [], tiles := Vector.replicate 16 Tile.reset, spills := [], vb := Vector.replicate 4 ⟨[], 0, 0⟩
    run := .idle, prog := none, armed := Vector.replicate 4 0 }

/-- A replay point of an attempt below the current ATTEMPT does not count (R514). -/
def State.warmCmd (s : State) (m : Cmd) : Cmd :=
  let floor : Nat := match s.ctl.jobEntry m.job with
    | some j => if m.stepKind = 1 then vrAttempt s.mem (s.ctl.vr j) * 2 ^ 24 else 0
    | none => 0
  { m with
    -- an attempt or ADOPT that awaits its decision resumes from its last replay points (R516)
    phase := if m.phase = .deciding then .running else m.phase
    placement := m.placement.map fun x =>
      if x.halted.isNone ∨ m.phase = .deciding then { x with core := none, halted := none } else x
    rpoints := m.rpoints.filter fun r => floor ≤ r.2.toNat
    -- a command with an operation open at the reset ends with ABORTED_STALL on resumption (R385)
    doom := if m.doom.isNone && s.ctl.coll.ops.any (fun o => o.cmd = m.key) then some stABORTED_STALL else m.doom }

/-- The outcome of a closed transaction is remembered, of the last 16 (R430). -/
def Session.remember (ses : Session) (id : BitVec 64) (st : Status) : Session :=
  { ses with closed := ((id, st) :: ses.closed).take 16 }

/-- An event closes the open transaction. -/
def Session.closeTxn (ses : Session) (id : BitVec 64) (st : Status) : Session := { ses.remember id st with txn := none }

/-- A session across a warm reset: its keys and queues are kept, it is to be resumed and attested again, and its open
transaction is aborted (R403, R432). -/
def Session.warm (ses : Session) : Session :=
  let ses := match ses.txn with
    | some t => ses.closeTxn t.id stTXN_CONFLICT
    | none => ses
  { ses with state := if ses.state = .closing then .closing else .opened, admin := false }

/-- Step 7 of a commit (R433): the number of commits, the snapshot of the new version, the stamps of the words that it changed. -/
def State.commitDone (s : State) (m : Commit) : State :=
  let s := (s.mapCtl fun c => { c with txn := { c.txn with commits := c.txn.commits + 1 } }).cut
  s.mapCtl fun c => { c with txn := { c.txn with
    stamp := m.changed.foldl (fun (k : KMap Word) a => KMap.set 0 k a s.snapVer) c.txn.stamp } }

/-- Ends the commit in progress as a warm reset does (R434): before the commit point it never took place, after it it stands. -/
def Ctl.abandonCommit (c : Ctl) : Ctl :=
  let close (c : Ctl) (slot : Nat) (id : BitVec 64) (st : Status) : Ctl :=
    match (c.elo.sessions.find? fun e => e.1 = slot) with
    | some e => c.setSession slot (e.2.remember id st)
    | none => c
  let c := c.txn.queued.foldl (fun (c : Ctl) e =>
    if (c.elo.sessions.any fun x => x.1 = e.1 && x.2.closed.any fun y => y.1 = e.2.2.id) then c
    else close c e.1 e.2.2.id stTXN_CONFLICT) c
  match c.txn.running with
  | none => { c with txn := { c.txn with queued := [] } }
  | some m =>
    let st := if m.applying then stOK else stTXN_CONFLICT
    let c := close c m.slot m.txn.id st
    { c with txn := { c.txn with running := none, queued := [] } }

/-- The control plane across a warm reset (R514). -/
def State.warmCtl (s : State) : Ctl :=
  let c := s.ctl.abandonCommit
  { c with
    elo := { c.elo with sessions := c.elo.sessions.map fun e => (e.1, e.2.warm) }
    jnl := { c.jnl with cmds := (c.jnl.cmds.filter (·.accepted)).map fun m => s.warmCmd m, owedAcks := [] }
    links := { c.links with ring := [], wmap := [] }
    coll := { c.coll with
      ops := [], held := [], early := []
      nextSeq := c.coll.ops.foldl (fun (m : KMap (BitVec 32)) o =>
        if (o.key.seq - KMap.get 0 m o.grp.qkey).toNat < 2 ^ 31 then KMap.set 0 m o.grp.qkey (o.key.seq + 1) else m) c.coll.nextSeq
      past := c.coll.past.map fun o => { o with core := none, waiting := false } }
    pow := { c.pow with clk := [], guideSlow := false, recent := [], dynUj := 0, coreUj := [], missed := 0, kept := 0, fallback := false, hotCores := [] }
    rel := { c.rel with psAct := none }
    sec := { c.sec with act := none, rtAct := none }
    mgmt := ⟨none, none⟩
    flows := [] }

/-- A cold reset of MOD_RESET_N has not reached the end of step 7: it proceeds whatever the pin does (R512). -/
def Ctl.pinResetRuns (c : Ctl) : Bool :=
  c.dev.dstate == .boot && c.dev.boot == .cold && c.dev.lastReset == 1 && decide (c.dev.bootStep < 7)

/-- MOD_RESET_N_ASSERT (R512, R528): low for 10 us. A pin held low starts no second reset, nor does one while the reset that it
started runs. -/
def execModResetNAssert (s : State) : Host.Outcome State Fault Refusal :=
  .next (
    let go := s.ctl.pins.armed && !s.ctl.pinResetRuns
    let s := s.setPins fun p => { p with resetLow := true, armed := false }
    if go then s.coldReset 1 else s)

/-- MOD_RESET_N_DEASSERT (R528): high for 10 us. -/
def execModResetNDeassert (s : State) : Host.Outcome State Fault Refusal :=
  .next (s.setPins fun p => { p with resetLow := false, armed := true })

/-! ### The retreat ladder (R458 to R462) -/

def State.setStage (s : State) (n : Nat) : State := s.mapCtl fun c => { c with dev := { c.dev with stage := n } }
def State.setVin (s : State) (v : BitVec 12) : State := s.mapCtl fun c => { c with pow := { c.pow with vin := v } }

/-- A state of R25 in which stage A moves the S4 to RETREAT. -/
def admitting (d : DState) : Bool := d == .admitted || d == .service || d == .degraded

/-- Enters a state after BOOT; while stage A or B holds, it is RETREAT at once (R25, R458). -/
def State.enterUp (s : State) (d : DState) : State :=
  if s.ctl.dev.stage = 1 ∨ s.ctl.dev.stage = 2 then
    (s.mapCtl fun c => { c with dev := { c.dev with prev := d, leftRetreat := false } }).setDState .retreat
  else s.setDState d

/-- Admission opens (R25): SERVICE, or DEGRADED while a unit is out of service. -/
def State.openAdmission (s : State) : State := s.enterUp (if s.ctl.unitsOut then .degraded else .service)

/-- Stage A begins. -/
def State.stageA (s : State) : State :=
  let d := s.ctl.dev.dstate
  if (admitting d || d == .boot) && s.ctl.dev.stage == 0 then
    let s := (s.mapCtl fun c => c.bump Addr.pwrVin 12 16 1).setStage 1
    let s := if admitting d then
        (s.mapCtl fun c => { c with dev := { c.dev with prev := d, leftRetreat := false } }).setDState .retreat
      else s
    s.stageEvent 1
  else s

/-- RETREAT_STAGE_A (R458). -/
def execRetreatStageA (vin20mv : BitVec 12) (s : State) : Host.Outcome State Fault Refusal :=
  .next ((s.setVin vin20mv).stageA)

/-- RETREAT_STAGE_B (R455, R458): core clocks at most 350 MHz; probe runs end. -/
def execRetreatStageB (vin20mv : BitVec 12) (s : State) : Host.Outcome State Fault Refusal :=
  .next (
    let s := (s.setVin vin20mv).stageA
    if s.ctl.dev.stage = 1 then
      let cs := s.ctl.rel.runs.map (·.core)
      let s := cs.foldl (fun (s : State) c => s.abandonProbe c) (s.setStage 2)
      (s.noteSlow).stageEvent 2
    else s)

/-- RETREAT_LEAVE_B (R458). -/
def execRetreatLeaveB (vin20mv : BitVec 12) (s : State) : Host.Outcome State Fault Refusal :=
  .next (
    let s := s.setVin vin20mv
    if s.ctl.dev.stage = 2 then (s.setStage 1).cut else s)

/-- RETREAT_RECOVER (R25, R27, R458): before stage C the S4 returns to the state held before, or to DEGRADED if a unit left
meanwhile, be it back by then (log 165). -/
def execRetreatRecover (vin20mv : BitVec 12) (s : State) : Host.Outcome State Fault Refusal :=
  .next (
    let s := s.setVin vin20mv
    if s.ctl.dev.stage = 1 ∨ s.ctl.dev.stage = 2 then
      let s := s.setStage 0
      if s.ctl.dev.dstate = .retreat then
        let d := s.ctl.dev.prev
        s.setDState (if s.ctl.dev.leftRetreat = true ∨ (d = .service ∧ s.ctl.unitsOut = true) then .degraded else d)
      else s
    else s)

/-- Entry to OFF: everything volatile is lost. The sealed attribute stays set until the next power-on (R29, R514). -/
def State.toOff (s : State) : State :=
  let s := s.volatileLost true
  let s := s.mapCtl fun c =>
    { c with dev := { c.dev with dstate := .off, prev := .off, stage := 0, recovery := false, relocate := false, leftRetreat := false,
                                 selfRefresh := false, halted := false, uptime := 0, sinceT0 := 0, maint := false } }
  { s with snap := s.ctl }

/-- Stages C to F (R459): work stops, the stages are announced, ports and laser modules go dark, the tail is written, and the S4
is in OFF. -/
def State.ladder (s : State) : State :=
  let s := s.setStage 3
  let s := if s.ctl.dev.dstate = .safe then s else s.setDState .retreat
  let s := (s.stageEvent 3).stopWork.mapCtl fun c => { c with dev := { c.dev with selfRefresh := true } }
  let s := ((s.setStage 4).stageEvent 4).portsDark
  let s := (s.setStage 5).writeTail
  (s.setStage 6).toOff.setPins fun p => { p with offHold := true }

/-- RETREAT_STAGE_C (R459): input below 38 V, or MOD_PWR_OK or MOD_PWR_EN deasserted. An input of 38 V or more says that a pin
was deasserted, which the model takes as MOD_PWR_EN (log 27). -/
def execRetreatStageC (vin20mv : BitVec 12) (s : State) : Host.Outcome State Fault Refusal :=
  .next (
    if s.ctl.dev.dstate = .off then s
    else
      let s := (s.setVin vin20mv).ladder
      s.setPins fun p => { p with
        vinRange := decide (2000 ≤ vin20mv.toNat)
        pwrEn := p.pwrEn && decide (vin20mv.toNat < 1900) })

/-- INPUT_POWER_LOST (R25, R50): the S4 is in OFF, with the summit book as its last batch left it. -/
def execInputPowerLost (s : State) : Host.Outcome State Fault Refusal :=
  .next (
    if s.ctl.dev.dstate = .off then s.setPins fun p => { p with vinRange := false }
    else s.toOff.setPins fun p => { p with vinRange := false, over60 := false })

end Sys2Proof.Machine
end

