-- ==== Sys2Proof/Machine/Chain.lean ====
section
/-! DEFINITION. Fused vector chains (06; 09 R251 to R257): the chain descriptor, the checks of R174, the stage operations of
R159, masks, permutations, reductions in the fixed tree of R170, compacting outputs and tile buffers. -/
namespace Sys2Proof.Machine

/-! ### The chain descriptor (R252 to R257) -/

/-- A stage word (R255). -/
structure ChStage where
  op   : Nat
  sfmt : Nat
  sub  : Nat
  a    : Nat
  b    : Nat
  c    : Nat
  rest : Nat

/-- An input entry (R254). -/
structure ChIn where
  desc   : BitVec 4
  tord   : Bool
  rowlen : Nat
  rest   : Nat

/-- An element output entry (R254). -/
structure ChOut where
  desc   : BitVec 4
  src    : Nat
  rowStg : Nat
  colStg : Nat
  rest   : Nat

/-- A chain descriptor (R252, R253). -/
structure Chain where
  N : Nat
  L : Nat
  rmode : BitVec 3
  fsat : Bool
  isat : Bool
  mzero : Bool
  msrc : Nat
  minv : Bool
  mstg : Nat
  mdesc : BitVec 4
  rrmode : BitVec 3
  nin : Nat
  nout : Nat
  red : Bool
  rdesc : BitVec 4
  rstg : Nat
  ins : List ChIn
  outs : List ChOut
  stages : List ChStage
  sck : Nat
  scl : List Nat
  /-- the reserved parts, which must be zero -/
  reserved : Nat

def chWord (b : List Byte) (off : Nat) : Nat := ofLe ((b.drop off).take 8)

def parseStage (w : Nat) : ChStage :=
  ⟨bits w 0 6, bits w 6 3, bits w 9 4, bits w 13 6, bits w 19 6, bits w 25 6, w / 2 ^ 31⟩
def parseIn (w : Nat) : ChIn := ⟨BitVec.ofNat 4 w, w.testBit 4, bits w 5 17, w / 2 ^ 22⟩
def parseOut (w : Nat) : ChOut := ⟨BitVec.ofNat 4 w, bits w 4 3, bits w 7 3, bits w 10 3, w / 2 ^ 13⟩

/-- The copied 256 bytes as a chain (R252). -/
def parseChain (b : List Byte) : Chain :=
  let ctl := chWord b 0
  let aux := chWord b 8
  let nstg := bits ctl 50 3 + 1
  let nin := bits aux 10 3
  let nout := bits aux 13 2
  let wordsAt (off n : Nat) : List Nat := (List.range n).map fun i => chWord b (off + 8 * i)
  { N := bits ctl 0 25, L := bits ctl 25 25, rmode := BitVec.ofNat 3 (bits ctl 53 3), fsat := ctl.testBit 56,
    isat := ctl.testBit 57, mzero := ctl.testBit 58, msrc := bits ctl 59 2, minv := ctl.testBit 61,
    mstg := bits aux 0 3, mdesc := BitVec.ofNat 4 (bits aux 3 4), rrmode := BitVec.ofNat 3 (bits aux 7 3), nin := nin,
    nout := nout, red := aux.testBit 15, rdesc := BitVec.ofNat 4 (bits aux 16 4), rstg := bits aux 20 3,
    ins := ((wordsAt 0x20 4).take nin).map parseIn, outs := ((wordsAt 0x40 2).take nout).map parseOut,
    stages := ((wordsAt 0x60 8).take nstg).map parseStage, sck := chWord b 0x10, scl := wordsAt 0xA0 8,
    reserved := ctl / 2 ^ 62 + aux / 2 ^ 23 + chWord b 0x10 / 2 ^ 48 + chWord b 0x18
      + (((wordsAt 0x20 4).drop nin) ++ ((wordsAt 0x40 2).drop nout) ++ wordsAt 0x50 2 ++ ((wordsAt 0x60 8).drop nstg)
          ++ wordsAt 0xE0 4).foldl (· + ·) 0 }

/-- Stage formats (R255) as FMT numbers of R195. -/
def sfmtFmt (s : Nat) : Nat :=
  match s with
  | 0 => 0 | 1 => 1 | 2 => 2 | 3 => 3 | 4 => 6 | 5 => 7 | _ => 8
/-- A FMT is an integer format. -/
def isInt (f : Nat) : Bool := f == 6 || f == 7 || f == 8
/-- Width of an integer format in bits. -/
def intWidth (f : Nat) : Nat := if f = 6 then 32 else if f = 7 then 16 else 8
/-- Formats that element streams may have (R157). -/
def chainFmt (f : Nat) : Bool := f ≤ 8

/-- Every value of format `src` is representable in the stage format (R157). -/
def widens (src dst : Nat) : Bool :=
  src == dst ||
  match dst with
  | 0 => src ≤ 8
  | 1 => src == 2 || src == 3 || src == 4 || src == 5 || src == 7 || src == 8
  | 2 => src == 4 || src == 5 || src == 8
  | 3 => src == 4 || src == 5 || src == 8
  | 6 => src == 7 || src == 8
  | 7 => src == 8
  | _ => false

/-- How many operands an operation takes (R159). -/
def opArity (op : Nat) : Nat :=
  if op = 0x04 ∨ op = 0x17 then 3
  else if op = 0x1E then 0
  else if op = 0x0A ∨ op = 0x0B ∨ op = 0x0C ∨ op = 0x0D ∨ op = 0x0E ∨ op = 0x0F ∨ op = 0x12 ∨ op = 0x13 ∨ op = 0x14 ∨ op = 0x15
      ∨ 0x20 ≤ op then 1
  else 2

/-- An operation is a reduction (R256). -/
def opRed (op : Nat) : Bool := decide (0x21 ≤ op) && decide (op ≤ 0x28)

/-- The operation exists in the stage format (R159, R169): not a dash. -/
def opIn (op f : Nat) : Bool :=
  let fp := f ≤ 3
  if op = 0x04 ∨ op = 0x07 ∨ op = 0x08 ∨ op = 0x09 ∨ op = 0x0A ∨ op = 0x10 ∨ op = 0x11 ∨ op = 0x12 ∨ op = 0x13 ∨ op = 0x14
      ∨ op = 0x22 ∨ op = 0x25 ∨ op = 0x26 then fp
  else if op = 0x0B ∨ op = 0x0C ∨ op = 0x0D then f == 1
  else if (0x18 ≤ op ∧ op ≤ 0x1D) ∨ op = 0x27 ∨ op = 0x28 then !fp
  else if op = 0x1E then f == 6
  else true

/-- SUB of a stage is legal (R256). -/
def subOk (st : ChStage) (f : Nat) : Bool :=
  if st.op = 0x16 then (!isInt f || decide (st.sub < 6))
  else if st.op = 0x20 then decide (st.sub < 4)
  else st.sub == 0

/-- Result format of a stage: CLASS gives INT32 (R159). -/
def resFmt (st : ChStage) : Nat := if st.op = 0x14 then 6 else sfmtFmt st.sfmt

/-- Format of an operand source that is not a scalar or mask; none where the source names nothing readable. -/
def srcFmt (ch : Chain) (ds : Nat → Desc) (me src : Nat) : Option Nat :=
  if 0x10 ≤ src ∧ src ≤ 0x13 then (ch.ins[src - 0x10]?).map fun i => (ds i.desc.toNat).fmt
  else if 0x20 ≤ src ∧ src ≤ 0x27 then
    let s := src - 0x20
    if s < me then
      match ch.stages[s]? with
      | some st => if st.op = 0x16 ∨ opRed st.op then none else some (resFmt st)
      | none => none
    else none
  else none

/-- One operand is legal (R156, R157): a scalar, or a readable source whose format widens, an index too; for CVT any format; for
the second operand of SCALEB INT32; for SEL a CMP stage before it, or the mask, which must not come
from its own or a later stage (R156). -/
def operandOk (ch : Chain) (ds : Nat → Desc) (me : Nat) (st : ChStage) (k src : Nat) : Bool :=
  let f := sfmtFmt st.sfmt
  if st.op = 0x17 ∧ k = 0 then
    (src == 0x3F && (ch.msrc != 2 || decide (ch.mstg < me))) || (decide (0x20 ≤ src) && decide (src ≤ 0x27) && decide (src - 0x20 < me) &&
      (match ch.stages[src - 0x20]? with
       | some s => s.op == 0x16
       | none => false))
  else if 0x30 ≤ src ∧ src ≤ 0x37 then true
  else match srcFmt ch ds me src with
    | none => false
    | some g =>
      chainFmt g &&
      (if st.op = 0x15 then true
       else if st.op = 0x11 ∧ k = 1 then g == 6
       else widens g f)

/-- A stage is legal. -/
def stageOk (ch : Chain) (ds : Nat → Desc) (me : Nat) (st : ChStage) : Bool :=
  let n := opArity st.op
  let f := sfmtFmt st.sfmt
  st.rest == 0 && decide (1 ≤ st.op) && decide (st.op ≤ 0x28) && st.sfmt != 7 && subOk st f && opIn st.op f &&
    (if n ≥ 1 then operandOk ch ds me st 0 st.a else st.a == 0) &&
    (if n ≥ 2 then operandOk ch ds me st 1 st.b else st.b == 0) &&
    (if n ≥ 3 then operandOk ch ds me st 2 st.c else st.c == 0)

/-- The descriptor register that a fault of a stage concerns (R198): that of the first input stream among its operands that it
cannot take. -/
def stageDesc (ch : Chain) (ds : Nat → Desc) (me : Nat) (st : ChStage) : BitVec 4 :=
  match (([st.a, st.b, st.c].take (opArity st.op)).zipIdx.find? fun p =>
      decide (0x10 ≤ p.1) && decide (p.1 ≤ 0x13) && !operandOk ch ds me st p.2 p.1) with
  | some p => (ch.ins[p.1 - 0x10]?).elim 0xF ChIn.desc
  | none => 0xF

/-- The stage a number names produces elements that an output may take. -/
def outSrc (ch : Chain) (s : Nat) : Option ChStage :=
  match ch.stages[s]? with
  | some st => if st.op = 0x16 ∨ opRed st.op then none else some st
  | none => none

/-- An element output entry is legal (R172, R254). -/
def outOk (ch : Chain) (ds : Nat → Desc) (o : ChOut) : Bool :=
  let f := (ds o.desc.toNat).fmt
  o.rest == 0 &&
  (if f = fmtSADD then
      (match outSrc ch o.src, outSrc ch o.rowStg, outSrc ch o.colStg with
       | some v, some r, some c => resFmt v == 1 && resFmt r == 6 && resFmt c == 6
       | _, _, _ => false)
   else chainFmt f && o.rowStg == 0 && o.colStg == 0 && (outSrc ch o.src).isSome)

/-- A condition on every item of a list; a failure names the item's descriptor register. -/
def needAll {α : Type} (dn : α → BitVec 4) (sub : BitVec 16) (ok : α → Bool) : List α → Except TrapC Unit
  | [] => .ok ()
  | a :: l => do
    need (ok a) (descTrap sub (dn a))
    needAll dn sub ok l

/-- The checks of R174 and R251 on the copied descriptor and the copied stream descriptors. A breach of R155 traps with
0x0004, one of R161 or the static one of R167 with 0x0009, every other fault of the chain with 0x000F (R251). A reserved
RMODE is a reserved field of the chain descriptor, so it raises this data trap and no illegal-instruction trap (log 153,
DEDUCED from R174 and R251 against R76 and R200). An element output and a mask stream must have COUNT N (log 173, DESIGN
CHOICE: R155 and R162 state no trap for another COUNT). -/
def checkChain (c : Core) (v : Env) (e : QEntry) (ch : Chain) : Except TrapC Unit := do
  let ds (k : Nat) : Desc := e.rd (BitVec.ofNat 4 k)
  need (decide (1 ≤ ch.N) && decide (ch.N ≤ 2 ^ 24) && decide (1 ≤ ch.L) && decide (ch.L ≤ ch.N) && ch.N % ch.L == 0
    && decide (ch.nin ≤ 4)) (dataTrap 0x4)
  need (ch.reserved == 0 && decide (ch.nout ≤ 2) && ch.msrc != 3 && ch.rmode != 6 && ch.rmode != 7) (dataTrap 0xF)
  need ((List.range 8).all fun k => !(ch.sck.testBit (6 * k + 5)) || ch.scl.getD k 0 == 0) (dataTrap 0xF)
  need (ch.red || decide (1 ≤ ch.nout)) (dataTrap 0xF)
  let reds := (ch.stages.zipIdx.filter fun s => opRed s.1.op).map (·.2)
  need (reds == (if ch.red then [ch.rstg] else [])) (dataTrap 0xF)
  need (!ch.red || (ch.rrmode != 4 && ch.rrmode != 6 && ch.rrmode != 7)) (dataTrap 0xF)
  need (ch.ins.all fun i => i.rest == 0) (dataTrap 0xF)
  needAll ChIn.desc 0xF (fun i => chainFmt (ds i.desc.toNat).fmt) ch.ins
  needAll (fun s => stageDesc ch ds s.2 s.1) 0xF (fun s => stageOk ch ds s.2 s.1) ch.stages.zipIdx
  needAll (fun o => if chainFmt (ds o.desc.toNat).fmt then 0xF else o.desc) 0xF (outOk ch ds) ch.outs
  need (ch.msrc != 2 || (match ch.stages[ch.mstg]? with
    | some s => s.op == 0x16
    | none => false)) (dataTrap 0xF)
  need (ch.msrc != 1 || (ds ch.mdesc.toNat).fmt == 12) (descTrap 0xF ch.mdesc)
  needAll ChIn.desc 0xF (fun i => let n := (ds i.desc.toNat).count; n == ch.N || n == 1 || n == ch.L) ch.ins
  need (!ch.red || chainFmt (ds ch.rdesc.toNat).fmt) (descTrap 0xF ch.rdesc)
  needAll ChIn.desc 0xF (fun i => !i.tord || ((ds i.desc.toNat).space == 2 && decide (1 ≤ i.rowlen) && decide (i.rowlen ≤ 65536)))
    ch.ins
  -- counts of the destinations and of the mask
  needAll ChOut.desc 0xF (fun o => let d := ds o.desc.toNat; d.fmt == fmtSADD || d.count == ch.N) ch.outs
  need (!ch.red || (ds ch.rdesc.toNat).count == ch.N / ch.L) (descTrap 0xF ch.rdesc)
  need (ch.msrc != 1 || (ds ch.mdesc.toNat).count == ch.N) (descTrap 0xF ch.mdesc)
  -- an output's bytes in a tile buffer (R155); a compacting one holds COUNT entries at most (R196)
  needAll ChOut.desc 0x4 (fun o => let d := ds o.desc.toNat; d.space != 2 || decide (d.count * fmtSize d.fmt ≤ 65536)) ch.outs
  -- overlaps of R161
  let inRs := (ch.ins.map fun i => ds i.desc.toNat)
  let outDs := ch.outs.map fun o => ds o.desc.toNat
  let maskRs := if ch.msrc = 1 then (ds ch.mdesc.toNat).ranges else []
  let redRs := if ch.red then (ds ch.rdesc.toNat).ranges else []
  let outRs := (outDs.map ledgeRanges).flatten
  needAll ChOut.desc 0x9 (fun o => inRs.all fun i =>
    let o := ds o.desc.toNat
    !anyOverlap (ledgeRanges o) (ledgeRanges i) || (o.fmt == i.fmt && o.pay == i.pay && o.count == i.count)) ch.outs
  needAll ChOut.desc 0x9 (fun o => !anyOverlap (ledgeRanges (ds o.desc.toNat)) maskRs) ch.outs
  need (!anyOverlap redRs ((inRs.map ledgeRanges).flatten ++ maskRs ++ outRs)) (descTrap 0x9 ch.rdesc)
  need (match outDs with
    | [a, b] => !anyOverlap (ledgeRanges a) (ledgeRanges b) && !(a.space == 2 && b.space == 2 && a.pay == b.pay)
    | _ => true) (descTrap 0x9 ((ch.outs.map ChOut.desc).getD 1 0))
  needAll ChOut.desc 0x9 (fun o => !anyOverlap (ledgeRanges (ds o.desc.toNat)) c.spillAreas) ch.outs
  need (!anyOverlap redRs c.spillAreas) (descTrap 0x9 ch.rdesc)
  -- a chain writes a buffer that it also reads (R167)
  needAll ChOut.desc 0x9 (fun o => (ds o.desc.toNat).space != 2 ||
    (!(inRs.any fun i => i.space == 2 && i.pay == (ds o.desc.toNat).pay) &&
      !((ch.stages.filter fun s => s.op == 0x20).map ChStage.sub).contains (ds o.desc.toNat).pay)) ch.outs
  -- R196 on the ledge streams
  let chk (write : Bool) (k : BitVec 4) : Except TrapC Unit :=
    let d := e.rd k
    if d.space = 2 then do
      need (d.count != 0) (descTrap 0x4 k)
      need (decide (d.pay < 4)) (descTrap 0x2 k)
    else checkStream c v ledgeOnly (if write then .result else .source) k d
  let _ ← ch.ins.mapM fun i => chk false i.desc
  let _ ← ch.outs.mapM fun o => chk true o.desc
  if ch.msrc = 1 then checkStream c v ledgeOnly .source ch.mdesc (e.rd ch.mdesc) else pure ()
  if ch.red then checkStream c v ledgeOnly .result ch.rdesc (e.rd ch.rdesc) else pure ()

def Core.vbuf (c : Core) (k : Nat) : VBuf := if h : k < 4 then c.vb[k] else ⟨[], 0, 0⟩

/-- The tile-buffer conditions of R167 and R168 that see what a buffer holds. R167 names issue, and has the buffers' reads and
writes follow VEC queue order, so they are checked when the chain starts (log 7). -/
def checkBufs (c : Core) (e : QEntry) (ch : Chain) : Except TrapC Unit := do
  let d (k : BitVec 4) : Desc := e.rd k
  let reads := (ch.ins.filter fun i => (d i.desc).space == 2)
  let gathers := (ch.stages.filter fun s => s.op == 0x20).map (·.sub)
  needAll ChIn.desc 0x9 (fun i =>
    let b := c.vbuf (d i.desc).pay
    b.len != 0 && decide ((d i.desc).count ≤ b.len.toNat) && b.fmt.toNat == (d i.desc).fmt
      && (!i.tord || b.len.toNat % i.rowlen == 0)) reads
  need (gathers.all fun k => (c.vbuf k).len != 0) (dataTrap 0x9)
  need (ch.stages.all fun s => s.op != 0x20 || widens (c.vbuf s.sub).fmt.toNat (sfmtFmt s.sfmt)) (dataTrap 0xF)

/-! ### Values -/

/-- A pattern of a format as a floating-point value: exact for every format that widens. -/
def asFp (f b : Nat) : FVal :=
  match fmtFp f with
  | some g => decodeFp g b
  | none => FVal.ofRat ((toSigned (intWidth f) b : Int) : Rat)

/-- A pattern of a format as an integer. -/
def asInt (f b : Nat) : Int := if isInt f then toSigned (intWidth f) b else 0

/-- A value as the pattern of a format that holds it exactly; a signalling NaN stays signalling. ABS, NEG and COPYSIGN change
the sign of a NaN as IEEE 754 clause 5.5.1 has them do, and SEL, PERM and GATHER move a NaN unchanged, without INVALID; an
output conversion quietens it (log 156, DEDUCED: R60's rule is read as one for operations that compute). -/
def packFp (g : FpFmt) (v : FVal) : Nat :=
  match v with
  | .nan n q fr =>
    if q then encodeNan g n fr
    else (if n then g.signBit else 0) + g.infBits + max 1 (fr / 2 ^ (52 - g.mbits))
  | v => (roundRne g v).1

/-- An exact integer into an integer format by the wrap-or-saturate bit (R61). -/
def intoInt (f : Nat) (sat : Bool) (i : Int) : Nat × Flags :=
  if sat then
    let (j, cl) := clampSigned (intWidth f) i
    (ofSigned (intWidth f) j, if cl then fSat else 0)
  else (ofSigned (intWidth f) i, 0)

/-- Conversion of a pattern from format f to format g: CVT and the output conversions (R61, R77, R157). -/
def convert (f g b : Nat) (m : RMode) (fsat isat : Bool) : Nat × Flags :=
  match fmtFp g with
  | some gf => roundFp gf m fsat (asFp f b)
  | none => if isInt f then intoInt g isat (asInt f b) else fpToInt (intWidth g) m (asFp f b)

/-- A comparison of R159 on floating-point values. -/
def cmpFp (sub : Nat) (a b : FVal) : Bool × Flags :=
  let un := a.isNan || b.isNan
  let lt := !un && !eqV a b && ltTotal a b
  let eq := !un && eqV a b
  let r := match sub % 8 with
    | 0 => eq
    | 1 => !eq
    | 2 => lt
    | 3 => lt || eq
    | 4 => !un && !lt && !eq
    | 5 => !un && !lt
    | 6 => un
    | _ => !un
  (r, if a.isSnan || b.isSnan || (8 ≤ sub && un) then fInvalid else 0)

def cmpInt (sub : Nat) (a b : Int) : Bool :=
  match sub % 8 with
  | 0 => a == b
  | 1 => a != b
  | 2 => decide (a < b)
  | 3 => decide (a ≤ b)
  | 4 => decide (b < a)
  | _ => decide (b ≤ a)

/-- A floating-point stage operation on exact operands (R159). `n` is the integer operand of SCALEB. -/
def fpOp (g : FpFmt) (m : RMode) (op : Nat) (a b c : FVal) (n : Int) : Nat × Flags :=
  match op with
  | 0x01 => finishFp g m (addV m a b)
  | 0x02 => finishFp g m (subV m a b)
  | 0x03 => finishFp g m (mulV a b)
  | 0x04 => finishFp g m (fmaV m a b c)
  | 0x05 => finishFp g m (minmaxV false a b)
  | 0x06 => finishFp g m (minmaxV true a b)
  | 0x07 => finishFp g m (minmaxNumV false a b)
  | 0x08 => finishFp g m (minmaxNumV true a b)
  | 0x09 => finishFp g m (divV a b)
  | 0x0A => finishFp g m (sqrtV a)
  | 0x0B => finishFp g m (exp2V a)
  | 0x0C => finishFp g m (log2V a)
  | 0x0D => finishFp g m (rsqrtV a)
  | 0x0E => (packFp g (a.setNeg false), 0)
  | 0x0F => (packFp g (a.setNeg (!a.neg)), 0)
  | 0x10 => (packFp g (a.setNeg b.neg), 0)
  | 0x11 => finishFp g m (scalebV a n)
  | 0x12 => finishFp g m (logbV a)
  | 0x13 => finishFp g m (rintV m a)
  | 0x14 => (classV g a, 0)
  | _ => (packFp g a, 0)

/-- An integer stage operation (R159). -/
def intOp (f : Nat) (sat : Bool) (op : Nat) (a b : Int) : Nat × Flags :=
  let w := intWidth f
  let ua := ofSigned w a
  let ub := ofSigned w b
  match op with
  | 0x01 => intoInt f sat (a + b)
  | 0x02 => intoInt f sat (a - b)
  | 0x03 => intoInt f sat (a * b)
  | 0x05 => intoInt f sat (min a b)
  | 0x06 => intoInt f sat (max a b)
  | 0x0E => intoInt f sat a.natAbs
  | 0x0F => intoInt f sat (-a)
  | 0x18 => (ua &&& ub, 0)
  | 0x19 => (ua ||| ub, 0)
  | 0x1A => (ua ^^^ ub, 0)
  | 0x1B => intoInt f sat (a * 2 ^ (ub % w))
  | 0x1C => (ua / 2 ^ (ub % w), 0)
  | 0x1D => (ofSigned w (a / 2 ^ (ub % w)), 0)
  | _ => (ua, 0)

/-! ### Running a chain -/

/-- The results of a stage: its format and, per element, pattern and flags. A CMP stage has format 12 and patterns 0 or 1. -/
abbrev StageRes := Nat × List (Nat × Flags)

/-- Everything a chain reads, resolved. -/
structure ChainCtx where
  ch     : Chain
  e      : QEntry
  core   : Core
  rsel   : RSel
  stream : BitVec 32

/-- Element i of input n: the pattern, by count, order and space (R156, R168). -/
def ChainCtx.input (x : ChainCtx) (k i : Nat) : Nat :=
  match x.ch.ins[k]? with
  | none => 0
  | some inp =>
    let d := x.e.rd inp.desc
    let idx := if d.count = x.ch.N then i else if d.count = 1 then 0 else i % x.ch.L
    if d.space = 2 then
      let b := x.core.vbuf d.pay
      let j := if inp.tord then
          let rows := b.len.toNat / inp.rowlen
          idx % rows * inp.rowlen + idx / rows
        else idx
      Memory.readLe b.bytes (j * fmtSize d.fmt) (fmtSize d.fmt)
    else streamElem x.core.ledge d idx

/-- Scalar k as a pattern of a format (R257). -/
def ChainCtx.scalar (x : ChainCtx) (k f : Nat) : Nat :=
  let src := bits x.ch.sck (6 * k) 6
  let v := if src.testBit 5 then (x.e.rg (BitVec.ofNat 5 src)).toNat else x.ch.scl.getD k 0
  v % 2 ^ (8 * fmtSize f)

/-- An operand for element i: its format and pattern. A scalar takes the format `sf`. -/
def ChainCtx.operand (x : ChainCtx) (rs : List StageRes) (src sf i : Nat) : Nat × Nat :=
  if 0x10 ≤ src ∧ src ≤ 0x13 then
    ((x.ch.ins[src - 0x10]?).elim 0 fun inp => (x.e.rd inp.desc).fmt, x.input (src - 0x10) i)
  else if 0x20 ≤ src ∧ src ≤ 0x27 then
    let r := rs.getD (src - 0x20) (0, [])
    (r.1, (r.2.getD i (0, 0)).1)
  else if 0x30 ≤ src ∧ src ≤ 0x37 then (sf, x.scalar (src - 0x30) sf)
  else (sf, 0)

/-- The chain's mask for element i before MINV and with it (R162). -/
def ChainCtx.maskBit (x : ChainCtx) (rs : List StageRes) (i : Nat) : Bool :=
  let raw := match x.ch.msrc with
    | 1 => (x.core.ledge.read8 ((x.e.rd x.ch.mdesc).pay + i / 8)).toNat.testBit (i % 8)
    | 2 => ((rs.getD x.ch.mstg (12, [])).2.getD i (0, 0)).1 == 1
    | _ => true
  raw != x.ch.minv

/-- An index for element i (R165, R166), unsigned: an integer that widens into an integer stage is taken in the stage format
(R157), a scalar in the stage format (R257), any other in its own width (log 154, DEDUCED). -/
def ChainCtx.index (x : ChainCtx) (rs : List StageRes) (f src i : Nat) : Nat :=
  let p := x.operand rs src f i
  if isInt f ∧ widens p.1 f then ofSigned (intWidth f) (asInt p.1 p.2) else p.2

/-- The vector length of the beat of element i (R165). -/
def beatLen (N i : Nat) : Nat := min 128 (N - 128 * (i / 128))

/-- One element of one stage (R159, R164 to R166). A scalar as SCALEB's second operand is its low 32 bits (log 175, DEDUCED:
R159 makes that operand INT32, R257 gives a scalar in the stage format). -/
def ChainCtx.stageElem (x : ChainCtx) (rs : List StageRes) (s : Nat) (st : ChStage) (i : Nat) : Nat × Flags :=
  let f := sfmtFmt st.sfmt
  let m := x.rsel.mode x.e.seed (x.stream + BitVec.ofNat 32 s) i
  let opnd (src sf : Nat) : Nat × Nat := x.operand rs src sf i
  let isF := f ≤ 3
  let g := (fmtFp f).getD fp32
  -- one value moved into the stage format without rounding
  let move (p : Nat × Nat) : Nat := if isF then packFp g (asFp p.1 p.2) else ofSigned (intWidth f) (asInt p.1 p.2)
  match st.op with
  | 0x15 => let p := opnd st.a f; convert p.1 f p.2 m x.ch.fsat x.ch.isat
  | 0x16 =>
    let a := opnd st.a f
    let b := opnd st.b f
    if isF then let (r, fl) := cmpFp st.sub (asFp a.1 a.2) (asFp b.1 b.2); (if r then 1 else 0, fl)
    else (if cmpInt st.sub (asInt a.1 a.2) (asInt b.1 b.2) then 1 else 0, 0)
  | 0x17 =>
    let take := if st.a = 0x3F then x.maskBit rs i else ((rs.getD (st.a - 0x20) (12, [])).2.getD i (0, 0)).1 == 1
    (move (opnd (if take then st.b else st.c) f), 0)
  | 0x1E => (i % 2 ^ 32, 0)
  | 0x1F =>
    let idx := x.index rs f st.b i
    let len := beatLen x.ch.N i
    if idx < len then (move (x.operand rs st.a f (128 * (i / 128) + idx)), 0) else (0, fPerm)
  | 0x20 =>
    let idx := x.index rs f st.a i
    let b := x.core.vbuf st.sub
    let bf := b.fmt.toNat
    if idx < b.len.toNat then (move (bf, Memory.readLe b.bytes (idx * fmtSize bf) (fmtSize bf)), 0) else (0, fPerm)
  | op =>
    let a := opnd st.a f
    let b := if op = 0x11 then opnd st.b 6 else opnd st.b f
    let c := opnd st.c f
    if isF then fpOp g m op (asFp a.1 a.2) (asFp b.1 b.2) (asFp c.1 c.2) (asInt b.1 b.2)
    else intOp f x.ch.isat op (asInt a.1 a.2) (asInt b.1 b.2)

/-- Runs the stages in order; a reduction stage yields no elements. -/
def ChainCtx.runStages (x : ChainCtx) : List ChStage → List StageRes → List StageRes
  | [], rs => rs
  | st :: rest, rs =>
    let r : StageRes :=
      if opRed st.op then (0, [])
      else (if st.op = 0x16 then 12 else resFmt st, (List.range x.ch.N).map (x.stageElem rs rs.length st))
    x.runStages rest (rs ++ [r])

/-! ### Reductions (R169 to R171) -/

/-- Combines two partial values in the stage format. -/
def redCombine (f op : Nat) (m : RMode) (isat : Bool) (a b : Nat) : Nat × Flags :=
  match fmtFp f with
  | some g =>
    let x := decodeFp g a
    let y := decodeFp g b
    match op with
    | 0x23 => finishFp g m (minmaxV true x y)
    | 0x24 => finishFp g m (minmaxV false x y)
    | 0x25 => finishFp g m (minmaxNumV true x y)
    | 0x26 => finishFp g m (minmaxNumV false x y)
    | _ => finishFp g m (addV m x y)
  | none =>
    let x := asInt f a
    let y := asInt f b
    match op with
    | 0x23 => intoInt f isat (max x y)
    | 0x24 => intoInt f isat (min x y)
    | 0x27 => (a &&& b, 0)
    | 0x28 => (a ||| b, 0)
    | _ => intoInt f isat (x + y)

/-- A partial takes its next element: RSUMSQ by FMA, the others by the operation. -/
def redTake (f op : Nat) (m : RMode) (isat : Bool) (acc : Option (Nat × Flags)) (el : Nat) : Option (Nat × Flags) :=
  match acc with
  | none =>
    if op = 0x22 then
      match fmtFp f with
      | some g => some (finishFp g m (mulV (decodeFp g el) (decodeFp g el)))
      | none => some (el, 0)
    else some (el, 0)
  | some (p, fl) =>
    let (r, f2) := match op, fmtFp f with
      | 0x22, some g => fpFma g m el el p
      | _, _ => redCombine f op m isat p el
    some (r, fl ||| f2)

/-- One level of the tree: neighbours in operand order. -/
def redLevel (f op : Nat) (m : RMode) (isat : Bool) : List (Option (Nat × Flags)) → List (Option (Nat × Flags))
  | a :: b :: t =>
    (match a, b with
     | some (x, fx), some (y, fy) => let (r, fl) := redCombine f op m isat x y; some (r, fx ||| fy ||| fl)
     | some p, none => some p
     | none, q => q) :: redLevel f op m isat t
  | t => t

/-- The identity of R169. -/
def redIdentity (f op : Nat) : Nat :=
  match fmtFp f with
  | some g => if op = 0x23 ∨ op = 0x25 then encodeInf g true else if op = 0x24 ∨ op = 0x26 then encodeInf g false else 0
  | none =>
    let w := intWidth f
    if op = 0x23 then 2 ^ (w - 1) else if op = 0x24 then 2 ^ (w - 1) - 1 else if op = 0x27 then 2 ^ w - 1 else 0

/-- One segment: its elements with whether each is active. -/
def redSegment (f op : Nat) (m : RMode) (isat : Bool) (els : List (Nat × Bool)) : Nat × Flags :=
  let partials := (List.range 128).map fun k =>
    ((els.zipIdx.filter fun x => x.2 % 128 == k && x.1.2)).foldl (fun acc x => redTake f op m isat acc x.1.1) none
  let root := (List.range 7).foldl (fun l _ => redLevel f op m isat l) partials
  match root with
  | some (r, fl) :: _ => (r, fl)
  | _ => (redIdentity f op, fEmpty)

/-! ### Outputs -/

/-- Whether a written pattern is a NaN or an infinity. -/
def isNonfinBits (f b : Nat) : Bool :=
  match fmtFp f with
  | some g => (decodeFp g b).isNonfin
  | none => false

/-- LEN and FMT of a tile buffer that a chain writes (R167): N, held in the 65,536 that LEN counts to, and the output format
(log 155, DEDUCED, for a compacting output). -/
def Core.putBuf (c : Core) (k : Nat) (bytes : Memory) (N fmt : Nat) : Core :=
  if h : k < 4 then { c with vb := c.vb.set k ⟨bytes, BitVec.ofNat 17 (min N 65536), BitVec.ofNat 4 fmt⟩ h } else c

/-- Writes one element output (R157, R163, R167, R172): the core and the flags. An output in the stage's own format copies the
pattern; one in any other format is converted, a wider one or one of another kind too (log 174, DESIGN CHOICE: R157 speaks of
narrower ones). -/
def ChainCtx.writeOut (x : ChainCtx) (rs : List StageRes) (act : Nat → Bool) (acc : Core × Flags) (o : ChOut) : Core × Flags :=
  let (c, fl) := acc
  let d := x.e.rd o.desc
  let r := rs.getD o.src (0, [])
  if d.fmt = fmtSADD then
    let row := rs.getD o.rowStg (6, [])
    let col := rs.getD o.colStg (6, [])
    let idxs := (List.range x.ch.N).filter act
    let entry (i : Nat) : Nat :=
      (r.2.getD i (0, 0)).1 + (col.2.getD i (0, 0)).1 % 128 * 2 ^ 32 + (row.2.getD i (0, 0)).1 % 128 * 2 ^ 39
    let list (m : Memory) (base : Nat) : Memory :=
      idxs.zipIdx.foldl (fun m (i, k) => Memory.writeLe m (base + 8 * k) 8 (entry i)) m
    let c := if d.space = 2 then c.putBuf d.pay (list (c.vbuf d.pay).bytes 0) x.ch.N d.fmt
      else { c with ledge := list c.ledge d.pay }
    ({ c with vecLast := BitVec.ofNat 25 idxs.length },
      if idxs.any (fun i => isNonfinBits 1 (r.2.getD i (0, 0)).1) then fl ||| fNonfin else fl)
  else
    let sz := fmtSize d.fmt
    let conv (i : Nat) : Nat × Flags :=
      let b := (r.2.getD i (0, 0)).1
      if r.1 = d.fmt then (b, 0) else convert r.1 d.fmt b (x.rsel.mode x.e.seed (x.stream + 8) i) x.ch.fsat x.ch.isat
    let step (base : Nat) (m : Memory × Flags) (i : Nat) : Memory × Flags :=
      if act i then
        let (b, f) := conv i
        (Memory.writeLe m.1 (base + sz * i) sz b, m.2 ||| f ||| (if isNonfinBits d.fmt b then fNonfin else 0))
      else if x.ch.mzero then (Memory.writeLe m.1 (base + sz * i) sz 0, m.2) else m
    if d.space = 2 then
      let b := c.vbuf d.pay
      let (bytes, fl) := (List.range x.ch.N).foldl (step 0) (b.bytes, fl)
      (c.putBuf d.pay bytes x.ch.N d.fmt, fl)
    else
      let (ledge, fl) := (List.range x.ch.N).foldl (step d.pay) (c.ledge, fl)
      ({ c with ledge := ledge }, fl)

/-- Writes the reduction output (R169, R170). It is converted in the stage's own format too, which quietens a signalling NaN that is
the only active element of its segment (log 156, DEDUCED). -/
def ChainCtx.writeRed (x : ChainCtx) (rs : List StageRes) (act : Nat → Bool) (acc : Core × Flags) : Core × Flags :=
  if !x.ch.red then acc
  else
    let (c, fl) := acc
    match x.ch.stages[x.ch.rstg]? with
    | none => (c, fl)
    | some st =>
      let f := sfmtFmt st.sfmt
      let d := x.e.rd x.ch.rdesc
      let rsel := rselOf x.ch.rrmode x.core.fpq[2]
      let m : RMode := (if rsel = .sr then RSel.rne else rsel).mode 0 0 0
      let el (i : Nat) : Nat :=
        let p := x.operand rs st.a f i
        match fmtFp f with
        | some g => packFp g (asFp p.1 p.2)
        | none => ofSigned (intWidth f) (asInt p.1 p.2)
      let sz := fmtSize d.fmt
      let (ledge, fl) := (List.range (x.ch.N / x.ch.L)).foldl (fun (acc : Memory × Flags) s =>
        let els := (List.range x.ch.L).map fun k => (el (s * x.ch.L + k), act (s * x.ch.L + k))
        let (r, f1) := redSegment f st.op m x.ch.isat els
        let (b, f2) := convert f d.fmt r (x.rsel.mode x.e.seed (x.stream + 8) s) x.ch.fsat x.ch.isat
        (acc.1.writeLe (d.pay + sz * s) sz b, acc.2 ||| f1 ||| f2 ||| (if isNonfinBits d.fmt b then fNonfin else 0)))
        (c.ledge, fl)
      ({ c with ledge := ledge }, fl)

/-- A captured chain with everything it reads. -/
def chainCtx (c : Core) (e : QEntry) : ChainCtx :=
  let ch := parseChain e.chain
  { ch := ch, e := e, core := c, rsel := rselOf ch.rmode c.fpq[2], stream := e.srStream + (fld e.w 30 8).zeroExtend 32 }

/-- The checks of `vec.chain` when it starts: those of its issue, the buffers it finds, and room for its correction list. -/
def checkStartChain (c : Core) (v : Env) (e : QEntry) : Except TrapC Unit := do
  let x := chainCtx c e
  let ch := x.ch
  checkChain c v e ch
  checkBufs c e ch
  let act (i : Nat) : Bool := x.maskBit (x.runStages ch.stages []) i
  needAll ChOut.desc 0x4 (fun o =>
    (e.rd o.desc).fmt != fmtSADD || decide (((List.range ch.N).filter act).length ≤ (e.rd o.desc).count)) ch.outs

/-- What `vec.chain` does over its captured descriptor (R153 to R175). -/
def doChain (c : Core) (e : QEntry) : Core :=
  let x := chainCtx c e
  let rs := x.runStages x.ch.stages []
  let act (i : Nat) : Bool := x.maskBit rs i
  let stageFl := rs.foldl (fun (a : Flags) r =>
    (r.2.zipIdx.foldl (fun (a : Flags) p => if act p.2 then a ||| p.1.2 else a) a)) 0
  let (c', fl) := x.ch.outs.foldl (x.writeOut rs act) (c, stageFl)
  let (c', fl) := x.writeRed rs act (c', fl)
  c'.addFlags .vec fl

/-- `vec.chain`: the checks, then its effect. -/
def effChain (c : Core) (v : Env) (e : QEntry) : Except TrapC Core := do
  checkStartChain c v e
  pure (doChain c e)

end Sys2Proof.Machine
end

