-- ==== Sys2Proof/Machine/Issue.lean ====
section
/-! DEFINITION. Issue of a Gybel instruction (07 R180 to R182, R200, R201; 08 R213, R214): the fetch check, the illegal
instruction check, the predicate, then the operation; placing an instruction in a queue; and who may take a count of a
semaphore (07 R186). -/
namespace Sys2Proof.Machine

/-- The predicate test of R180. -/
def Core.passes (c : Core) (w : GWord) : Bool := c.rp (psel w) != pneg w

/-- SIG and SSEM of an instruction of the scalar unit are zero (R214). -/
def scalarSig (w : GWord) : Bool := !sigBit w && ssem w == 0
/-- A queued instruction without SIG has SSEM zero (R214). -/
def queuedSig (w : GWord) : Bool := sigBit w || ssem w == 0
/-- Bits [lo + n - 1 : lo] are zero. -/
def zeroAt (w : GWord) (lo n : Nat) : Bool := fld w lo n == 0

/-- A core once it has taken an instruction: the next ISEQ (log 12), and the program counter 8 further. -/
def Core.next (k : Core) : Core := { k with iseq := k.iseq + 1, pc := k.pc + 8 }

/-- A trap of the instruction that a core issues; TRAP_PC names it. -/
def State.trapIssue (s : State) (c : CoreId) (t : TrapC) : State :=
  let k := s.core c
  let k' := { k with iseq := k.iseq + 1 }
  (s.setCore c (k'.trap t 0 k.pc (k.iseq + 1))).settle c

/-- Issue of an instruction on a core that can issue (otherwise nothing happens, log 3): the fetch lies in TEXT, decoding
finds the word legal, the predicate holds, then `act` on the core with its counters advanced. -/
def State.issue (s : State) (c : CoreId) (w : GWord) (legal : Bool) (act : Core → Except TrapC State) : State :=
  let k := s.core c
  if k.canIssue then
    if k.inText then
      if legal then
        if k.passes w then
          match act k.next with
          | .ok t => t
          | .error t => s.trapIssue c t
        else s.setCore c k.next
      else s.trapIssue c illegal
    else s.trapIssue c (dataTrap 0xD)
  else s

/-- Issue of an instruction of the scalar unit that only changes its core. -/
def State.issueCore (s : State) (c : CoreId) (w : GWord) (legal : Bool) (act : Core → Except TrapC Core) : State :=
  s.issue c w (scalarSig w && legal) fun k => (act k).map (s.setCore c)

/-- An entry of a queue as issue makes it (R181). -/
def Core.entry (k : Core) (op : QOp) (pc : BitVec 22) (w : GWord) : QEntry :=
  { op := op, iseq := k.iseq, pc := pc, w := w, g := k.g, d := k.d, seed := k.seed, srStream := k.srStream, phase := k.phase, chain := [],
    started := false, inj := 0, data := [] }

def Core.queue (k : Core) (q : QueueId) : List QEntry := k.queues[qIdx q]
def Core.setQueue (k : Core) (q : QueueId) (v : List QEntry) : Core := { k with queues := k.queues.set (qIdx q) v }
def Core.room (k : Core) (q : QueueId) : Bool := decide ((k.queue q).length < 16)
def Core.push (k : Core) (q : QueueId) (e : QEntry) : Core := k.setQueue q (k.queue q ++ [e])

/-- Issue of an instruction into queues; while one is full the scalar unit stalls and nothing is issued (R182). -/
def State.enqueue (s : State) (c : CoreId) (w : GWord) (legal : Bool) (qs : List QueueId)
    (op : Core → Except TrapC (QOp × List Byte)) : State :=
  s.issue c w (queuedSig w && legal) fun k =>
    if qs.all k.room then do
      let (o, chain) ← op k
      let e := { k.entry o (s.core c).pc w with chain := chain }
      pure (s.setCore c (qs.foldl (fun (k : Core) q => k.push q e) k))
    else pure s

/-- Issue of an instruction into one queue, without further checks. -/
def State.enqueueOne (s : State) (c : CoreId) (w : GWord) (legal : Bool) (q : QueueId) (op : QOp) : State :=
  s.enqueue c w legal [q] fun _ => .ok (op, [])

/-- The scalar unit stalls; a wait that already holds ends at once. -/
def State.stallOn (s : State) (c : CoreId) (k : Core) (x : Stall) : State := (s.setCore c { k with stall := some x }).settle c

/-! ### Waiters (R182, R186) -/

/-- Fields of `sync` instructions (R232). -/
def semOf (w : GWord) : Fin 32 := (fld w 38 5).toFin
def kOf (w : GWord) : BitVec 16 := fld w 0 16

/-- Nothing before an entry keeps a wait entry from the head of its queue: in the DMA queue every earlier entry has started,
in every other queue it has completed. -/
def waitAtHead (q : QueueId) (before : List QEntry) : Bool :=
  if q = .dma then before.all fun e => e.started && e.op != .qwait else before.isEmpty

/-- Splits a queue at its first wait entry. -/
def splitWait : List QEntry → List QEntry × List QEntry
  | [] => ([], [])
  | e :: es => if e.op = .qwait then ([], e :: es) else let (a, b) := splitWait es; (e :: a, b)

/-- The wait entry at the head of a queue. -/
def Core.headWait (k : Core) (q : QueueId) : Option QEntry :=
  match splitWait (k.queue q) with
  | (a, e :: _) => if waitAtHead q a then some e else none
  | _ => none

def allQueues : List QueueId := [.mac, .acc, .vec, .qnt, .dma, .coll]

/-- A wait entry on a semaphore with a lower ISEQ stands at the head of its queue: it is served first. -/
def Core.earlierWaiter (k : Core) (sem : Fin 32) (iseq : BitVec 48) : Bool :=
  allQueues.any fun q => match k.headWait q with
    | some e => semOf e.w == sem && decide (e.iseq < iseq)
    | none => false

/-- A waiter may take its count. -/
def Core.mayTake (k : Core) (sem : Fin 32) (n : BitVec 16) (iseq : BitVec 48) : Bool :=
  decide (n ≤ k.sem[sem]) && !k.earlierWaiter sem iseq

def Core.setSem (k : Core) (sem : Fin 32) (v : BitVec 16) : Core := { k with sem := k.sem.set sem v }
def Core.takeCount (k : Core) (sem : Fin 32) (n : BitVec 16) : Core := k.setSem sem (k.sem[sem] - n)

/-- An issued instruction that signals a semaphore is left in some queue. -/
def Core.signallerLeft (k : Core) (sem : Fin 32) : Bool :=
  k.queues.any fun q => q.any fun e => sigBit e.w && (ssem e.w).toFin == sem

/-- A wait entry at the head of its queue, with a lower ISEQ, whose count is there: it is served before a set (R186, R234). -/
def Core.dueWaiter (k : Core) (sem : Fin 32) (iseq : BitVec 48) : Bool :=
  allQueues.any fun q => match k.headWait q with
    | some e => semOf e.w == sem && decide (e.iseq < iseq) && k.mayTake sem (kOf e.w) e.iseq
    | none => false

/-- A `sync.sset` waits: for its signallers, and for its place among the waiters. -/
def Core.setWaits (k : Core) (sem : Fin 32) (iseq : BitVec 48) : Bool := k.signallerLeft sem || k.dueWaiter sem iseq

/-- Every issued instruction of the queues of a mask has completed, spills of MAC and ACC work included (R188, log 6). -/
def Core.fenceDone (k : Core) (mask : BitVec 6) : Bool :=
  allQueues.all (fun q => !(mask.getLsbD (qIdx q).val) || (k.queue q).isEmpty) &&
  (mask.extractLsb' 0 2 == 0 || k.spills.isEmpty)

end Sys2Proof.Machine
end

