-- ==== Sys2Proof/Machine/Alu.lean ====
section
/-! DEFINITION. alu: integer arithmetic, predicates and special-register moves (08 R219 to R222). -/
namespace Sys2Proof.Machine

/-- Operand fields of R219. -/
def aluRd (w : GWord) : BitVec 5 := fld w 38 5
def aluRa (w : GWord) : BitVec 5 := fld w 33 5
def aluI (w : GWord) : Bool := w.getLsbD 32
def aluImm (w : GWord) : Word := (fld w 0 32).signExtend 64
def aluB (w : GWord) (k : Core) : Word := if aluI w then aluImm w else k.rg (fld w 27 5)
/-- Bits [26:0] are reserved when I is 0. -/
def aluLegal (w : GWord) : Bool := aluI w || zeroAt w 0 27

/-- RD := f (RA, b). -/
def State.aluBin (s : State) (c : CoreId) (w : GWord) (f : Word → Word → Word) : State :=
  s.issueCore c w (aluLegal w) fun k => .ok (k.wg (aluRd w) (f (k.rg (aluRa w)) (aluB w k)))

def execAluAdd (c : CoreId) (w : GWord) (s : State) : Host.Outcome State Fault Refusal := .next (s.aluBin c w (· + ·))
def execAluSub (c : CoreId) (w : GWord) (s : State) : Host.Outcome State Fault Refusal := .next (s.aluBin c w (· - ·))
def execAluAnd (c : CoreId) (w : GWord) (s : State) : Host.Outcome State Fault Refusal := .next (s.aluBin c w (· &&& ·))
def execAluOr (c : CoreId) (w : GWord) (s : State) : Host.Outcome State Fault Refusal := .next (s.aluBin c w (· ||| ·))
def execAluXor (c : CoreId) (w : GWord) (s : State) : Host.Outcome State Fault Refusal := .next (s.aluBin c w (· ^^^ ·))

/-- A shift amount: bits [5:0] of the second operand. -/
def shamt (b : Word) : Nat := b.toNat % 64

def execAluShl (c : CoreId) (w : GWord) (s : State) : Host.Outcome State Fault Refusal :=
  .next (s.aluBin c w fun a b => a <<< shamt b)
def execAluShr (c : CoreId) (w : GWord) (s : State) : Host.Outcome State Fault Refusal :=
  .next (s.aluBin c w fun a b => a >>> shamt b)
def execAluSra (c : CoreId) (w : GWord) (s : State) : Host.Outcome State Fault Refusal :=
  .next (s.aluBin c w fun a b => a.sshiftRight (shamt b))
def execAluMul (c : CoreId) (w : GWord) (s : State) : Host.Outcome State Fault Refusal := .next (s.aluBin c w (· * ·))
/-- Bits [127:64] of the signed product. -/
def execAluMulh (c : CoreId) (w : GWord) (s : State) : Host.Outcome State Fault Refusal :=
  .next (s.aluBin c w fun a b => BitVec.ofInt 64 (a.toInt * b.toInt / 2 ^ 64))
/-- Bits [127:64] of the unsigned product. -/
def execAluMulhu (c : CoreId) (w : GWord) (s : State) : Host.Outcome State Fault Refusal :=
  .next (s.aluBin c w fun a b => BitVec.ofNat 64 (a.toNat * b.toNat / 2 ^ 64))
def execAluMin (c : CoreId) (w : GWord) (s : State) : Host.Outcome State Fault Refusal :=
  .next (s.aluBin c w fun a b => if a.toInt ≤ b.toInt then a else b)
def execAluMax (c : CoreId) (w : GWord) (s : State) : Host.Outcome State Fault Refusal :=
  .next (s.aluBin c w fun a b => if a.toInt ≤ b.toInt then b else a)
def execAluMinu (c : CoreId) (w : GWord) (s : State) : Host.Outcome State Fault Refusal :=
  .next (s.aluBin c w fun a b => if a ≤ b then a else b)
def execAluMaxu (c : CoreId) (w : GWord) (s : State) : Host.Outcome State Fault Refusal :=
  .next (s.aluBin c w fun a b => if a ≤ b then b else a)

/-- `alu.li`: HALF is bit [37]. -/
def execAluLi (c : CoreId) (w : GWord) (s : State) : Host.Outcome State Fault Refusal :=
  .next (s.issueCore c w (aluI w && zeroAt w 33 4) fun k =>
    .ok (k.wg (aluRd w) (if w.getLsbD 37 then fld w 0 32 ++ (k.rg (aluRd w)).extractLsb' 0 32 else aluImm w)))

/-! ### Predicates -/

def aluPd (w : GWord) : BitVec 3 := fld w 38 3

/-- PD := whether RA relates to b. -/
def State.aluCmp (s : State) (c : CoreId) (w : GWord) (f : Word → Word → Bool) : State :=
  s.issueCore c w (aluLegal w && zeroAt w 41 2) fun k => .ok (k.wp (aluPd w) (f (k.rg (aluRa w)) (aluB w k)))

def execAluCmpEq (c : CoreId) (w : GWord) (s : State) : Host.Outcome State Fault Refusal := .next (s.aluCmp c w (· == ·))
def execAluCmpNe (c : CoreId) (w : GWord) (s : State) : Host.Outcome State Fault Refusal := .next (s.aluCmp c w (· != ·))
def execAluCmpLt (c : CoreId) (w : GWord) (s : State) : Host.Outcome State Fault Refusal :=
  .next (s.aluCmp c w fun a b => decide (a.toInt < b.toInt))
def execAluCmpGe (c : CoreId) (w : GWord) (s : State) : Host.Outcome State Fault Refusal :=
  .next (s.aluCmp c w fun a b => decide (b.toInt ≤ a.toInt))
def execAluCmpLtu (c : CoreId) (w : GWord) (s : State) : Host.Outcome State Fault Refusal :=
  .next (s.aluCmp c w fun a b => decide (a < b))
def execAluCmpGeu (c : CoreId) (w : GWord) (s : State) : Host.Outcome State Fault Refusal :=
  .next (s.aluCmp c w fun a b => decide (b ≤ a))

/-- PD := f (PA, PB). -/
def State.aluPred (s : State) (c : CoreId) (w : GWord) (f : Bool → Bool → Bool) : State :=
  s.issueCore c w (!aluI w && zeroAt w 41 2 && zeroAt w 36 2 && zeroAt w 30 2 && zeroAt w 0 27) fun k =>
    .ok (k.wp (aluPd w) (f (k.rp (fld w 33 3)) (k.rp (fld w 27 3))))

def execAluPand (c : CoreId) (w : GWord) (s : State) : Host.Outcome State Fault Refusal := .next (s.aluPred c w (· && ·))
def execAluPor (c : CoreId) (w : GWord) (s : State) : Host.Outcome State Fault Refusal := .next (s.aluPred c w (· || ·))
def execAluPxor (c : CoreId) (w : GWord) (s : State) : Host.Outcome State Fault Refusal := .next (s.aluPred c w (· != ·))
def execAluPandn (c : CoreId) (w : GWord) (s : State) : Host.Outcome State Fault Refusal :=
  .next (s.aluPred c w fun a b => a && !b)

/-! ### Counts -/

/-- Leading zero bits of a word, 0 to 64. -/
def clz (a : Word) : Nat := if a = 0 then 64 else 63 - a.toNat.log2
/-- One bits of a word. -/
def popc (a : Word) : Nat := ((List.range 64).filter fun i => a.getLsbD i).length

/-- RD := f RA; I and RB are reserved. -/
def State.aluUn (s : State) (c : CoreId) (w : GWord) (f : Word → Nat) : State :=
  s.issueCore c w (zeroAt w 0 33) fun k => .ok (k.wg (aluRd w) (BitVec.ofNat 64 (f (k.rg (aluRa w)))))

def execAluClz (c : CoreId) (w : GWord) (s : State) : Host.Outcome State Fault Refusal := .next (s.aluUn c w clz)
def execAluPopc (c : CoreId) (w : GWord) (s : State) : Host.Outcome State Fault Refusal := .next (s.aluUn c w popc)

/-! ### Special registers (R222) -/

def srIdx (w : GWord) : BitVec 8 := fld w 0 8
def srLegal (w : GWord) : Bool := aluI w && zeroAt w 8 24 && !srReserved (srIdx w)

/-- `alu.mfsr`: a tile register waits for the tile scoreboard; every other read is not queued. -/
def execAluMfsr (c : CoreId) (w : GWord) (s : State) : Host.Outcome State Fault Refusal :=
  .next (s.issue c w (scalarSig w && srLegal w && zeroAt w 33 5) fun k =>
    match srTile (srIdx w) with
    | some _ => .ok (s.stallOn c k (.tileRead (srIdx w) (aluRd w).toFin k.iseq))
    | none => .ok (s.setCore c (k.wg (aluRd w) ((s.core c).mfsr (srIdx w)))))

/-- `alu.mtsr`: at issue, in the engine's queue, or ignored (RO). -/
def execAluMtsr (c : CoreId) (w : GWord) (s : State) : Host.Outcome State Fault Refusal :=
  .next (if (srQueues (srIdx w)).isEmpty then
      s.issueCore c w (srLegal w && zeroAt w 38 5) fun k => .ok (k.mtsr (srIdx w) (k.rg (aluRa w)))
    else s.enqueue c w (srLegal w && zeroAt w 38 5) (srQueues (srIdx w)) fun k =>
      .ok (.mtsr (srIdx w) (k.rg (aluRa w)), []))

end Sys2Proof.Machine
end

