-- ==== Sys2Proof/Machine/CollEvents.lean ====
section
/-! DEFINITION. Collective packets that arrive (14 R365 to R384), the READY conditions and the stall timer. -/
namespace Sys2Proof.Machine

/-- A COLL packet arrives on a port: the link layer accepts it; one for another S4 is forwarded; in SAFE, and once HBM refreshes itself,
one for this S4 is not served (R28); one of a job without an entry is dropped and counted (R366), any other is acted on, and a
pre-empted command may reach its step boundary with it (R384). -/
def State.arrive (s : State) (p : MPort) (f : RxFlit) (k : CollPkt) (act : State → State) : State :=
  s.rxSeq p f 1 ((s.ctl.port p).endBad f k) fun s =>
    if k.dst ≠ s.ctl.devid then s.route k (s.ctl.axisOf p)
    else if s.ctl.dev.selfRefresh then s
    else if (s.ctl.collJob k.job.toNat).isNone then s.mapCtl fun c => c.bump Addr.collDrop 48 16 1
    else (act s).stopDue

/-- The open operation that a packet names, at the packet's attempt; a lower one is discarded (R366). -/
def State.opFor (s : State) (k : CollPkt) : Option GroupOp :=
  match s.op? (keyOf k) with
  | some o => if o.decided.isNone ∧ k.hdr.attempt.toNat = o.attempt then some o else none
  | none => none

/-- BLAME and REASON of a packet. -/
def blameOf (k : CollPkt) : Nat × Nat := (k.hdr.blame.toNat, k.hdr.wflags.toNat % 16)

/-- BLAME and REASON of what a packet sets free: its own where it ended a wait, otherwise this member and PATH (R388). -/
def GroupOp.passBlame (o : GroupOp) (k : CollPkt) (waitNs : Nat) : Nat × Nat :=
  if waitNs = 0 then (o.grp.rank, rsPATH) else blameOf k

/-- `COLL_PACKET_FORWARD`. -/
def execCollPacketForward (p : MPort) (f : RxFlit) (k : CollPkt) (s : State) : Host.Outcome State Fault Refusal :=
  .next (if k.dst = s.ctl.devid then s else s.arrive p f k id)

/-- An OPEN: compared now, or held for a member that has not opened, or not yet again (R367). -/
def State.openArrives (s : State) (k : CollPkt) (waitNs : Nat) : State :=
  match s.op? (keyOf k) with
  | some o =>
    if o.decided.isSome ∨ k.hdr.attempt.toNat < o.attempt then s
    else if k.hdr.attempt.toNat = o.attempt then (s.takeOpen (keyOf k) k waitNs).stepDone (keyOf k)
    else if o.agrees k = false then s.tell o kMISMATCH k.hdr.srcRank.toNat
    else s.mapColl fun x => { x with held := x.held ++ [k] }
  | none =>
    if s.ctl.opPassed (keyOf k) then s else s.mapColl fun x => { x with held := x.held ++ [k] }

/-- `COLL_OPEN`. -/
def execCollOpen (p : MPort) (f : RxFlit) (k : CollPkt) (waitNs : Nat) (s : State) : Host.Outcome State Fault Refusal :=
  .next (s.arrive p f k fun s => s.openArrives k waitNs)

/-- A DATA packet of an open operation (R366, R368, R371). -/
def State.dataArrives (s : State) (k : CollPkt) (bs : List Byte) (waitNs : Nat) : State :=
  match s.opFor k with
  | none => s
  | some o =>
    let src := k.hdr.srcRank.toNat
    if o.agrees k = false then s.report o.key kMISMATCH src
    else match (o.pidxFrom src).look k.hdr.pidx.toNat with
      | 0 =>
        if o.dataFits k.hdr bs then
          let b := blameOf k
          let s := s.updOp o.key fun o => (o.charge b.1 b.2 waitNs).markPidx src k.hdr.pidx.toNat
          match s.op? o.key with
          | some o' => (s.takeData o' k.hdr bs (o.passBlame k waitNs)).stepDone o.key
          | none => s
        else s
      | 1 => s.mapCtl fun c => c.bump Addr.collDrop 0 32 1
      | _ => s.mapCtl fun c => c.bump Addr.collDrop 32 16 1

/-- `COLL_DATA`. -/
def execCollData (p : MPort) (f : RxFlit) (k : CollPkt) (waitNs : Nat) (s : State) : Host.Outcome State Fault Refusal :=
  .next (match k.body with
    | .data bs => s.arrive p f k fun s => s.dataArrives k bs waitNs
    | _ => s)

/-- `COLL_READY`: a child's READY (R378). -/
def execCollReady (p : MPort) (f : RxFlit) (k : CollPkt) (waitNs : Nat) (s : State) : Host.Outcome State Fault Refusal :=
  .next (s.arrive p f k fun s => match s.opFor k with
    | some o =>
      let src := k.hdr.srcRank.toNat
      let b := blameOf k
      if o.grp.children.contains src && !o.ready.contains src then
        s.updOp o.key fun o => { (o.charge b.1 b.2 waitNs) with ready := src :: o.ready }
      else s
    | none => s)

/-- `COLL_READY_CONDITIONS`: READY to the parent, once; rank 0 decides COMMIT (R378). -/
def execCollReadyConditions (group job : BitVec 16) (seq : BitVec 32) (s : State) : Host.Outcome State Fault Refusal :=
  .next (match s.op? ⟨group, job, seq⟩ with
    | some o =>
      if s.readyNow o && !o.readySent && !s.ctl.dev.selfRefresh then
        let b := o.blameNow
        if o.grp.rank = 0 then (s.commitOp o b).stopDue
        else (s.updOp o.key fun o => { o with readySent := true }).sendCtl o o.grp.parent b.1 b.2 .ready
      else s
    | none => s)

/-- `COLL_COMMIT`. -/
def execCollCommit (p : MPort) (f : RxFlit) (k : CollPkt) (waitNs : Nat) (s : State) : Host.Outcome State Fault Refusal :=
  .next (s.arrive p f k fun s => match s.opFor k with
    | some o =>
      if o.readySent then
        let b := blameOf k
        let s := s.updOp o.key fun o => o.charge b.1 b.2 waitNs
        match s.op? o.key with
        | some o' => s.commitOp o' (o.passBlame k waitNs)
        | none => s
      else s
    | none => s)

/-- DTYPE and DHASH in what this member sends of an operation: its own (R364). -/
def State.kindOf (s : State) (key : OpKey) : Option (Nat × BitVec 32) :=
  match s.op? key, s.ctl.coll.past? key with
  | some o, _ => some (o.dtype, o.dhash)
  | none, some q => some (q.dtype, q.dhash)
  | none, none => none

/-- Before this member has opened the operation: those it was told (log 113). -/
def State.kindFor (s : State) (k : CollPkt) : Nat × BitVec 32 := (s.kindOf (keyOf k)).getD (k.hdr.dtype.toNat, k.hdr.dhash)

/-- Forwards a decision to the children of this member's rank, whether or not it has opened the operation, with the BLAME and REASON
given (R388). -/
def State.forwardDown (s : State) (k : CollPkt) (blame : Group → Nat × Nat) : State :=
  match s.ctl.group k.job.toNat k.hdr.group with
  | none => s
  | some g =>
    let t := s.kindFor k
    g.children.foldl (fun (s : State) r =>
      s.route (s.ctl.packetTo g (keyOf k) t.1 k.hdr.attempt.toNat t.2 r (blame g).1 (blame g).2 k.body) none) s

/-- BLAME and REASON of an END that is passed on: those of the packet where it ended a wait, otherwise this member and PATH. -/
def endBlame (k : CollPkt) (waitNs : Nat) (g : Group) : Nat × Nat := if waitNs = 0 then (g.rank, rsPATH) else blameOf k

/-- Those of a RETRY: its BLAME names the rank that the wait is charged to all the way down; REASON as in an END. -/
def retryBlame (k : CollPkt) (waitNs : Nat) (g : Group) : Nat × Nat := (k.hdr.blame.toNat, (endBlame k waitNs g).2)

/-- REASON 0x3 RETRY and 0x4 END. -/
def rsRETRY : Nat := 3
def rsEND : Nat := 4

/-- `COLL_END`: it overrides any RETRY, and the wait it ends is charged to the named rank (R369, R381, R388). A member that has not
opened the operation ends it when it opens. -/
def execCollEnd (p : MPort) (f : RxFlit) (k : CollPkt) (waitNs : Nat) (s : State) : Host.Outcome State Fault Refusal :=
  .next (match k.body with
    | .finish st rank => s.arrive p f k fun s =>
      if s.ctl.opPassed (keyOf k) then s
      else match s.op? (keyOf k) with
        | some o =>
          if o.decided.isSome ∨ k.hdr.attempt.toNat < o.attempt then s
          else
            let s := s.forwardDown k (endBlame k waitNs)
            (s.updOp o.key fun o => o.charge rank.toNat rsEND waitNs).decideHere o.key st rank
        | none =>
          let e := s.ctl.coll.early? (keyOf k)
          if e.decided.isSome then s
          else (s.forwardDown k (endBlame k waitNs)).mapColl fun x => x.setEarly { e with decided := some (st, rank) }
    | _ => s)

/-- Rank 0 takes a report of an operation that it has not opened: a stall raises the attempt, anything else decides it (R369, R381,
R382; DEDUCED, log 112). -/
def State.earlyReport (s : State) (g : Group) (k : CollPkt) (kind : BitVec 8) (rank : Nat) : State :=
  let e := s.ctl.coll.early? (keyOf k)
  let down (s : State) (attempt blame : Nat) (b : CollBody) : State :=
    g.children.foldl (fun (s : State) r =>
      s.route (s.ctl.packetTo g (keyOf k) k.hdr.dtype.toNat attempt k.hdr.dhash r blame rsPATH b) none) s
  let ends (st : Status) (r : BitVec 32) : State :=
    (down s e.attempt g.rank (.finish st r)).mapColl fun x => x.setEarly { e with decided := some (st, r) }
  if kind = kSTALL ∧ e.attempt < s.ctl.fld Addr.collCfg 14 3 then
    (down s (e.attempt + 1) rank .retry).mapColl fun x => x.setEarly { e with attempt := e.attempt + 1 }
  else if kind = kMISMATCH then ends stABORTED_MISMATCH (rank32 rank)
  else if kind = kPREEMPT then ends stPREEMPTED noRank
  else if kind = kSTALL ∨ kind = kLEFT then ends stABORTED_STALL (rank32 rank)
  else s

/-- Rank 0 answers a REPORT: with its decision where it has taken one, otherwise by the kind of the report (R369, R381, R382,
R384). One of a lower attempt is discarded (R366). -/
def State.reportArrives (s : State) (k : CollPkt) (kind : BitVec 8) (rank : Nat) : State :=
  let src := k.hdr.srcRank.toNat
  let answer (g : Group) (attempt : Nat) (st : Status) (r : BitVec 32) : State :=
    s.route (s.ctl.packetTo g (keyOf k) (s.kindFor k).1 attempt (s.kindFor k).2 src g.rank rsPATH
      (if st = stOK then .commit else .finish st r)) none
  match s.ctl.group k.job.toNat k.hdr.group with
  | none => s
  | some g =>
    if g.rank ≠ 0 ∨ g.size ≤ src then s
    else match s.op? (keyOf k), s.ctl.coll.past? (keyOf k) with
      | some o, _ => match o.decided with
        | some d => answer g o.attempt d.1 d.2
        | none => if k.hdr.attempt.toNat < o.attempt then s else s.takeReport o kind rank
      | none, some q => answer g q.attempt q.status q.rank
      | none, none =>
        let e := s.ctl.coll.early? (keyOf k)
        if s.ctl.opPassed (keyOf k) then s
        else match e.decided with
          | some d => answer g e.attempt d.1 d.2
          | none => if k.hdr.attempt.toNat < e.attempt then s else s.earlyReport g k kind rank

/-- `COLL_REPORT`. -/
def execCollReport (p : MPort) (f : RxFlit) (k : CollPkt) (s : State) : Host.Outcome State Fault Refusal :=
  .next (match k.body with
    | .report kind rank => s.arrive p f k fun s => s.reportArrives k kind rank.toNat
    | _ => s)

/-- `COLL_RETRY`: forwarded, and the member repeats its part (R381); the wait is charged to the rank that BLAME names. A member that has
not opened the operation opens it at the new attempt. -/
def execCollRetry (p : MPort) (f : RxFlit) (k : CollPkt) (waitNs : Nat) (s : State) : Host.Outcome State Fault Refusal :=
  .next (s.arrive p f k fun s => match s.op? (keyOf k) with
    | some o =>
      if o.decided.isNone ∧ o.attempt < k.hdr.attempt.toNat then
        let s := s.forwardDown k (retryBlame k waitNs)
        (s.updOp o.key fun o => o.charge k.hdr.blame.toNat rsRETRY waitNs).retryHere o.key k.hdr.attempt.toNat
      else s
    | none =>
      let e := s.ctl.coll.early? (keyOf k)
      if s.ctl.opPassed (keyOf k) ∨ e.decided.isSome ∨ k.hdr.attempt.toNat ≤ e.attempt then s
      else (s.forwardDown k (retryBlame k waitNs)).mapColl fun x => x.setEarly { e with attempt := k.hdr.attempt.toNat })

/-- Instructions that the cores of a job have issued, and whether any core runs it. -/
def State.jobIssued (s : State) (job : BitVec 16) : Bool × Nat :=
  s.cores.toList.foldl (fun (a : Bool × Nat) k => match k.prog with
    | some p => if p.job = job ∧ p.probe.isNone then (true, a.2 + k.iseq.toNat) else a
    | none => a) (false, 0)

/-- The child of rank 0 whose part of the tree holds a rank: the rank's highest set bit. -/
def treeChild (r : Nat) : Nat := 2 ^ Nat.log2 r

/-- Whether an open operation still owes a member something (R380): data or a length; to a member that it owes no data, READY or the
decision; to a receiver of rank 0, the decision once that part of the tree is READY; nothing to a sender that rank 0 has not all data
of, which awaits its OPEN (DEDUCED, log 111). -/
def GroupOp.owes (o : GroupOp) (r : Nat) : Bool :=
  if o.dataTo.contains r then
    o.outq.any (fun i => i.peer = r) || (o.opc != 6 && decide (o.sent < o.owed)) || !o.opens.contains r ||
      (o.grp.rank == 0 && o.ready.contains (treeChild r))
  else if o.grp.rank = 0 then !(o.dataFrom.contains r && !o.gotFrom r)
  else o.grp.parent == r && !o.readySent

/-- STATE of R380. -/
def State.probeState (s : State) (k : CollPkt) : BitVec 8 × State :=
  let key := keyOf k
  match s.op? key with
  | some o => (if o.owes k.hdr.srcRank.toNat then 2 else 3, s)
  | none =>
    if s.ctl.opPassed key then (0, s)
    else
      let (runs, n) := s.jobIssued k.job
      let before := (s.ctl.coll.marks.find? fun m => m.1 = key).map (·.2)
      let st : BitVec 8 := if runs && before != some n then 1 else 0
      (st, s.mapColl fun x => { x with marks := (key, n) :: x.marks.filter fun m => m.1 ≠ key })

/-- `COLL_PROBE`. -/
def execCollProbe (p : MPort) (f : RxFlit) (k : CollPkt) (s : State) : Host.Outcome State Fault Refusal :=
  .next (s.arrive p f k fun s => match s.ctl.group k.job.toNat k.hdr.group with
    | none => s
    | some g =>
      if g.size ≤ k.hdr.srcRank.toNat ∨ (s.op? (keyOf k)).any (fun o => decide (k.hdr.attempt.toNat < o.attempt)) = true then s
      else
        let (st, s) := s.probeState k
        let mine := (s.kindOf (keyOf k)).getD (k.hdr.dtype.toNat, 0)
        let dhash := ((s.op? (keyOf k)).map (·.dhash)).getD 0
        s.route (s.ctl.packetTo g (keyOf k) mine.1 k.hdr.attempt.toNat mine.2 k.hdr.srcRank.toNat g.rank rsPATH
          (.probeReply st (s.ctl.coll.next g) dhash)) none)

/-- A reply to a probe (R380). -/
def State.replyArrives (s : State) (k : CollPkt) (st : BitVec 8) (dhash : BitVec 32) : State :=
  match s.opFor k with
  | none => s
  | some o =>
    let src := k.hdr.srcRank.toNat
    let s := s.updOp o.key fun o => { o with probed := o.probed.filter (· ≠ src) }
    if (st = 2 ∨ st = 3) ∧ dhash ≠ o.dhash then s.report o.key kMISMATCH src
    else if st = 0 ∨ st = 3 then s.report o.key kSTALL src
    else s

/-- `COLL_PROBE_REPLY`. -/
def execCollProbeReply (p : MPort) (f : RxFlit) (k : CollPkt) (s : State) : Host.Outcome State Fault Refusal :=
  .next (match k.body with
    | .probeReply st _ dhash => s.arrive p f k fun s => s.replyArrives k st dhash
    | _ => s)

/-- A LENGTH sets the received length, pads the segment with zero bytes and counts what was dropped (R377); a second copy
changes nothing. -/
def State.lengthArrives (s : State) (k : CollPkt) (units dropped waitNs : Nat) : State :=
  match s.opFor k with
  | none => s
  | some o =>
    let src := k.hdr.srcRank.toNat
    if o.opc ≠ 6 ∨ o.dataFrom.contains src = false ∨ (o.rlen src).isSome ∨ o.cap < units then s
    else
      let b := blameOf k
      let data := o.segIn src units
      let pad := (o.segIn src o.cap).foldl (fun (m : Memory) r =>
        (List.range r.2).foldl (fun (m : Memory) i =>
          if data.any fun x => decide (x.1 ≤ r.1 + i) && decide (r.1 + i < x.1 + x.2) then m else m.write8 (r.1 + i) 0) m) s.mem
      let at_ := o.lensAt + 4 * o.grp.size + 4 * src
      (s.store (pad.writeLe at_ 4 units) ((at_, 4) :: subRanges (o.segIn src o.cap) (rangesLen data)
        (rangesLen (o.segIn src o.cap) - rangesLen data))).updOp o.key fun o =>
        { (o.charge b.1 b.2 waitNs) with rlens := (src, units, dropped) :: o.rlens, ndrop := o.ndrop + dropped }

/-- `COLL_LENGTH`. -/
def execCollLength (p : MPort) (f : RxFlit) (k : CollPkt) (waitNs : Nat) (s : State) : Host.Outcome State Fault Refusal :=
  .next (match k.body with
    | .length n d => s.arrive p f k fun s => s.lengthArrives k n.toNat d.toNat waitNs
    | _ => s)

/-- The member that a stalled operation probes when it awaits `r` (R379, R380): for a decision, rank 0. -/
def GroupOp.awaited (o : GroupOp) (r : Nat) : Option Nat :=
  if o.decided.isSome then none
  else if (o.dataTo.contains r && !o.opens.contains r) || (o.dataFrom.contains r && !o.gotFrom r) ||
      (o.grp.children.contains r && !o.ready.contains r) then some r
  else if o.grp.rank ≠ 0 ∧ ((o.readySent ∧ r = o.grp.parent) ∨ (r = 0 ∧ o.probed.contains 0)) then some 0
  else none

/-- `COLL_STALL_TIMER`: a first expiry probes the awaited member; a second one, with the reply missing, reports it, or ends
the operation where rank 0 itself does not answer (R380, R383). -/
def execCollStallTimer (group job : BitVec 16) (seq : BitVec 32) (rank : BitVec 16) (s : State) :
    Host.Outcome State Fault Refusal :=
  .next (match s.op? ⟨group, job, seq⟩ with
    | none => s
    | some o => match (if s.ctl.dev.selfRefresh then none else o.awaited rank.toNat) with
      | none => s
      | some r =>
        if o.probed.contains r then
          if r = 0 then (s.decideHere o.key stABORTED_STALL 0).stopDue
          else (s.updOp o.key fun o => { o with probed := o.probed.filter (· ≠ r) }).report o.key kSTALL r |>.stopDue
        else
          (s.updOp o.key fun o => { o with probed := r :: o.probed }).sendCtl o r o.grp.rank rsPATH .probe)

end Sys2Proof.Machine
end

