-- ==== Sys2Proof/WellFormed.lean ====
section
/-! DEFINITION. Well-formed commands: the operands hang together (a body holds as many records as it counts, a control flit
or a collective packet carries the body of its own kind). Everything the manual itself rejects (a reserved field, a bad
LENGTH) is well-formed here and rejected by the command's meaning. -/
namespace Sys2Proof

/-- A CMD body holds the dependencies and declarations it counts (R406). -/
def CmdBody.wf (b : CmdBody) : Bool := b.deps.length == b.ndep.toNat && b.caps.length == b.ncap.toNat

/-- The kind of a control flit's content. -/
def Lctl.kind : Lctl → Nat
  | .linkHello .. => 1
  | .keyMsg .. => 2
  | .keyUpdate .. => 3
  | .ringState .. => 4
  | .credit => 5
  | .echo .. => 6
  | .echoReply .. => 7
  | .wState .. => 8
  | .other _ => 0

/-- The content has the kind of its command's row, or is none of the layouts. -/
def Lctl.fits (m : Lctl) (kind : Nat) : Bool := m.kind == kind || m.kind == 0

/-- A packet's flits arrive with a header that carries its route fields; those before it belong to packets that are not
complete. -/
def RxFlit.carries (f : RxFlit) (k : CollPkt) : Bool :=
  f.before.all (fun h => !h.eop) && f.dst == k.dst && f.job == k.job && f.vc == k.vc && f.dir == k.dir && f.xpd == k.xpd && f.uturn == k.uturn && f.hops == k.hops

/-- The kind of a collective packet's body. -/
def CollBody.kind : CollBody → Nat
  | .open .. => 1
  | .data .. => 2
  | .ready => 3
  | .commit => 4
  | .finish .. => 5
  | .report .. => 6
  | .retry => 7
  | .probe => 8
  | .probeReply .. => 9
  | .length .. => 10

/-- The operands of a command hang together. -/
def Instr.wf : Instr → Bool
  | .cmdRun _ b => b.wf
  | .cmdInstall _ b => b.wf
  | .cmdPreempt _ b => b.wf
  | .cmdRelease _ b => b.wf
  | .regWrite _ _ n _ vals => vals.length == n.toNat
  | .linkHello _ _ m => m.fits 1
  | .keyMsg _ _ m => m.fits 2
  | .keyUpdate _ _ m => m.fits 3
  | .ringState _ _ m => m.fits 4
  | .echo _ _ m => m.fits 6
  | .credit _ f => f.body.fits 5
  | .echoReply _ _ m _ => m.fits 7
  | .wState _ _ m => m.fits 8
  | .collOpen _ f k _ => k.body.kind == 1 && f.carries k
  | .collData _ f k _ => k.body.kind == 2 && f.carries k
  | .collReady _ f k _ => k.body.kind == 3 && f.carries k
  | .collCommit _ f k _ => k.body.kind == 4 && f.carries k
  | .collEnd _ f k _ => k.body.kind == 5 && f.carries k
  | .collReport _ f k => k.body.kind == 6 && f.carries k
  | .collRetry _ f k _ => k.body.kind == 7 && f.carries k
  | .collProbe _ f k => k.body.kind == 8 && f.carries k
  | .collProbeReply _ f k => k.body.kind == 9 && f.carries k
  | .collLength _ f k _ => k.body.kind == 10 && f.carries k
  | .collPacketForward _ f k => f.carries k
  | _ => true

end Sys2Proof
end

