-- ==== Sys2Proof/Machine/LinkEvents.lean ====
section
/-! DEFINITION. Events of the Meloend ports (13 R328 to R351; 19 R504): training, keys, maps, retries, credits and failures. -/
namespace Sys2Proof.Machine

def State.updPort (s : State) (p : MPort) (f : Port → Port) : State := s.mapCtl fun c => c.setPort p (f (c.port p))
def State.port (s : State) (p : MPort) : Port := s.ctl.port p

/-- A sequenced or carrying port. -/
def Port.carries (v : Port) : Bool := v.state == .up || v.state == .draining

/-! ### Control flits (R335, R336) -/

/-- A reserved value in an LCTL payload, or none of its layouts. -/
def lctlBad : Lctl → Bool
  | .linkHello _ _ _ _ axis role _ _ _ => decide (4 < axis.toNat) || role == 3
  | .ringState axis _ _ _ => decide (4 < axis.toNat)
  | .other _ => true
  | _ => false

/-- The protocol errors that a flit of a training port shows: it is not sequenced yet (log 24). -/
def trainingBad (f : FlitHdr) (m : Lctl) : Bool :=
  f.ftype != 2 || f.rsvd != 0 || decide (2 ≤ f.dir.toNat) || f.vc != 3 || f.job != 0 || f.vlen != 0 || !f.sop || !f.eop || m.kind == 0

/-- An LCTL flit arrives: on a link that carries traffic in sequence, on a training port as it is. -/
def State.lctl (s : State) (p : MPort) (f : RxFlit) (m : Lctl) (up training : State → State) : State :=
  if (s.port p).carries then s.rxSeq p f 2 (lctlBad m) up
  else if (s.port p).state = .training then (if trainingBad f.toFlitHdr m || lctlBad m then s.portDown p .protocol else training s)
  else s

/-! ### Training (R345) -/

/-- The LINK_HELLO that a port sends (R335). -/
def Ctl.hello (c : Ctl) (p : MPort) : Lctl :=
  let w := c.reg (Addr.mlkPcfg p.val)
  .linkHello 1 1 c.devid (BitVec.ofNat 4 p.val) (w.extractLsb' 0 3) (w.extractLsb' 3 2) (w.extractLsb' 5 3)
    (c.dev.sealed || c.bit Addr.mlkLcfg 0) c.dev.sealed

/-- `LANE_LOCK`: steps 1 and 2, with the error ratio of R328 over 10^10 bits or more. -/
def execLaneLock (p : MPort) (errors bits : Nat) (s : State) : Host.Outcome State Fault Refusal :=
  let v := s.port p
  .next (if v.state = .training ∧ v.train.lock = false ∧ 10 ^ 10 ≤ bits then
      if errors * 100000 ≤ 24 * bits then
        (s.updPort p fun v => { v with train := { v.train with lock := true } }).sendTraining p (s.ctl.hello p)
      else s.portDown p .ber
    else s)

/-- `LINK_HELLO`: version and wiring (R335, R348), then the round trip is measured. -/
def State.helloArrives (s : State) (p : MPort) (m : Lctl) : State :=
  match m with
  | .linkHello vmin vmax devid port axis role widx encReq sealedBit =>
    let v := s.port p
    if v.state ≠ .training ∨ v.train.lock = false ∨ v.train.hello = true then s
    else if ¬ (vmin ≤ 1 ∧ 1 ≤ vmax) then s.portDown p .version
    else
      let wired := match s.ctl.neighbour p with
        | some (d, r) => d == devid && axis.toNat == s.ctl.pAxis p && (if axis = 1 then widx.toNat == r && role == 0 else role.toNat == r)
        | none => false
      if wired then
        let token : BitVec 64 := s.free.extractLsb' 0 64
        (s.tick.updPort p fun v =>
          { v with train := { v.train with hello := true }, ver := 1, peer := devid, peerPort := port
                   peerEnc := encReq || sealedBit, echoTok := some token }).sendTraining p (.echo token)
      else s.portDown p .miswired
  | _ => s

/-- `LINK_HELLO`. -/
def execLinkHello (p : MPort) (f : RxFlit) (m : Lctl) (s : State) : Host.Outcome State Fault Refusal :=
  .next (s.lctl p f m id fun s => s.helloArrives p m)

/-- What the tag of a KEY_MSG covers: GEN, nonce, and both DEVIDs and port numbers, the sender's first (log 24). -/
def keyMsgBytes (gen : BitVec 32) (nonce : BitVec 256) (d1 : BitVec 15) (p1 : Nat) (d2 : BitVec 15) (p2 : Nat) : List Byte :=
  beBytes 4 gen.toNat ++ beBytes 32 nonce.toNat ++ beBytes 2 d1.toNat ++ beBytes 1 p1 ++ beBytes 2 d2.toNat ++ beBytes 1 p2

/-- The tag of a KEY_MSG: HMAC under LS (R504). -/
def LinkSecret.tag (ls : LinkSecret) (b : List Byte) : BitVec 256 := BitVec.ofNat 256 (ofBe (hmac (beBytes 32 ls.key.toNat) b))

/-- Key and salt of the direction that a DEVID and port send on (R504). -/
def linkKey (ls : BitVec 256) (nLow nHigh : BitVec 256) (d : BitVec 15) (port : Nat) : List Byte :=
  hkdf (beBytes 32 nLow.toNat ++ beBytes 32 nHigh.toNat) (beBytes 32 ls.toNat)
    (ascii "S4 LINK" ++ beBytes 2 d.toNat ++ beBytes 1 port) 36

/-- Both nonces are known: keys, then UP. -/
def State.keysUp (s : State) (p : MPort) (ls : LinkSecret) : State :=
  let v := s.port p
  let d := s.ctl.devid
  let mine := v.myNonce.getD 0
  let theirs := v.peerNonce.getD 0
  let low := if d < v.peer then mine else theirs
  let high := if d < v.peer then theirs else mine
  (s.updPort p fun v =>
    { v with train := { v.train with keyed := true }
             txKey := some ⟨linkKey ls.key low high d p.val, 0, none⟩
             rxKey := some ⟨linkKey ls.key low high v.peer v.peerPort.toNat, 0, none⟩ }).portUp p

/-- Steps 5 to 7 once the round trip is known: KEY_MSG where the link must encrypt, DOWN without a secret (R344), UP once both
messages have passed. -/
def State.finishTraining (s : State) (p : MPort) : State :=
  let v := s.port p
  if v.train.rtt = false ∨ v.train.echoed = false then s
  else if s.ctl.mustEncrypt p = false then s.portUp p
  else match v.secret with
    | none => s.portDown p .key
    | some ls =>
      match v.myNonce with
      | none =>
        let n := s.free
        let s := (s.tick.updPort p fun v => { v with myNonce := some n }).sendTraining p
          (.keyMsg ls.gen n (ls.tag (keyMsgBytes ls.gen n s.ctl.devid p.val v.peer v.peerPort.toNat)))
        if v.peerNonce.isSome then State.keysUp s p ls else s
      | some _ => if v.peerNonce.isSome then State.keysUp s p ls else s

/-- `ECHO`: answered with the same token, in training or on a link that is UP. -/
def execEcho (p : MPort) (f : RxFlit) (m : Lctl) (s : State) : Host.Outcome State Fault Refusal :=
  .next (match m with
    | .echo token => s.lctl p f m (fun s => s.sendOn p (.lctl (.echoReply token))) fun s =>
      if (s.port p).train.lock = true then
        ((s.sendTraining p (.echoReply token)).updPort p fun v => { v with train := { v.train with echoed := true } }).finishTraining p
      else s
    | m => s.lctl p f m id id)

/-- `ECHO_REPLY`: the round trip, at most 5.5 us (R339). -/
def execEchoReply (p : MPort) (f : RxFlit) (m : Lctl) (rttNs : Nat) (s : State) : Host.Outcome State Fault Refusal :=
  .next (match m with
    | .echoReply token => s.lctl p f m id fun s =>
      let v := s.port p
      if v.train.hello = true ∧ v.train.rtt = false ∧ v.echoTok = some token then
        if rttNs ≤ 5500 then
          (s.updPort p fun v => { v with train := { v.train with rtt := true }, rtt10ns := BitVec.ofNat 14 (rttNs / 10)
                                         echoTok := none }).finishTraining p
        else s.portDown p .reach
      else s
    | m => s.lctl p f m id id)

/-- `KEY_MSG` (R504): GEN and tag must agree. -/
def execKeyMsg (p : MPort) (f : RxFlit) (m : Lctl) (s : State) : Host.Outcome State Fault Refusal :=
  .next (match m with
    | .keyMsg gen nonce tag => s.lctl p f m id fun s =>
      let v := s.port p
      if v.train.hello = true ∧ s.ctl.mustEncrypt p = true then
        match v.secret with
        | none => s.portDown p .key
        | some ls =>
          if gen = ls.gen ∧ tag = ls.tag (keyMsgBytes gen nonce v.peer v.peerPort.toNat s.ctl.devid p.val) then
            (s.updPort p fun v => { v with peerNonce := some nonce }).finishTraining p
          else s.portDown p .key
      else s
    | m => s.lctl p f m id id)

/-- `TRAINING_RETRY`: a port that is DOWN trains again while EN is 1 (R345). -/
def execTrainingRetry (p : MPort) (s : State) : Host.Outcome State Fault Refusal :=
  .next (if (s.port p).state = .down then s.mapCtl fun c => c.startTraining p else s)

/-! ### Control flits on a link that is UP -/

/-- `KEY_UPDATE` (R343): the group counter from which the neighbour's next key applies. -/
def execKeyUpdate (p : MPort) (f : RxFlit) (m : Lctl) (s : State) : Host.Outcome State Fault Refusal :=
  .next (match m with
    | .keyUpdate ctr => s.lctl p f m
        (fun s => s.updPort p fun v => { v with rxKey := v.rxKey.map fun k => { k with nextAt := some ctr } }) id
    | m => s.lctl p f m id id)

/-- The group counter that a KEY_UPDATE names: a free value, at least 4,096 groups ahead and at most 2^32 (log 24). -/
def DirKey.nextFrom (k : DirKey) (free : Nat) : Nat := min (2 ^ 32) (max (k.groups + 4096) (free % 2 ^ 32))

/-- `LINK_KEY_LIMIT` (R343): the port announces its next key, once. -/
def execLinkKeyLimit (p : MPort) (s : State) : Host.Outcome State Fault Refusal :=
  let v := s.port p
  .next (match v.txKey with
    | some k =>
      if v.carries && v.enc && k.nextAt.isNone then
        let ctr : Word := BitVec.ofNat 64 (k.nextFrom s.free.toNat)
        (s.tick.updPort p fun v => { v with txKey := some { k with nextAt := some ctr } }).sendOn p (.lctl (.keyUpdate ctr))
      else s
    | none => s)

/-- Takes a report into a map when its RSEQ is newer than any held from that origin; answers whether it was. -/
def takeReportIn (rs : List RingReport) (r : RingReport) : List RingReport × Bool :=
  match rs.find? fun x => x.origin = r.origin ∧ x.axis = r.axis with
  | some old => if newer r.rseq old.rseq then (rs.map (fun x => if x.origin = r.origin ∧ x.axis = r.axis then r else x), true) else (rs, false)
  | none => (r :: rs, true)

/-- `RING_STATE` (R351): a newer report of another S4 updates the ring map and goes on to the other ring port. -/
def execRingState (p : MPort) (f : RxFlit) (m : Lctl) (s : State) : Host.Outcome State Fault Refusal :=
  .next (match m with
    | .ringState axis origin rseq links => s.lctl p f m (training := id) fun s =>
        if origin = s.ctl.devid then s
        else
          let (rs, new) := takeReportIn s.ctl.links.ring ⟨origin, axis, rseq, links.zeroExtend 8⟩
          if new then
            let s := s.mapCtl fun c => { c with links := { c.links with ring := rs } }
            match s.ctl.axisOf p with
            | some a =>
              match s.ctl.portOf a (if s.ctl.pRole p = 0 then 1 else 0) with
              | some q => if q ≠ p ∧ (s.port q).state = .up then s.sendOn q (.lctl m) else s
              | none => s
            | none => s
          else s
    | m => s.lctl p f m id id)

/-- `W_STATE` (R351). -/
def execWState (p : MPort) (f : RxFlit) (m : Lctl) (s : State) : Host.Outcome State Fault Refusal :=
  .next (match m with
    | .wState origin rseq links => s.lctl p f m (training := id) fun s =>
        if origin = s.ctl.devid then s
        else s.mapCtl fun c =>
          { c with links := { c.links with wmap := (takeReportIn c.links.wmap ⟨origin, 0, rseq, links.zeroExtend 8⟩).1 } }
    | m => s.lctl p f m id id)

/-- `CREDIT` (R341): its header carries the credits. -/
def execCredit (p : MPort) (f : RxLctl) (s : State) : Host.Outcome State Fault Refusal :=
  .next (s.lctl p f.toRxFlit f.body id id)

/-- `CREDIT_RETURN_TIMER` (R341). -/
def execCreditReturnTimer (p : MPort) (s : State) : Host.Outcome State Fault Refusal :=
  let v := s.port p
  .next (if v.carries && v.owed.any (· != 0) then s.sendOn p (.lctl .credit) else s)

/-- `NAK` (R338): everything before the point is acknowledged and everything from it is sent again. -/
def execNak (p : MPort) (f : FlitHdr) (s : State) : Host.Outcome State Fault Refusal :=
  let v := s.port p
  .next (if v.carries then
      if v.flitBad f 3 then s.portDown p .protocol
      else (s.updPort p fun v => v.ack f.aack).resend p f.aack
    else s)

/-- `IDLE_FLIT` (R332): its AACK is applied, and what waited may be sent. -/
def execIdleFlit (p : MPort) (f : FlitHdr) (s : State) : Host.Outcome State Fault Refusal :=
  let v := s.port p
  .next (if v.carries then
      if v.flitBad f 0 then s.portDown p .protocol
      else (s.updPort p fun v => v.ack f.aack).pump p
    else s)

/-- What the port counts for an errored flit; none where its FCRC or tag is good after all. -/
def errorCount (v : Port) : FlitError → Option (Option Nat)
  | .codeword => some (some 16)
  | .flit b => if (parseFlit b).isNone then some none else none
  | .sealed c t => match v.rxKey with
    | some k => if (gcmOpen (k.key.take 32) k.nonce [] c t).isNone then some (some 32) else none
    | none => some (some 32)

/-- `FLIT_ERRORED` (R327, R333, R338, R342): an uncorrectable codeword is counted in UNCORR, a seal group whose tag fails in TAGFAIL;
the flit and those after it are discarded, and one NAK names what is missing. -/
def execFlitErrored (p : MPort) (e : FlitFault) (s : State) : Host.Outcome State Fault Refusal :=
  let v := s.port p
  .next (if v.carries then
      let (v', r) := v.rxBefore e.before
      let s := s.mapCtl fun c => c.setPort p v'
      if r = RxEnd.bad then s.portDown p .protocol
      else match errorCount v' e.error with
        | some n => (s.mapCtl fun c => match n with
            | some at_ => c.bump (Addr.mlkPerr p.val) at_ 16 1
            | none => c).sendNak p
        | none => if r = RxEnd.gap then s.sendNak p else s
    else s)

/-- `RETRY_TMO` (R338). -/
def execRetryTmo (p : MPort) (s : State) : Host.Outcome State Fault Refusal :=
  let v := s.port p
  .next (if v.carries && v.inflight != 0 then s.resend p v.oldest else s)

/-! ### Failures of a port -/

/-- `PORT_LOSS_OF_LIGHT` (R346): light or lane lock lost for 1 us. -/
def execPortLossOfLight (p : MPort) (light : Bool) (s : State) : Host.Outcome State Fault Refusal :=
  let v := s.port p
  .next (if v.carries || v.state == .training then s.portDown p (if light then .noLight else .lockOrFec) else s)

/-- `BER_INTERVAL` (R328). -/
def execBerInterval (p : MPort) (errors bits : Nat) (s : State) : Host.Outcome State Fault Refusal :=
  .next (if (s.port p).carries ∧ bits < errors * 1000 then s.portDown p .ber else s)

end Sys2Proof.Machine
end

