-- ==== Sys2Proof/Machine/Reliability.lean ====
section
/-! DEFINITION. Probe runs, probe sets, unit tests and the service counters of cores (18 R468 to R479): the shared operations,
and the rows of the table that name them. -/
namespace Sys2Proof.Machine

def State.mapRel (s : State) (f : Rel → Rel) : State := s.mapCtl fun c => { c with rel := f c.rel }

/-! ### Starting a run (R474, R475) -/

/-- Starts a run on a core: a release probe at once; a routine run waits for a hot window before step 1 of R475 (R474). -/
def State.startRun (s : State) (c : CoreId) (release : Bool) : State :=
  let x := s.ctl.rel
  let r : ProbeRun := { core := c, release := release, slot := x.psActive, set := s.ctl.psBytes x.psActive, trial := x.psTrial
                        number := x.runNo, waiting := !release, prog := 0, res := [], esc := false, point := 0, fails := 0
                        suspect := 0, due := 0, first := none }
  let s := s.mapRel fun x => { x with runs := x.runs ++ [r], runNo := x.runNo + 1, owed := x.owed.filter (· ≠ c) }
  if release then s.beginRun r else s

/-- A release probe of a quarantined core. With two cores under probe it abandons a routine run; where both are release
probes the Guide owes it (log 55). -/
def State.releaseProbe (s : State) (c : CoreId) : State :=
  if s.ctl.mayRelease && s.ctl.coreOut c.val then
    let s := if 2 ≤ s.ctl.rel.runs.length then
        match s.ctl.rel.runs.find? fun r => !r.release with
        | some r => s.abandonProbe r.core
        | none => s
      else s
    if s.ctl.rel.runs.length < 2 then s.startRun c true
    else s.mapRel fun x => { x with owed := x.owed.filter (· ≠ c) ++ [c] }
  else s

def Ctl.hoursSince (c : Ctl) (n : Nat) : Nat := c.fld (Addr.relCore n) 12 14

/-- A core that a routine run may use: in service, in no running command's placement and in no run. -/
def State.routineCore (s : State) (c : CoreId) : Bool :=
  s.coreFree c && s.ctl.qstate c.val == 0 && !s.ctl.rel.runs.any fun r => r.core = c

/-- PROBE_RUN_START (R474): the release probe that the Guide owes the core (R468), or a routine run on the core in service whose
HOURS_SINCE is largest. -/
def execProbeRunStart (c : CoreId) (s : State) : Host.Outcome State Fault Refusal :=
  .next (
    if s.ctl.rel.owed.contains c then s.releaseProbe c
    else
      let most := (List.finRange 384).all fun d => !s.routineCore d || decide (s.ctl.hoursSince d.val ≤ s.ctl.hoursSince c.val)
      if s.ctl.mayProbe && s.ctl.bit Addr.relCfg 0 && s.routineCore c && most && decide (s.ctl.rel.runs.length < 2) then
        s.startRun c false
      else s)

/-- HOT_WAIT_EXPIRY (R474): no hot window came, and the run goes on cooler; in RETREAT and during a recovery none starts (R455,
R476). -/
def execHotWaitExpiry (c : CoreId) (s : State) : Host.Outcome State Fault Refusal :=
  .next (match s.ctl.rel.runs.find? fun r => r.core = c ∧ r.waiting = true with
    | some r => if s.ctl.mayProbe then s.beginRun r else s
    | none => s)

/-- PROBE_RUN_ABANDON (R475, R476): neither pass nor fail, HOURS_SINCE unchanged. -/
def execProbeRunAbandon (c : CoreId) (s : State) : Host.Outcome State Fault Refusal := .next (s.abandonProbe c)

/-! ### A stress point's result (R472, R479) -/

/-- A program of a bundle passed: it halted with 0x0000, its signatures and flags match, and it escalated exactly if the set
expects it to. -/
def progPass (b : List Byte) (i : Nat) (r : ProbeProg) : Bool :=
  r.halt == 0 && r.sigs == psSigs b i && r.flags == psFlags b i && r.escalated == psExpect b i

/-- The results of a bundle's programs, in order; a program without a result has not passed. -/
def resultsOf (b : List Byte) (res : List ProbeProg) : List (Nat × ProbeProg) :=
  (List.range (psNprog b)).map fun i => (i, res[i]?.getD ⟨0xFFFF, [], [], false⟩)

/-- What a point's programs left: as the core computed it, but where its circuits failed at the point and left something else. -/
def observed (left failed : List ProbeProg) : List ProbeProg :=
  (List.range (max left.length failed.length)).map fun i => (failed[i]?.or left[i]?).getD ⟨0xFFFF, [], [], false⟩

def pointPass (b : List Byte) (res : List ProbeProg) : Bool := (resultsOf b res).all fun e => progPass b e.1 e.2

/-- A fault injected with COUNT 3 did not escalate: the core's detector failed (R472). -/
def detectorFails (b : List Byte) (res : List ProbeProg) : Bool :=
  (resultsOf b res).any fun e => psExpect b e.1 && !e.2.escalated

/-- First failing program, and the index of the first differing signature word with what was expected and observed; index 0xFF
where a flag or status differs, with free words, for the manual names none. -/
def firstDiff (b : List Byte) (res : List ProbeProg) (free : BitVec 256) : Nat × BitVec 8 × BitVec 32 × BitVec 32 :=
  match (resultsOf b res).find? fun e => !progPass b e.1 e.2 with
  | none => (0, 0xFF, free.extractLsb' 0 32, free.extractLsb' 32 32)
  | some (i, r) =>
    let g := psSigs b i
    match (List.range g.length).find? fun k => r.sigs[k]? ≠ g[k]? with
    | some k => if r.halt = 0 then (i, BitVec.ofNat 8 k, g[k]?.getD 0, r.sigs[k]?.getD 0)
        else (i, 0xFF, free.extractLsb' 0 32, free.extractLsb' 32 32)
    | none => (i, 0xFF, free.extractLsb' 0 32, free.extractLsb' 32 32)

def State.updRun (s : State) (c : CoreId) (f : ProbeRun → ProbeRun) : State :=
  s.mapRel fun x => { x with runs := x.runs.map fun r => if r.core = c then f r else r }

/-- Notes a failed or suspect point in its run, with the conditions of the first one (R481). -/
def State.noteFail (s : State) (r : ProbeRun) (res : List ProbeProg) (susp : Bool) : State :=
  let b := r.set
  let q := psPoint b r.point
  let d := firstDiff b res s.free
  let f : FirstFail := { point := r.point, prog := d.1, index := d.2.1, expected := d.2.2.1, observed := d.2.2.2
                         suspect := susp, temp := BitVec.ofInt 16 (s.ctl.temp r.core.val), voff := BitVec.ofInt 16 q.1
                         clkKhz := s.ctl.probeKhz r.core.val q }
  let m : BitVec 32 := BitVec.ofNat 32 (2 ^ r.point)
  (s.tick).updRun r.core fun x =>
    { x with fails := if susp then x.fails else x.fails ||| m, suspect := if susp then x.suspect ||| m else x.suspect
             first := some (x.first.getD f) }

/-! ### PROBE_SET records (R478, R479, R481) -/

/-- The record of an action or a trial's end: PS_ACTION or 4, PS_VER of the set made active, LAST_STATUS. Where no set is made
active the manual states no version: a free value. -/
def State.psRecord (s : State) (code : Nat) (made : Option Bool) (action : Nat) (ev : Option (BitVec 64)) : State :=
  let ver : Nat := match made with
    | some slot => (s.ctl.psVer slot).toNat
    | none => (s.free.extractLsb' 0 32).toNat
  let r := s.ctl.cairn 10 .module 0 action
    ([BitVec.ofNat 8 code, 0, 0, 0] ++ leBytes 4 ver ++ leBytes 2 s.ctl.rel.psLast.toNat)
  let s := if made.isSome then s else s.tick
  s.mapCtl fun c => c.record { r with ev := ev.map fun d => (evPROBE_SET_ROLLBACK, d) }

/-- The other slot becomes active and the trial ends; PROBE_SET_ROLLBACK names both versions (R479, R545). -/
def State.rollBack (s : State) : State :=
  let old := s.ctl.rel.psActive
  let d : BitVec 64 := s.ctl.psVer old ++ s.ctl.psVer (!old)
  let s := s.mapRel fun x => { x with psActive := !old, psTrial := false }
  s.psRecord 3 (some (!old)) 8 (some d)

/-- A suspect result; the second rolls the set back (R479). -/
def State.suspectResult (s : State) : State :=
  let s := s.mapRel fun x => { x with psSusp := x.psSusp + 1 }
  if 2 ≤ s.ctl.rel.psSusp then s.rollBack else s

/-! ### The end of a run (R473, R475 step 5) -/

/-- Narrows a core's limits once; false where FMAX would fall below 612.5 MHz. -/
def Ctl.narrow (c : Ctl) (n : Nat) : Ctl × Bool :=
  let a := Addr.relCore n
  if c.fld a 2 2 < 3 then (c.setFld a 2 2 (c.fld a 2 2 + 1), true)
  else if c.fld a 4 3 < 5 then (c.setFld a 4 3 (c.fld a 4 3 + 1), true)
  else (c, false)

/-- DETAIL byte 4 of PROBE_FAIL: class of the first failing point, 3 suspect; free where no point failed. -/
def failByte (b : List Byte) (f : Option FirstFail) (free : BitVec 256) : Nat := match f with
  | some f => if f.suspect then 3 else psClass (psPoint b f.point)
  | none => (free.extractLsb' 0 8).toNat

/-- The PROBE_RESULT record (R481). -/
def State.probeRecord (s : State) (r : ProbeRun) (action : Nat) : State :=
  if r.release || r.first.isSome then
    let b := r.set
    let a := Addr.relCore r.core.val
    let f := r.first
    let data : List Byte := leBytes 4 r.fails.toNat ++ leBytes 4 r.suspect.toNat ++
      (match f with
        | some f => [BitVec.ofNat 8 f.point, BitVec.ofNat 8 f.prog, f.index, 0] ++ leBytes 4 f.expected.toNat ++
            leBytes 4 f.observed.toNat
        | none => leBytes 3 (s.free.extractLsb' 8 24).toNat ++ [0] ++ leBytes 8 (s.free.extractLsb' 32 64).toNat) ++
      [BitVec.ofNat 8 (s.ctl.fld a 2 2), BitVec.ofNat 8 (s.ctl.fld a 4 3), if r.release then 1 else 0]
    let c := s.ctl.cairn 5 .core r.core.val action data
    let c := { c with ev := some (evPROBE_FAIL, unitDetail .core r.core.val (failByte b f s.free)) }
    let c := match f with
      | some f => { c with temp := f.temp, voff := f.voff, clkKhz := f.clkKhz }
      | none => { c with clkKhz := s.ctl.probeKhz r.core.val (0, 0) }
    (if f.isSome then s else s.tick).mapCtl fun x => x.record c
  else s

/-- A run goes on under the set that is on trial. -/
def Ctl.underTrial (c : Ctl) (r : ProbeRun) : Bool := c.rel.psTrial && c.rel.psActive == r.slot && c.psBytes r.slot == r.set

/-- A completed run under a new set counts toward its trial; TRIAL_RUNS of them end it (R479). -/
def State.trialRun (s : State) (r : ProbeRun) : State :=
  if s.ctl.underTrial r then
    let s := s.mapRel fun x => { x with psRuns := x.psRuns + 1 }
    if s.ctl.fld Addr.relCfg 25 8 ≤ s.ctl.rel.psRuns then
      (s.mapCtl fun c => { c with rel := { c.rel with psTrial := false, psFloor := c.psVer r.slot } }).psRecord 4 (some r.slot) 0 none
    else s
  else s

/-- Ends a run whose core is quarantined for a cause: a release probe that fails leaves its core quarantined. -/
def State.failRun (s : State) (r : ProbeRun) (cause : Nat) : State :=
  let s := (s.probeRecord r 3).trialRun r
  let s := s.mapCtl fun c => c.setFld (Addr.relCore r.core.val) 12 14 0
  if r.release then
    let s := s.mapRel fun x => { x with runs := x.runs.filter fun y => y.core ≠ r.core }
    (s.setCore r.core Core.reset).mapCtl fun c =>
      (c.setFld (Addr.relCore r.core.val) 0 2 2).setFld (Addr.relCore r.core.val) 9 3 cause
  else s.quarantine r.core cause none

/-- Ends a run after its last point (R475 step 5). -/
def State.endRun (s : State) (r : ProbeRun) : State :=
  if r.due = 2 then s.failRun r 3
  else
    let nar := if r.due = 1 then s.ctl.narrow r.core.val else (s.ctl, true)
    if nar.2 = false then s.failRun r 3
    else
      let s := ({ s with ctl := nar.1 }).probeRecord r (if r.due = 1 then 4 else 0)
      let s := s.trialRun r
      let a := Addr.relCore r.core.val
      let s := s.mapCtl fun c => (c.setFld a 0 2 0).setFld a 12 14 0
      let s := (s.mapRel fun x => { x with runs := x.runs.filter fun y => y.core ≠ r.core }).setCore r.core Core.reset
      if r.release then
        -- a release probe passed (R469)
        let s := s.mapCtl fun c => (c.setFld a 7 2 0).setFld a 9 3 0
        (s.returnedRecord .core r.core.val true).trySvc
      else s

/-- Goes on to the next point, or ends the run. -/
def State.nextPoint (s : State) (r : ProbeRun) : State :=
  match s.ctl.rel.runs.find? fun x => x.core = r.core with
  | none => s
  | some r =>
    if r.point + 1 < psNpoint r.set then
      let r' := { r with point := r.point + 1 }
      (s.updRun r.core fun _ => r').beginPoint r'
    else s.endRun r

/-- PROBE_POINT_DONE (R472, R475, R479): the programs of a run's point have halted. What they left is compared with the golden values:
as the state's core holds it, but for the programs for which `res` gives what a failing circuit left. `prev` holds the results of the
previous slot's set at the same point, which a failure in a trial asks for, and after an automatic rollback too for the set rolled
back (DESIGN CHOICE, log 179). A point that a limit forbids is skipped, and counts as neither (R455, R476). -/
def execProbePointDone (c : CoreId) (skipped : Bool) (res prev : List ProbeProg) (s : State) : Host.Outcome State Fault Refusal :=
  .next (match s.ctl.rel.runs.find? fun r => r.core = c ∧ r.waiting = false with
    | none => s
    | some r =>
      let b := r.set
      let res := observed r.res res
      if skipped || s.ctl.pointLimited c.val (psPoint b r.point) || pointPass b res then s.nextPoint r
      else
        let k := psClass (psPoint b r.point)
        let rolledBack := r.trial && !s.ctl.rel.psTrial && s.ctl.rel.psActive != r.slot
        let trial := (s.ctl.underTrial r || rolledBack) && decide (k < 2)
        if trial && pointPass (s.ctl.psBytes (!r.slot)) prev then
          let s := s.noteFail r res true
          (if rolledBack then s else s.suspectResult).nextPoint r
        else
          let s := s.noteFail r res false
          match s.ctl.rel.runs.find? fun x => x.core = c with
          | none => s
          | some r =>
            let det := detectorFails b res
            if k = 0 then s.failRun r (if det then 3 else 2)
            else
              let due := if det then 2 else if k = 1 then max r.due 1 else r.due
              (s.updRun c fun x => { x with due := due }).nextPoint r)

/-- ESC_CNT_DECAY (R468): 720 h of the core's time in service have passed without an escalation. -/
def execEscCntDecay (c : CoreId) (s : State) : Host.Outcome State Fault Refusal :=
  .next (if s.ctl.coreOut c.val then s else s.mapCtl fun x => x.setFld (Addr.relCore c.val) 7 2 0)

/-- PROBE_OVERDUE (R474): the core's service hours since its last completed run reach PERIOD_H. -/
def execProbeOverdue (c : CoreId) (s : State) : Host.Outcome State Fault Refusal :=
  .next (if s.ctl.coreOut c.val then s
    else s.mapCtl fun x => x.setFld (Addr.relCore c.val) 12 14 (max (x.hoursSince c.val) (x.fld Addr.relCfg 1 14)))

/-! ### REL_CTL (R468, R470, R478) -/

/-- The status of a PS_ACTION, from its checks. -/
def State.psCheck (s : State) (n : Nat) : Status :=
  let r := s.ctl.rel
  if n = 1 then
    let len := s.ctl.fld Addr.relPsLen 0 25
    let b := s.mem.readBytes (s.ctl.fld Addr.relPsSrc 0 48) len
    if r.psTrial then stTXN_CONFLICT
    else if !psOk b len then stREJECTED_VERSION
    else if !psSigned b then stBAD_SIGNATURE
    else if !psForB0 b || decide (leField b 8 4 ≤ r.psFloor.toNat) then stREJECTED_VERSION
    else stOK
  else if n = 2 then
    if r.psTrial || decide ((s.ctl.psVer (!r.psActive)).toNat ≤ r.psFloor.toNat) then stTXN_CONFLICT else stOK
  else if r.psTrial then stOK else stTXN_CONFLICT

/-- A write of PS_ACTION: the action begins, unless one runs. -/
def State.psAction (s : State) (n : Nat) : State :=
  if s.ctl.rel.psAct.isSome || n == 0 || decide (3 < n) then s
  else
    let bytes := if n = 1 then s.mem.readBytes (s.ctl.fld Addr.relPsSrc 0 48) (s.ctl.fld Addr.relPsLen 0 25) else []
    s.mapRel fun r => { r with psAct := some ⟨n, s.psCheck n, bytes, 0⟩ }

/-- The effect of a PS_ACTION that ends; a ROLLBACK whose trial has ended meanwhile is refused (R478). -/
def State.psDone (s : State) (a : Action) : State :=
  let a := if a.code = 3 ∧ s.ctl.rel.psTrial = false then { a with status := stTXN_CONFLICT } else a
  let s := s.mapRel fun r => { r with psAct := none, psLast := a.status }
  let old := s.ctl.rel.psActive
  if a.status ≠ stOK then s.psRecord a.code none 0 none
  else if a.code = 1 then
    let s := s.mapRel fun r => { r with psImg := if old then r.psImg.set 0 (some a.bytes) else r.psImg.set 1 (some a.bytes) }
    s.psRecord 1 none 0 none
  else if a.code = 2 then
    let s := s.mapRel fun r => { r with psActive := !old, psTrial := true, psRuns := 0, psSusp := 0 }
    s.psRecord 2 (some (!old)) 0 none
  else s.rollBack

/-- PS_ACTION_DONE (R478): the action takes effect, BUSY clears, LAST_STATUS holds the result. -/
def execPsActionDone (s : State) : Host.Outcome State Fault Refusal :=
  .next (match s.ctl.rel.psAct with
    | none => s
    | some a => (s.psDone a).shown)

/-- TEST_SLICE and TEST_STACK start the test of a retired unit (R470). -/
def State.testSlice (s : State) (v : Nat) : State :=
  if 1 ≤ v ∧ v ≤ 32 ∧ s.ctl.sliceState (v - 1) = 1 then s.mapCtl fun c => c.setFld (Addr.bcSliceStat (v - 1)) 0 2 2 else s
def State.testStack (s : State) (v : Nat) : State :=
  if 1 ≤ v ∧ v ≤ 12 ∧ s.ctl.stackState (v - 1) = 1 then s.mapCtl fun c => c.setFld (Addr.hbmStat (v - 1)) 0 2 2 else s

/-- UNIT_TEST_DONE (R470): the result goes into a RETURNED record; the unit stays out of service. -/
def execUnitTestDone (u : UnitRef) (pass : Bool) (s : State) : Host.Outcome State Fault Refusal :=
  .next (match u with
    | .slice k => if s.ctl.sliceState k.val = 2 then
        (s.mapCtl fun c => c.setFld (Addr.bcSliceStat k.val) 0 2 1).returnedRecord .slice k.val pass 0
      else s
    | .stack k => if s.ctl.stackState k.val = 2 then
        (s.mapCtl fun c => c.setFld (Addr.hbmStat k.val) 0 2 1).returnedRecord .stack k.val pass 0
      else s
    | _ => s)

end Sys2Proof.Machine
end

