-- ==== Sys2Proof/Machine/Sessions.lean ====
section
/-! DEFINITION. Host messages (15 R392 to R419): what the S4 checks of every message, sessions and their end, EVENT_ACK and
resends, data transfer, and the other protocols of a host port. -/
namespace Sys2Proof.Machine

/-! ### Receiving (R395 to R399) -/

def noQueue : BitVec 16 := 0xFFFF

/-- The S4 receives on a host port: the port is UP and start-up has reached step 7 (R401). While the Guide is halted it sends
nothing (R31), and what arrives is discarded (R467; log 40). -/
def Ctl.listens (c : Ctl) (p : HPort) : Bool :=
  c.powered && !c.dev.halted && (c.hport p).state == .up && (c.dev.dstate != .boot || decide (7 ≤ c.dev.bootStep))

def Ctl.malformed (c : Ctl) : Ctl := c.bump Addr.eloDrop 32 16 1
def State.malformed (s : State) : State := s.mapCtl Ctl.malformed

/-- The header's reserved bits are zero; ESEQ is reserved except in EVENT_ACK (R397). -/
def hdrZero (h : MsgHdr) : Bool := decide (h.flags.toNat < 2) && h.rsvd == 0

/-- QUEUE is none, and the body has n bytes. -/
def plainHdr (h : MsgHdr) (n : Nat) : Bool := h.queue == noQueue && h.length.toNat == n && h.eseq == 0

/-- Where the session's latest message came from, by network (R413). -/
def Session.noteAddr (ses : Session) (h : MsgHdr) : Session :=
  let a : PeerAddr := ⟨h.port, h.srcIp, h.srcPort, h.srcMac⟩
  if netB h.port then { ses with addrB := some a } else { ses with addrA := some a }

/-- Receives a message of an open session: not on a port that is not UP, and in a frame that holds; unprotected only where R395
allows it; malformed by R399; otherwise its effect. -/
def State.recv (s : State) (h : MsgHdr) (unprotected : Bool) (ok : Ctl → Session → Bool) (act : Nat → Session → State → State) :
    State :=
  if s.ctl.listens h.port = false then s
  else match s.ctl.frameLost h with
  | some c => { s with ctl := c }
  | none =>
    if !unprotected && !s.ctl.passes h then s.mapCtl fun c => c.bump Addr.eloDrop 48 16 1
    else match s.ctl.sessionById h.session with
      | none => (s.mapCtl fun c => c.notePn h).malformed
      | some (slot, ses) =>
        let t := s.mapCtl fun c => c.notePn h
        if hdrZero h && h.ver == ses.ver && ok s.ctl ses then
          let ses := ses.noteAddr h
          act slot ses (t.mapCtl fun c => c.setSession slot ses)
        else t.malformed

/-- ACK and NACK of a message other than a CMD (R411). -/
def State.ack0 (s : State) (h : MsgHdr) : State := s.answerBy h fun h => .ack h stOK 0 0 0
def State.nack0 (s : State) (h : MsgHdr) (st : Status) : State := s.answerBy h fun h => .nack h st 0

/-- The session owns a job: a committed job entry names both (R429). -/
def Ctl.ownsJob (c : Ctl) (ses : Session) (job : Nat) : Bool :=
  (List.range 16).any fun j => c.fld (Addr.jobA j) 0 16 == job && c.fld (Addr.jobA j) 32 32 == ses.id.toNat
def Ctl.mayName (c : Ctl) (ses : Session) (job : Nat) : Bool := ses.admin || c.ownsJob ses job

/-- MALFORMED_DATAGRAM (R396, R399). -/
def execMalformedDatagram (port : HPort) (s : State) : Host.Outcome State Fault Refusal :=
  .next (if s.ctl.listens port then s.malformed else s)

/-! ### HELLO (R400 to R403) -/

/-- The largest of 1, 2, 4 and 8 that does not exceed the request, or 1. -/
def grantData (r : BitVec 16) : BitVec 16 := if 8 ≤ r.toNat then 8 else if 4 ≤ r.toNat then 4 else if 2 ≤ r.toNat then 2 else 1

def grantNq (n : BitVec 8) : Nat := max 1 (min 64 n.toNat)

/-- The feature bits of R206. -/
def grantFeatures (f : BitVec 64) : BitVec 64 := f &&& 0x3F

def helloVersion (b : HelloBody) : Bool := decide (b.vmin.toNat ≤ 1 ∧ 1 ≤ b.vmax.toNat)

/-- HELLO_ACK of a session. -/
def State.helloAck (s : State) (h : MsgHdr) (ses : Session) (resumed : BitVec 8) : State :=
  s.reply h fun h => .helloAck h stOK ses.ver ses.isa (BitVec.ofNat 8 ses.nq) s.ctl.dev.dstate ses.maxdata ses.features ses.id
    ((s.ctl.devid).zeroExtend 16) resumed s.snapVer (ses.queues.map fun q => (q.nextExp, q.lastDone.getD noneDone, q.held))

/-- HELLO_ACK of a refusal: no session, nothing negotiated. -/
def State.helloNack (s : State) (h : MsgHdr) (st : Status) : State :=
  s.reply h fun h => .helloAck h st 0 0 0 s.ctl.dev.dstate 0 0 0 ((s.ctl.devid).zeroExtend 16) 0 s.snapVer []

/-- IDs used since power-on. -/
def Ctl.usedIds (c : Ctl) : List (BitVec 32) := c.elo.idsUsed ++ c.elo.sessions.map fun e => e.2.id

/-- A session ID: the one proposed where it is free, else the lowest that is (R402). -/
def Ctl.freshId (c : Ctl) (want : BitVec 32) : BitVec 32 :=
  let free (i : BitVec 32) : Bool := i != 0 && !c.usedIds.contains i
  if free want then want
  else ((List.range (c.usedIds.length + 2)).find? fun i => free (BitVec.ofNat 32 i)).elim 1 (BitVec.ofNat 32)

/-- The lowest free session slot. -/
def Ctl.freeSlot (c : Ctl) : Option Nat := (List.range 1024).find? fun i => (c.elo.sessions.find? fun e => e.1 = i).isNone

def newSession (h : MsgHdr) (b : HelloBody) (id : BitVec 32) : Session :=
  { id := id, token := b.token, srcIp := h.srcIp, ver := 1, isa := 1, features := grantFeatures b.features
    maxdata := grantData b.maxdata, nq := grantNq b.nq, state := .opened, admin := false
    queues := List.replicate (grantNq b.nq + 1) CmdQueue.new, addrA := none, addrB := none, eseq := 0, acked := 0
    unacked := [], keptComp := [], keptDev := [], evLost := 0, txn := none, closed := [], keys := [], report := none
    rebuilt := false }

/-- Sends the unacknowledged EVENTs of a session again (R413). -/
def State.resendEvents (s : State) (slot : Nat) (comp : Bool) : State :=
  match s.session? slot with
  | none => s
  | some ses =>
    let evs := ses.unacked.filter fun e => match e.2 with
      | .completion .. => true
      | .device .. => !comp
    evs.foldl (fun (s : State) e => s.sendCopies ses e.1 true e.2) s

/-- Resumption (R402, R403): the session waits for attestation again. -/
def State.resume (s : State) (h : MsgHdr) (b : HelloBody) : State :=
  match s.ctl.elo.sessions.find? fun e => e.2.id = b.rsession ∧ e.2.token = b.token with
  | none => s.helloNack h stNOT_ADMITTED
  | some (slot, ses) =>
    if helloVersion b && b.isaMax != 0 && ses.ver == 1 && ses.isa == 1 && ses.features == grantFeatures b.features then
      let r : BitVec 8 := if ses.rebuilt then 2 else 1
      let ses := { ses.noteAddr h with
        srcIp := h.srcIp, maxdata := grantData b.maxdata, rebuilt := false, admin := false
        state := if ses.state = .closing then .closing else .opened }
      let s := (s.mapCtl fun c => c.setSession slot ses).helloAck h ses r
      s.resendEvents slot true
    else s.helloNack h stREJECTED_VERSION

/-- A HELLO that a port has received (R400 to R403). -/
def State.hello (s : State) (h : MsgHdr) (b : HelloBody) (newId : BitVec 32) : State :=
    if !(hdrZero h && h.queue == noQueue && h.eseq == 0 && decide (32 ≤ h.length.toNat) && b.rsvd6 == 0 && b.rsvd20 == 0 &&
        b.token != 0) then s.malformed
    else if s.ctl.dev.dstate = .safe then s.reply h .byeTo
    else if b.rsession ≠ 0 then s.resume h b
    else if !(helloVersion b && b.isaMax != 0) then s.helloNack h stREJECTED_VERSION
    else match s.ctl.elo.sessions.find? fun e => e.2.token = b.token ∧ e.2.srcIp = h.srcIp with
      | some (slot, ses) =>
        let ses := { ses.noteAddr h with maxdata := grantData b.maxdata }
        (s.mapCtl fun c => c.setSession slot ses).helloAck h ses 0
      | none => match s.ctl.freeSlot with
        | none => s.helloNack h stREJECTED_CAPACITY
        | some slot =>
          let ses := (newSession h b (s.ctl.freshId newId)).noteAddr h
          (s.mapCtl fun c => { c with elo := { c.elo with
            sessions := KMap.insertKey slot ses c.elo.sessions, idsUsed := ses.id :: c.elo.idsUsed } }).helloAck h ses 0

/-- HELLO (R400 to R403), which needs no association (R395). -/
def execHello (h : MsgHdr) (b : HelloBody) (newId : BitVec 32) (s : State) : Host.Outcome State Fault Refusal :=
  .next (
    if s.ctl.listens h.port = false then s
    else match s.ctl.frameLost h with
      | some c => { s with ctl := c }
      | none => (s.mapCtl fun c => c.notePn h).hello h b newId)

/-! ### The end of a session (R404) -/

/-- Accepted, uncompleted commands of a session. -/
def Ctl.busySession (c : Ctl) (id : BitVec 32) : Bool := c.jnl.cmds.any fun m => m.accepted && m.key.session == id

/-- A closing session ends once its commands have completed and every EVENT has been acknowledged. -/
def State.tryBye (s : State) (slot : Nat) : State :=
  match s.session? slot with
  | none => s
  | some ses =>
    if ses.state = .closing ∧ s.ctl.busySession ses.id = false ∧ ses.unacked = [] ∧ ses.keptComp = [] ∧ ses.keptDev = [] ∧
        (s.ctl.jnl.reports.any fun r => r.key.session == ses.id) = false then s.closeSession slot
    else s

/-- Ends a session at once, or places it in closing, from where it gets no new device EVENT (R404). -/
def State.endSession (s : State) (slot : Nat) : State :=
  match s.session? slot with
  | none => s
  | some ses =>
    if s.ctl.busySession ses.id then s.mapCtl fun c => c.setSession slot { ses with state := .closing, admin := false, keptDev := [] }
    else s.closeSession slot

/-- BYE from the host (R404). -/
def execHostBye (h : MsgHdr) (s : State) : Host.Outcome State Fault Refusal :=
  .next (s.recv h true (fun _ _ => plainHdr h 0) fun slot ses s =>
    if s.ctl.busySession ses.id then (s.endSession slot).ack0 h else (s.reply h .byeTo).closeSession slot true)

/-! ### EVENT_ACK and resends (R413, R414) -/

/-- Sends what was kept while 4,096 EVENTs were unacknowledged. -/
def State.flushKept (s : State) (slot : Nat) : State :=
  match s.session? slot with
  | none => s
  | some ses =>
    let s := s.mapCtl fun c => c.setSession slot { ses with keptComp := [], keptDev := [] }
    (ses.keptComp ++ ses.keptDev).foldl (fun (s : State) b => s.sendEvent slot b) s

/-- EVENT_ACK (R413). -/
def execEventAck (h : MsgHdr) (s : State) : Host.Outcome State Fault Refusal :=
  .next (s.recv h false (fun _ _ => h.queue == noQueue && h.length == 0) fun slot ses s =>
    if ses.acked.toNat < h.eseq.toNat ∧ h.eseq.toNat ≤ ses.eseq.toNat then
      let s := s.mapCtl fun c => c.setSession slot
        { ses with acked := h.eseq, unacked := ses.unacked.filter fun e => h.eseq.toNat < e.1.toNat }
      (s.flushKept slot).tryBye slot
    else s)

/-- EVENT_RESEND_TIMER (R413): EV_RETX_US has passed. -/
def execEventResendTimer (session : BitVec 32) (s : State) : Host.Outcome State Fault Refusal :=
  .next (match s.ctl.slotOf session with
    | some slot => if s.ctl.dev.halted then s else s.resendEvents slot false
    | none => s)

/-! ### Data transfer (R415, R416) -/

/-- A transfer of n bytes: aligned, in multiples of 4, in one region granted to the job. -/
def Ctl.dataOk (c : Ctl) (ses : Session) (h : MsgHdr) (addr : BitVec 64) (n : Nat) : Bool :=
  decide (4 ≤ n) && decide (n ≤ 1024 * ses.maxdata.toNat) && n % 4 == 0 && addr.toNat % 4 == 0 &&
  c.inOneRegion h.job.toNat addr.toNat n

/-- The Base Camp region lies in a retired slice, or the HBM region is LOST. -/
def Ctl.deadRange (c : Ctl) (a : Nat) : Bool :=
  (List.range 256).any (fun k =>
    let lo := bcBase + c.fld (Addr.bcRgnLo k) 0 19 * 4096
    c.bit (Addr.bcRgnHi k) 19 && decide (lo ≤ a) && decide (a < lo + c.fld (Addr.bcRgnLo k) 19 19 * 4096)) ||
  (List.range 256).any fun k =>
    let lo := c.fld (Addr.hbmRgnLo k) 0 28 * 4096
    c.bit (Addr.hbmRgnHi k) 17 && decide (lo ≤ a) && decide (a < lo + c.fld (Addr.hbmRgnLo k) 28 28 * 4096)

/-- What a check met while a host message moved data (R289, R301); the second part tells that the data cannot be moved. -/
def State.hostObs (s : State) (write : Bool) (o : FaultObs) : State × Bool :=
  match o with
  | .arriveSlice k n =>
    -- a flow of a host port uses every slice in service (R279)
    let on := (s.ctl.transitSlices Traffic.everywhere.dies).contains k.val
    let s := if on then s.mapCtl fun x => x.bump (Addr.bcPar k.val) 0 32 n else s
    if n < 4 || !on then (s, false)
    else
      let r := s.ctl.cairn 2 .slice k.val 5 (parityData (if write then 4 else 3) .slice (s.ctl.fld (Addr.bcPar k.val) 0 32))
      ((s.mapCtl fun x => x.record r).retireSlice k, write)
  | .storedSlice a n =>
    match sliceOf a with
    | none => (s, false)
    | some k =>
      let s := s.mapCtl fun x => x.bump (Addr.bcPar k.val) 0 32 n
      if n < 4 then (s, false)
      else
        let r := s.ctl.cairn 2 .slice k.val 0 (parityData 1 .slice (s.ctl.fld (Addr.bcPar k.val) 0 32))
        (((s.markBad a).mapCtl fun x => x.record { r with addr := a.zeroExtend 64 }).storedBad k, true)
  | .hbmCorrected a => (s.mapCtl fun x => x.bump (Addr.hbmEcc (stackOfPage (a.toNat / 4096))) 0 32 1, false)
  | .hbmUncorrected a n =>
    if s.ctl.otherCopy a then (s.hbmPageBad a true none, false)
    else if n < 3 then (s, false)
    else ((s.markBad a).hbmPageBad a (s.ctl.inAnchored a) none, true)
  | .residue _ => (s, false)
  | .arriveCore _ => (s, false)
  | .storedLedge .. => (s, false)

/-- All observations of a transfer; whether any stops it. -/
def State.hostObsAll (s : State) (write : Bool) (obs : List FaultObs) : State × Bool :=
  obs.foldl (fun (r : State × Bool) o => let x := r.1.hostObs write o; (x.1, r.2 || x.2)) (s, false)

def admittedSes (ses : Session) : Bool := ses.state == .admitted

/-- DATA_WRITE (R415). Where a check keeps failing no byte is written (log 28). -/
def execDataWrite (h : MsgHdr) (addr : BitVec 64) (data : List Byte) (obs : List FaultObs) (s : State) :
    Host.Outcome State Fault Refusal :=
  .next (s.recv h false (fun c ses => plainHdr h (8 + data.length) && c.dataOk ses h addr data.length) fun _ ses s =>
    if !(admittedSes ses && s.ctl.mayName ses h.job.toNat) then s.nack0 h stNOT_ADMITTED
    else if s.ctl.dev.dstate = .retreat then s.nack0 h stPOWER_RETREAT
    else if s.ctl.deadRange addr.toNat then s.nack0 h stPARITY_UNRECOVERED
    else
      let r := s.hostObsAll true obs
      if r.2 then r.1.nack0 h stPARITY_UNRECOVERED
      else (r.1.store (r.1.mem.writeBytes addr.toNat data) [(addr.toNat, data.length)]).ack0 h)

/-- A job bound to a rope team key slot. -/
def Ctl.keySlotJob (c : Ctl) (job : BitVec 16) : Bool :=
  c.sec.kslots.any fun k => match k with
    | some k => k.job == job
    | none => false

/-- DATA_READ (R416). -/
def execDataRead (h : MsgHdr) (addr : BitVec 64) (len : BitVec 32) (rsvd : BitVec 32) (obs : List FaultObs) (s : State) :
    Host.Outcome State Fault Refusal :=
  .next (s.recv h false (fun c ses => plainHdr h 16 && rsvd == 0 && c.dataOk ses h addr len.toNat) fun _ ses s =>
    let resp (s : State) (st : Status) (d : List Byte) : State := s.reply h fun h => .dataResp h st addr d
    if !(admittedSes ses && s.ctl.mayName ses h.job.toNat) then resp s stNOT_ADMITTED []
    else if s.ctl.dev.dstate = .retreat then resp s stPOWER_RETREAT []
    else if s.ctl.dev.sealed && s.ctl.keySlotJob h.job then resp s stSEALED_REFUSED []
    else if s.ctl.deadRange addr.toNat then resp s stPARITY_UNRECOVERED []
    else
      let r := s.hostObsAll false (s.ctl.badObs [(addr.toNat, len.toNat)] ++ obs)
      if r.2 then resp r.1 stPARITY_UNRECOVERED []
      else resp r.1 stOK (r.1.mem.readBytes addr.toNat len.toNat))

/-! ### MACsec key agreement (R394, R502) -/

/-- CAK, CKN, wrap key and confirmation key of a session (R500). -/
def Session.cak (s : Session) : List Byte := s.keys.take 32
def Session.ckn (s : Session) : List Byte := (s.keys.drop 32).take 16

/-- An MKA frame from a MAC address authenticates under the session's CAK and is fresh: its last 16 bytes are the ICV of IEEE
802.1X-2020 over the addresses, the EtherType and the bytes before it. -/
def Session.mkaAccepts (s : Session) (mac : MacAddr) (body : List Byte) : Bool :=
  let ick := kdf1x s.cak (("IEEE8021 ICK".toList).map fun ch => BitVec.ofNat 8 ch.toNat) s.ckn
  let n := body.length - 16
  decide (16 ≤ body.length) &&
  body.drop n == cmac ick ([0x01, 0x80, 0xC2, 0x00, 0x00, 0x03] ++ beBytes 6 mac.toNat ++ [0x88, 0x8E] ++ body.take n) &&
  Config.mkaFresh s.cak body

def Session.wrapKey (s : Session) : List Byte := (s.keys.drop 48).take 32

/-- A session's messages arrive from a MAC address. -/
def Session.fromMac (s : Session) (mac : MacAddr) : Bool :=
  (match s.addrA with
    | some a => a.mac == mac
    | none => false) ||
  (match s.addrB with
    | some a => a.mac == mac
    | none => false)

/-- MKA_FRAME: a frame under the CAK of an attested session, from a MAC address of its messages, brings up or keeps a live
secure association, at most 64 a port; the S4, as key server, distributes the port's SAK. The frames' bytes are the
standard's: a free value. -/
def execMkaFrame (port : HPort) (mac : MacAddr) (ckn : BitVec 128) (body : List Byte) (s : State) : Host.Outcome State Fault Refusal :=
  .next (
    if s.ctl.listens port = false then s
    else match s.ctl.elo.sessions.find? fun e =>
        e.2.keys ≠ [] ∧ ofBe e.2.ckn = ckn.toNat ∧ e.2.fromMac mac = true ∧ e.2.mkaAccepts mac body = true with
      | none => s
      | some (_, ses) =>
        let p := s.ctl.hport port
        let rest := p.peers.filter fun m => m.mac ≠ mac
        if 64 ≤ rest.length then s
        else
          let m := (p.peers.find? fun m => m.mac = mac ∧ m.session = ses.id ∧ m.sak = p.sak).getD ⟨mac, ses.id, p.sak, 0, 0⟩
          (s.tick.mapCtl fun c => c.setHPort port { p with peers := rest ++ [m] }).send
            (.mka port mac 0x10 m.sak (leBytes 32 s.free.toNat)))

/-- SAK_REKEY_TIMER (R502): the S4 distributes a new SAK to a live peer. -/
def execSakRekeyTimer (port : HPort) (mac : MacAddr) (s : State) : Host.Outcome State Fault Refusal :=
  .next (if s.ctl.live port mac && s.ctl.listens port then s.rekey port mac else s)

/-! ### The other protocols of a port (R393) -/

/-- The port's IP address, none while it is zero, and its version. In SAFE a port answers nothing (R28). -/
def Ctl.portIp (c : Ctl) (p : HPort) : IpAddr := c.reg (Addr.eloPip p.val) ++ c.reg (Addr.eloPip p.val + 8)
def Ctl.portV4 (c : Ctl) (p : HPort) : Bool := c.bit (Addr.eloPcfg p.val) 24
def Ctl.answersIp (c : Ctl) (p : HPort) (ip : IpAddr) : Bool :=
  c.powered && c.dev.dstate != .safe && (c.hport p).state == .up && ip != 0 && c.portIp p == ip

/-- ARP_REQUEST: an IPv4 port answers for its own address. -/
def execArpRequest (port : HPort) (senderMac : MacAddr) (senderIp targetIp : IpAddr) (s : State) : Host.Outcome State Fault Refusal :=
  .next (if s.ctl.answersIp port targetIp && s.ctl.portV4 port then s.send (.arpReply port senderMac senderIp) else s)

/-- ICMP_ECHO_REQUEST: the reply carries the request's payload. -/
def execIcmpEchoRequest (port : HPort) (srcIp dstIp : IpAddr) (payload : List Byte) (s : State) : Host.Outcome State Fault Refusal :=
  .next (if s.ctl.answersIp port dstIp then s.send (.icmpReply port srcIp payload) else s)

/-- NEIGHBOUR_SOLICITATION: an IPv6 port answers for its own address. -/
def execNeighbourSolicitation (port : HPort) (srcMac : MacAddr) (srcIp targetIp : IpAddr) (s : State) :
    Host.Outcome State Fault Refusal :=
  .next (if s.ctl.answersIp port targetIp && !s.ctl.portV4 port then s.send (.naReply port srcMac srcIp) else s)

end Sys2Proof.Machine
end

