-- ==== Sys2Proof/Machine/Security.lean ====
section
/-! DEFINITION. Identity, attestation, firmware, sealed mode and rope teams (19): the shared operations, and the rows of the
table that name them. -/
namespace Sys2Proof.Machine

def State.mapSec (s : State) (f : Sec → Sec) : State := s.mapCtl fun c => { c with sec := f c.sec }

/-! ### The leaf state (R494 to R496) -/

/-- Writes RESERVE + 16 into the older copy. -/
def Sec.reserveMore (x : Sec) : Sec :=
  let v := x.reserve + 16
  let n := max x.copyA.1 x.copyB.1 + 1
  if x.copyA.1 ≤ x.copyB.1 then { x with reserve := v, copyA := (n, v) } else { x with reserve := v, copyB := (n, v) }

/-- The signature of a bottom tree's key: the traversal state holds it of the trees that R495 made; the first tree's is made at
manufacture. -/
def Sec.treeSig (x : Sec) (t : Nat) : List Byte := (KMap.get none x.treeSigs t).getD (treeSign t)

/-- LMS_LOW where LEAVES_LEFT has fallen below its next threshold. -/
def State.lmsLow (s : State) : State :=
  let t := min (2 ^ s.ctl.fld Addr.secLms 41 6) (s.ctl.sec.lowAt / 2)
  if s.ctl.leavesLeft < t then
    (s.mapSec fun x => { x with lowAt := t }).raise evLMS_LOW (detailOf (BitVec.ofNat 64 s.ctl.leavesLeft) 0)
  else s

/-- Signs with the next leaf (R494). -/
def State.sign (s : State) (msg : List Byte) : State × List Byte :=
  let s := s.mapSec fun x => if x.q = x.reserve then x.reserveMore else x
  let leaf := s.ctl.sec.q
  let s := s.mapSec fun x => { x with q := x.q + 1 }
  let t := leaf / 2 ^ 20
  (s.lmsLow, hssSign (s.ctl.sec.treeSig t) t (leaf % 2 ^ 20) msg)

/-- BOTTOM_TREE_DONE (R495): the next bottom tree is ready, its key signed with the next top-level leaf; its making began when 2^19
leaves of the current one remained. The traversal state is that of the current and the next tree. -/
def execBottomTreeDone (s : State) : Host.Outcome State Fault Refusal :=
  .next (
    let x := s.ctl.sec
    if s.ctl.powered && decide (2 ^ 19 ≤ x.q % 2 ^ 20) && decide (x.tree ≤ x.q / 2 ^ 20) then
      let t := x.q / 2 ^ 20
      s.mapSec fun x => { x with tree := t + 1, treeSigs := KMap.set none (x.treeSigs.filter fun e => e.1 = t) (t + 1) (some (treeSign (t + 1))) }
    else s)

/-! ### Attestation (R497 to R501) -/

/-- The bytes of a 256-bit digest, byte 0 from bits 7 to 0. -/
def digest (v : BitVec 256) : List Byte := leBytes 32 v.toNat

/-- FW_HASH: over bytes 0 to FW_LEN - 1 of the running image. -/
def Ctl.fwHash (c : Ctl) : List Byte :=
  let b := c.fwBytes c.sec.fwSlot
  sha256 (b.take (leField b 0x14 4))

/-- Bytes 0x0000 to 0x1633 of a report (R498). -/
def Ctl.reportBody (c : Ctl) (ses : Session) (nonce : BitVec 256) : List Byte :=
  let x := c.sec
  leBytes 2 1 ++ leBytes 2 (b1 c.dev.sealed + b1 c.dev.dbgLocked * 2 + b1 (x.anchor != 0) * 4 + b1 x.trial * 8) ++
  leBytes 4 0 ++ leBytes 8 Config.serialLo.toNat ++ leBytes 8 Config.serialHi.toNat ++ leBytes 2 c.devid.toNat ++ [0xB0] ++
  [BitVec.ofNat 8 c.dev.dstate.code] ++ leBytes 4 ses.id.toNat ++ leBytes 32 nonce.toNat ++ c.fwHash ++
  leBytes 4 c.fwVer.toNat ++ leBytes 1 (fwSvnOf (c.fwBytes x.fwSlot)) ++ leBytes 1 c.svn ++ leBytes 2 0 ++
  leBytes 4 (c.psVer c.rel.psActive).toNat ++ leBytes 4 0 ++ leBytes 8 x.boots ++ leBytes 8 c.leavesLeft ++ digest x.anchor ++
  leBytes 96 0 ++ kemEncapsKey x.boots ++ deviceCert

/-- Bytes in a part of an object: 1,024 x MAXDATA_KIB (R497). -/
def partLen (ses : Session) : Nat := 1024 * ses.maxdata.toNat

/-- LENGTH of a datagram with one part of an object of n bytes: the header and that part (R497). -/
def partFits (ses : Session) (n len : Nat) : Bool :=
  let p := partLen ses
  (List.range ((n + p - 1) / p)).any fun k => len == 16 + min p (n - k * p)

/-- ATTEST_RESP with part k of the held report. -/
def State.reportPart (s : State) (h : MsgHdr) (ses : Session) (r : HeldReport) (k : Nat) : State :=
  let p := partLen ses
  let n := (r.report.length + p - 1) / p
  if n ≤ k then s.reply h (fun h => .attestResp h 1 stREJECTED_VERSION (BitVec.ofNat 8 k) 0 0 [])
  else s.reply h (fun h => .attestResp h 1 stOK (BitVec.ofNat 8 k) (BitVec.ofNat 8 n) r.report.length ((r.report.drop (k * p)).take p))

/-- ATTEST_RESP without an object. -/
def State.attestNo (s : State) (h : MsgHdr) (aop : BitVec 8) (st : Status) : State := s.reply h (fun h => .attestResp h aop st 0 0 0 [])

/-- Builds and signs a report for a new nonce. -/
def State.newReport (s : State) (h : MsgHdr) (slot : Nat) (ses : Session) (n : BitVec 256) : State :=
  if s.ctl.leavesLeft = 0 then s.attestNo h 1 stREJECTED_CAPACITY
  else
    let body := s.ctl.reportBody ses n
    let r := s.sign body
    let s := r.1
    let rep : HeldReport := ⟨n, natWord s.ctl.sec.boots, s.ctl.sec.q - 1, body ++ r.2⟩
    let s := s.mapCtl fun c => match c.elo.sessions.find? fun e => e.1 = slot with
      | some e => c.setSession slot { e.2 with report := some rep }
      | none => c
    s.reportPart h ses rep 0

/-- ATTEST_REPORT (R497, R498, R501): a nonce asks for a report, no nonce for a part of the held one. -/
def execAttestReport (h : MsgHdr) (nonce : Option (BitVec 256)) (part : BitVec 8) (s : State) : Host.Outcome State Fault Refusal :=
  .next (s.recv h true (fun _ _ => plainHdr h (match nonce with
      | some _ => 48
      | none => 16) && (if nonce.isSome then part == 0 else part != 0)) fun slot ses s =>
    if s.ctl.dev.dstate = .retreat then s.attestNo h 1 stPOWER_RETREAT
    else match nonce, ses.report with
      | none, none => s.reply h (fun h => .attestResp h 1 stREJECTED_VERSION part 0 0 [])
      | none, some r => s.reportPart h ses r part.toNat
      | some n, some r => if r.nonce = n then s.reportPart h ses r 0 else s.newReport h slot ses n
      | some n, none => s.newReport h slot ses n)

/-- The transcript of R499: SHA-256 of the report and of CT, ROLE, SESSION. -/
def transcript (r : HeldReport) (o : EncapObj) (ses : Session) : List Byte :=
  sha256 r.report ++ sha256 o.ct ++ [o.role] ++ leBytes 4 ses.id.toNat

/-- Session keys from K_s (R500): CAK, CKN, wrap key and confirmation key. -/
def sessionKeys (r : HeldReport) (ks : List Byte) (ses : Session) : List Byte :=
  let salt := sha256 r.report
  let d (label : String) (n : Nat) : List Byte := hkdf salt ks (ascii label ++ beBytes 4 ses.id.toNat) n
  d "S4 CAK" 32 ++ d "S4 CKN" 16 ++ d "S4 WRAP" 32 ++ d "S4 CONF" 32

/-- The first admission after BOOT (R25, R438, R491): ADMITTED, and on to SERVICE or DEGRADED where ADMIT_EN is kept. -/
def State.firstAdmission (s : State) : State :=
  if s.ctl.dev.dstate = .boot then
    let s := s.mapCtl fun c => { c with dev := { c.dev with bootStep := 8 } }
    let s := s.enterUp .admitted
    let s := if s.ctl.dev.fallback then
        (s.mapCtl fun c => { c with dev := { c.dev with fallback := false } }).raise evFW_FALLBACK
          (detailOf (BitVec.ofNat 8 (b1 s.ctl.sec.fwSlot) ++ 0#24 ++ s.ctl.fwVer) 0)
      else s
    if s.ctl.bit Addr.gcfg 0 then
      (s.mapCtl fun c => { c with dev := { c.dev with bootStep := 9 } }).openAdmission
    else s
  else s

/-- What the anchor says of an ENCAP (R499 check 3). -/
def Ctl.anchorOk (c : Ctl) (o : EncapObj) : Bool :=
  if o.role = 2 then c.sec.anchor == 0 else c.sec.anchor != 0 && keyHash o.opkey == c.sec.anchor

/-- ATTEST_ENCAP (R499 to R501): the object whole, its header that of the part that arrived last (log 172). A session in
closing is not admitted again (R404). -/
def execAttestEncap (h : MsgHdr) (o : EncapObj) (s : State) : Host.Outcome State Fault Refusal :=
  .next (s.recv h true (fun _ ses => h.queue == noQueue && h.eseq == 0 && decide (o.role.toNat ≤ 2) && o.rsvd == 0 &&
      o.ct.length == 1568 && o.opkey.length == 60 && decide (o.opsig.length ≤ 16384) &&
      partFits ses (1636 + o.opsig.length) h.length.toNat) fun slot ses s =>
    if s.ctl.dev.dstate = .retreat then s.attestNo h 2 stPOWER_RETREAT
    else if s.ctl.dev.sealed && o.role == 2 then s.attestNo h 2 stSEALED_REFUSED
    else match ses.report with
      | none => s.attestNo h 2 stREJECTED_VERSION
      | some r =>
        if r.nonce ≠ o.nonce then s.attestNo h 2 stREJECTED_VERSION
        else if !hssVerify o.opkey (transcript r o ses) o.opsig then s.attestNo h 2 stBAD_SIGNATURE
        else if !s.ctl.anchorOk o || ses.state == .closing then s.attestNo h 2 stNOT_ADMITTED
        else
          let ks := kemDecaps r.boots.toNat o.ct
          let keys := sessionKeys r ks ses
          let s := if o.role = 2 then s.mapSec fun x => { x with anchor := keyHash o.opkey } else s
          let s := s.mapCtl fun c => c.setSession slot { ses with keys := keys, state := .admitted, admin := o.role != 0 }
          let mac := hmac (keys.drop 80) (transcript r o ses)
          (s.reply h fun h => .attestResp h 2 stOK 0 1 32 mac).firstAdmission)

/-- ATTEST_LINK_SECRET (R503): for an ADMIN session. -/
def execAttestLinkSecret (h : MsgHdr) (o : LinkSecretObj) (s : State) : Host.Outcome State Fault Refusal :=
  .next (s.recv h true (fun _ _ => h.queue == noQueue && h.eseq == 0 && o.len == 80 && h.length.toNat == 96 && o.rsvd1 == 0 &&
      o.rsvd2 == 0 && o.gen != 0 && decide (o.port.toNat < 16)) fun _ ses s =>
    if !(admittedSes ses && ses.admin) then s.attestNo h 3 stNOT_ADMITTED
    else
      let aad := leBytes 1 o.port.toNat ++ [0] ++ leBytes 2 o.devid.toNat ++ leBytes 4 o.gen.toNat
      match gcmOpen ses.wrapKey (leBytes 12 o.nonce.toNat) aad (beBytes 32 o.wrap.toNat) (beBytes 16 o.tag.toNat) with
      | none => s.attestNo h 3 stBAD_SIGNATURE
      | some ls =>
        let p : MPort := ⟨o.port.toNat % 16, Nat.mod_lt _ (by decide)⟩
        (s.updPort p fun v => { v with secret := some ⟨o.devid.extractLsb' 0 15, o.gen, BitVec.ofNat 256 (ofBe ls)⟩ }).attestNo
          h 3 stOK)

/-! ### Firmware (R492) -/

def Ctl.secBusy (c : Ctl) : Bool := c.sec.act.isSome || c.sec.rtAct.isSome
def State.secStatus (s : State) (st : Status) : State := s.mapSec fun x => { x with last := st }

/-- The image that FW_INSTALL reads. -/
def State.fwSource (s : State) : List Byte := s.mem.readBytes (s.ctl.fld Addr.secFwSrc 0 48) (s.ctl.fld Addr.secFwLen 0 40)

/-- The status of an FW_ACTION, from its checks. -/
def State.fwCheck (s : State) (n : Nat) : Status :=
  if s.ctl.sec.trial then stTXN_CONFLICT
  else if n = 1 then
    let b := s.fwSource
    if !fwWellFormed b || decide (b.length < leField b 0x14 4 + 3604) || !fwForB0 b then stREJECTED_VERSION
    else if !fwSigned b then stBAD_SIGNATURE
    else if fwSvnOf b < s.ctl.svn then stREJECTED_VERSION
    else stOK
  else if n = 2 then (if s.ctl.fwBootable (!s.ctl.sec.fwSlot) then stOK else stTXN_CONFLICT)
  else stOK

/-- A write of FW_ACTION: an install or a burn begins; an activation acts at once. Nothing changes while one runs. -/
def State.fwAction (s : State) (n : Nat) : State :=
  if n = 0 ∨ s.ctl.secBusy = true then s
  else
    let st := s.fwCheck n
    if n = 2 then
      if st = stOK then
        s.mapSec fun x => { x with next := !x.fwSlot, trial := true, trialBt := false, last := stOK }
      else s.secStatus st
    else s.mapSec fun x => { x with act := some ⟨n, st, if n = 1 then s.fwSource else [], 0⟩ }

/-- The effect of an FW_ACTION that ends: an image goes into the slot that does not run, with its signature and nothing after it (R490). -/
def State.fwDone (s : State) (a : Action) : State :=
  let s := s.mapSec fun x => { x with act := none, last := a.status }
  if a.status ≠ stOK then s
  else if a.code = 1 then
    let b := a.bytes.take (leField a.bytes 0x14 4 + 3604)
    s.mapSec fun x => { x with fwImg := if x.fwSlot then x.fwImg.set 0 (some b) else x.fwImg.set 1 (some b) }
  else
    let v := max s.ctl.svn (fwSvnOf (s.ctl.fwBytes s.ctl.sec.fwSlot))
    s.mapSec fun x => { x with svn := some (BitVec.ofNat 7 v) }

/-- FW_ACTION_DONE (R492). -/
def execFwActionDone (s : State) : Host.Outcome State Fault Refusal :=
  .next (match s.ctl.sec.act with
    | none => s
    | some a => (s.fwDone a).shown)

/-- A firmware trial ends when a commit sets ADMIT_EN under the new image (R492). -/
def Sec.endTrial (x : Sec) : Sec :=
  if x.trial && x.trialBt && x.fwSlot == x.next then { x with trial := false, trialBt := false } else x

/-! ### Sealed mode (R505, R506) -/

/-- A write of SEAL. -/
def State.sealNow (s : State) : State :=
  let ready := s.ctl.sec.anchor != 0 && s.ctl.links.ports.all fun p => p.state != .up || p.enc
  if s.ctl.dev.sealed || ready then
    (s.mapCtl fun c => { c with dev := { c.dev with sealed := true, dbgLocked := true } }).secStatus stOK
  else s.secStatus stTXN_CONFLICT

/-- A write of ANCHOR_CLEAR. -/
def State.anchorClearNow (s : State) : State :=
  if s.ctl.dev.sealed then s.secStatus stSEALED_REFUSED
  else s.mapSec fun x => { x with anchor := 0, last := stOK }

/-! ### Rope teams (R507, R508) -/

def Ctl.kslot (c : Ctl) (k : Fin 8) : Option KeySlot := c.sec.kslots[k]
def State.setKslot (s : State) (k : Fin 8) (v : Option KeySlot) : State :=
  s.mapSec fun x => { x with kslots := x.kslots.set k v }

def rtNmemb (b : List Byte) : Nat := leField b 6 2
/-- Where member m's entry lies. -/
def rtMember (m : Nat) : Nat := 0x40 + 1664 * m
def slice (b : List Byte) (off n : Nat) : List Byte := (b.drop off).take n

/-- A well-formed manifest. -/
def rtOk (b : List Byte) : Bool :=
  let n := rtNmemb b
  let o := rtMember n
  leField b 0 4 == 0x52544D31 && leField b 4 2 == 1 && decide (1 ≤ n) && decide (n ≤ 4096) && leField b 0x10 48 == 0 &&
  (List.range n).all (fun m => leField b (rtMember m + 0x674) 12 == 0) && decide (o + 64 + leField b o 4 ≤ b.length)

/-- The operator's signature over every byte before OP_SIG, under the operator anchor. -/
def Ctl.rtSigned (c : Ctl) (b : List Byte) : Bool :=
  let o := rtMember (rtNmemb b)
  let key := slice b (o + 4) 60
  c.sec.anchor != 0 && keyHash key == c.sec.anchor && hssVerify key (b.take (o + 64)) (slice b (o + 64) (leField b o 4))

/-- The entry with this S4's SERIAL and BOOTS. -/
def Ctl.rtEntry (c : Ctl) (b : List Byte) : Option Nat :=
  (List.range (rtNmemb b)).find? fun m =>
    let o := rtMember m
    leField b o 8 == Config.serialLo.toNat && leField b (o + 8) 8 == Config.serialHi.toNat && leField b (o + 0x10) 8 == c.sec.boots

/-- The model bundle key of an entry. -/
def Ctl.rtUnwrap (c : Ctl) (b : List Byte) (m : Nat) : Option (List Byte) :=
  let o := rtMember m
  let bundle := slice b 8 8
  let key := hkdf bundle (kemDecaps c.sec.boots (slice b (o + 0x18) 1568)) (ascii "S4 ROPE") 32
  gcmOpen key (slice b (o + 0x638) 12) (bundle ++ slice b o 16) (slice b (o + 0x644) 32) (slice b (o + 0x644 + 32) 16)

/-- RT_ACTION LOAD into a slot for a job. -/
def State.rtLoad (s : State) (k : Fin 8) (job : BitVec 16) : State :=
  let src := s.ctl.fld Addr.secRtSrc 0 48
  let len := s.ctl.fld Addr.secRtLen 0 40
  let b := s.mem.readBytes src len
  if (s.ctl.kslot k).isSome then s.secStatus stTXN_CONFLICT
  else if !s.ctl.inOneRegion job.toNat src len then s.secStatus stNOT_ADMITTED
  else if !rtOk b then s.secStatus stBAD_SIGNATURE
  else match s.ctl.rtEntry b with
    | none => s.secStatus stNOT_ADMITTED
    | some m =>
      if !s.ctl.rtSigned b then s.secStatus stBAD_SIGNATURE
      else match s.ctl.rtUnwrap b m with
        | none => s.secStatus stBAD_SIGNATURE
        | some mbk => (s.setKslot k (some ⟨job, BitVec.ofNat 64 (leField b 8 8), mbk⟩)).secStatus stOK

/-- Chunk i of a bundle: nonce and additional data (R508). -/
def chunkAad (bundle : BitVec 64) (i : Nat) : List Byte := leBytes 8 bundle.toNat ++ leBytes 12 i

def mib : Nat := 0x100000
def chunks (len : Nat) : Nat := (len + mib - 1) / mib
/-- Bytes of a bundle whose plaintext has len bytes. -/
def bundleLen (len : Nat) : Nat := len + 16 * chunks len

/-- Decrypts chunk after chunk until one fails; its plaintext is zero and later ones are not processed. -/
def rtOpen (k : KeySlot) (b : List Byte) (len : Nat) : Nat → Nat → List Byte × Bool
  | 0, _ => ([], true)
  | n + 1, i =>
    let w := min mib (len - i * mib)
    let c := slice b (i * (mib + 16)) (w + 16)
    match gcmOpen k.mbk (leBytes 12 i) (chunkAad k.bundle i) (c.take w) (c.drop w) with
    | none => (List.replicate w 0, false)
    | some p => let r := rtOpen k b len n (i + 1); (p ++ r.1, r.2)

def rtSeal (k : KeySlot) (b : List Byte) : List Byte :=
  (List.range (chunks b.length)).flatMap fun i =>
    let r := gcmSeal k.mbk (leBytes 12 i) (chunkAad k.bundle i) (slice b (i * mib) mib)
    r.1 ++ r.2

/-- RT_ACTION DECRYPT and ENCRYPT begin: what they will write, and their status. -/
def State.rtCrypt (s : State) (k : Fin 8) (encrypt : Bool) : State :=
  match s.ctl.kslot k with
  | none => s.secStatus stTXN_CONFLICT
  | some x =>
    let src := s.ctl.fld Addr.secRtSrc 0 48
    let dst := s.ctl.fld Addr.secRtDst 0 48
    let len := s.ctl.fld Addr.secRtLen 0 40
    let job := x.job.toNat
    let n := if encrypt then len else bundleLen len
    let m := if encrypt then bundleLen len else len
    if !(s.ctl.inOneRegion job src n && s.ctl.inOneRegion job dst m) then s.secStatus stNOT_ADMITTED
    else
      let b := s.mem.readBytes src n
      let a : Action :=
        if encrypt then ⟨3, stOK, rtSeal x b, dst⟩
        else
          let r := rtOpen x b len (chunks len) 0
          ⟨2, if r.2 then stOK else stBAD_SIGNATURE, r.1, dst⟩
      s.mapSec fun y => { y with rtAct := some a }

/-- A write of RT_ACTION; nothing changes while an action runs. -/
def State.rtAction (s : State) (n : Nat) (k : Fin 8) (job : BitVec 16) : State :=
  if s.ctl.secBusy then s
  else if n = 1 then s.rtLoad k job
  else if n = 2 then s.rtCrypt k false
  else if n = 3 then s.rtCrypt k true
  else if n = 4 then (s.setKslot k none).secStatus stOK
  else s

/-- RT_ACTION_DONE (R508); not in SAFE, where HBM refreshes itself (R28). -/
def execRtActionDone (s : State) : Host.Outcome State Fault Refusal :=
  .next (match s.ctl.sec.rtAct with
    | none => s
    | some a =>
      if s.ctl.dev.selfRefresh then s
      else
        let s := s.mapSec fun x => { x with rtAct := none, last := a.status }
        (s.store (s.mem.writeBytes a.dst a.bytes) [(a.dst, a.bytes.length)]).shown)

end Sys2Proof.Machine
end

