-- ==== Sys2Proof/Machine/Commands.lean ====
section
/-! DEFINITION. Commands (02 R30 to R38, 07 R206 to R208, 12 R305 to R322, 15 R405 to R411): admission, acceptance, their start,
the norm-watch decision and the flip of the version pointer. -/
namespace Sys2Proof.Machine

/-! ### Answers (R33, R411) -/

def NexpOf (ses : Session) (h : MsgHdr) : BitVec 48 := ((ses.queue? h.queue).map (·.nextExp)).getD 0

def State.ackCmd (s : State) (h : MsgHdr) (st : Status) (cstate : BitVec 8) (cst : Status) (nextExp : BitVec 48) : State :=
  s.answerBy h fun h => .ack h st cstate cst nextExp

def keyOfHdr (h : MsgHdr) : CmdKey := ⟨h.session, h.queue, h.seq⟩

/-- The highest accepted number of a queue; none before the first. -/
def CmdQueue.highest (q : CmdQueue) : Option Nat :=
  let top := q.ahead.foldl (fun (m : Nat) x => max m (x.toNat + 1)) q.nextExp.toNat
  if top = 0 then none else some (top - 1)

/-- DUPLICATE for a number below the next expected one: done, pending, status not held, or unknown (R33, R411). -/
def State.duplicate (s : State) (h : MsgHdr) (q : CmdQueue) : State :=
  if h.seq.toNat + 2 ^ 20 < (q.highest.getD 0) then s.ackCmd h stDUPLICATE 4 0 q.nextExp
  else match q.done.find? fun e => e.1 = h.seq with
    | some e => s.ackCmd h stDUPLICATE 2 e.2 q.nextExp
    | none => if (s.cmd? (keyOfHdr h)).isSome then s.ackCmd h stDUPLICATE 1 0 q.nextExp
        else s.ackCmd h stDUPLICATE 3 0 q.nextExp

/-- The journal has room for a CMD of n records: 384 slots stay free beyond one for the COMPLETE record of every accepted
command; commands under check count as accepted (R284). -/
def Journal.room (j : Journal) (n : Nat) : Bool :=
  let writing := (j.cmds.filter fun m => !m.accepted).foldl (fun (k : Nat) m => k + cmdRecords m.body) 0
  decide (j.used + writing + n + 384 + (j.cmds.length + 1) ≤ 32768)

/-! ### Form of a CMD (R399, R406) -/

/-- Where the region granted to a job that holds an address ends. -/
def Ctl.regionEnd (c : Ctl) (job a : Nat) : Option Nat :=
  (((c.bcRegions job).map fun r => (r.lo, r.lo + r.len)) ++ (c.hbmRegions job).map fun r => (r.1, r.1 + r.2)).find?
    (fun r => decide (r.1 ≤ a) && decide (a < r.2)) |>.map (·.2)

/-- Every byte of a range lies in a region granted to the job, in at most so many of them one after the other (R406). -/
def Ctl.inRegions (c : Ctl) (job : Nat) : Nat → Nat → Nat → Bool
  | 0, _, _ => false
  | k + 1, a, n => match c.regionEnd job a with
    | some hi => decide (a + n ≤ hi) || c.inRegions job k hi (a + n - hi)
    | none => false

/-- Operations: 1 RUN, 2 INSTALL, 3 PREEMPT, 4 RELEASE. -/
def cmdFormed (c : Ctl) (ses : Session) (op : Nat) (h : MsgHdr) (b : CmdBody) : Bool :=
  let kind := b.cflags.toNat % 4
  let ctl := h.queue == ctrlQueue
  h.eseq == 0 && (qSlot ses h.queue).isSome && h.length.toNat == cmdLen b && decide (b.cflags.toNat < 4) && kind != 3 &&
  decide (b.ndep.toNat ≤ 8) && decide (b.ncap.toNat ≤ 32) && b.deps.length == b.ndep.toNat && b.caps.length == b.ncap.toNat &&
  b.rsvd4 == 0 && b.rsvd12 == 0 && b.rsvd40 == 0 && b.caps.all (fun x => x.rsvd == 0) &&
  (op == 1 || kind == 0) && (kind != 0 || b.expectVer == 0) && (decide (op ≤ 2) || b.imageId == 0) && (op == 2 || b.arg2 == 0) &&
  (decide (3 ≤ op)) == ctl && (op != 1 || c.inRegions h.job.toNat 1 b.arg1.toNat 1) &&
  (op != 2 || c.inRegions h.job.toNat 512 b.arg1.toNat (max 1 b.arg2.toNat))

/-! ### Admission (R34, R310, R407, R409, R410) -/

/-- Accepted commands, and those under check. -/
def Ctl.anyCmd (c : Ctl) (f : Cmd → Bool) : Bool := c.jnl.cmds.any f

/-- Order 4 of R410: the session and the job it names, RETREAT, another state, a job that is not loaded, in this order (DESIGN CHOICE,
log 79). -/
def State.admitState (s : State) (ses : Session) (op : Nat) (h : MsgHdr) (b : CmdBody) : Option Status :=
  let c := s.ctl
  let d := c.dev.dstate
  if !(admittedSes ses && c.mayName ses h.job.toNat) then some stNOT_ADMITTED
  else if d = .retreat then some stPOWER_RETREAT
  else if !(d == .service || d == .degraded || (d == .admitted && op == 2)) then some stNOT_ADMITTED
  else if b.cflags.toNat % 4 ≠ 0 ∧ (c.jobEntry h.job).isNone then some stNOT_ADMITTED
  else none

/-- Orders 6 and 7: image, ISA level, EXPECT_VER and capacity. -/
def State.admitImage (s : State) (ses : Session) (op : Nat) (h : MsgHdr) (b : CmdBody) : Option Status :=
  let c := s.ctl
  let kind := b.cflags.toNat % 4
  let img := s.image? b.imageId
  if op = 1 then
    match img with
    | none => some stREJECTED_VERSION
    | some img =>
      if kind ≠ 0 ∧ (b.expectVer.toNat ≠ s.jobVersion h.job ∨ c.anyCmd (fun m => m.accepted && m.stepKind != 0 && m.job == h.job)) then
        some stREJECTED_VERSION
      else if b.caps.all (fun x => img.caps.any fun e => e.1 == x.capId && decide (x.value.toNat ≤ e.2.toNat)) then none
      else some stREJECTED_CAPACITY
  else if op = 2 then
    let len := b.arg2.toNat
    let by_ := s.mem.readBytes b.arg1.toNat len
    if !(imageOk by_ len && imageLevel by_ == 1 && decide (1 ≤ ses.isa.toNat) && (imageFeatures by_ &&& ~~~ ses.features) == 0 &&
        leField by_ 0x10 8 == b.imageId.toNat) ||
        c.anyCmd (fun m => m.accepted && decide (m.op.toNat ≤ 2) && m.body.imageId == b.imageId) then
      some stREJECTED_VERSION
    else
      let coming := (c.jnl.cmds.filter fun m => m.op == 2 && (s.image? m.body.imageId).isNone).length
      if img.isNone && decide (64 ≤ c.elo.images.length + coming) then some stREJECTED_CAPACITY else none
  else none

/-- Orders 4 to 7 of R410: the status of the NACK, if any. -/
def State.admitCheck (s : State) (ses : Session) (op : Nat) (h : MsgHdr) (b : CmdBody) : Option Status :=
  (s.admitState ses op h b).or (s.admitImage ses op h b)

/-- A command under check, as it enters the journal's list. -/
def newCmd (op : Nat) (h : MsgHdr) (b : CmdBody) (phase : CmdPhase) : Cmd :=
  { key := keyOfHdr h, op := BitVec.ofNat 8 op, job := h.job, hdr := h, body := b, phase := phase, doom := none
    dups := [], placement := [], rpoints := [], attempt := 0, energyUj := 0, jseq := 0, slowed := false }

/-- A TRAIN or ADOPT of the job is under check, neither accepted nor refused (R310). -/
def Ctl.checking (c : Ctl) (job : BitVec 16) : Bool := c.anyCmd fun m => !m.accepted && m.stepKind != 0 && m.job == job

/-- A CMD (R410). A command that passes goes to the journal; a copy of one under check waits for its outcome (R32), and a TRAIN or
ADOPT for that of another of its job (R310). -/
def State.cmdArrives (s : State) (op : Nat) (h : MsgHdr) (b : CmdBody) : State :=
  if s.ctl.dev.halted then s
  else s.recv h false (fun c ses => cmdFormed c ses op h b) fun slot ses s =>
    match ses.queue? h.queue with
    | none => s
    | some q =>
      let n := h.seq.toNat
      let e := q.nextExp.toNat
      if n < e then s.duplicate h q
      else if q.ahead.contains h.seq then s.ackCmd h stDUPLICATE 1 0 q.nextExp
      else if e = 2 ^ 48 - 1 then s
      else if e + 64 < n then
        s.mapCtl fun c => c.setSession slot (ses.setQueue h.queue
          { q with aheadDrops := BitVec.ofNat 16 (satAdd 0xFFFF q.aheadDrops.toNat 1) })
      else if (s.cmd? (keyOfHdr h)).isSome then
        s.updCmd (keyOfHdr h) fun m => { m with dups := m.dups ++ [h] }
      else if !s.ctl.jnl.room (cmdRecords b) then s.mapCtl fun c => c.bump Addr.eloDrop 0 32 1
      else if b.cflags.toNat % 4 ≠ 0 ∧ s.ctl.checking h.job = true ∧ (s.admitState ses op h b).isNone then
        s.mapJnl fun j => { j with cmds := j.cmds ++ [newCmd op h b .awaits] }
      else match s.admitCheck ses op h b with
        | some st => s.answerBy h fun h => .nack h st q.nextExp
        | none => s.mapJnl fun j => { j with cmds := j.cmds ++ [newCmd op h b .journaling] }

/-- CMD_RUN. -/
def execCmdRun (h : MsgHdr) (b : CmdBody) (s : State) : Host.Outcome State Fault Refusal := .next (s.cmdArrives 1 h b)
/-- CMD_INSTALL. -/
def execCmdInstall (h : MsgHdr) (b : CmdBody) (s : State) : Host.Outcome State Fault Refusal := .next (s.cmdArrives 2 h b)
/-- CMD_PREEMPT. -/
def execCmdPreempt (h : MsgHdr) (b : CmdBody) (s : State) : Host.Outcome State Fault Refusal := .next (s.cmdArrives 3 h b)
/-- CMD_RELEASE. -/
def execCmdRelease (h : MsgHdr) (b : CmdBody) (s : State) : Host.Outcome State Fault Refusal := .next (s.cmdArrives 4 h b)

/-- Moves NEXT_EXP over the numbers accepted ahead. -/
def catchUp : Nat → BitVec 48 → List (BitVec 48) → BitVec 48 × List (BitVec 48)
  | 0, e, l => (e, l)
  | n + 1, e, l => if e ≠ BitVec.allOnes 48 ∧ l.contains e = true then catchUp n (e + 1) (l.filter (· ≠ e)) else (e, l)

/-- A number is accepted (R33); NEXT_EXP goes no further than 2^48 - 1 (R405). -/
def CmdQueue.accept (q : CmdQueue) (n : BitVec 48) : CmdQueue :=
  if n = q.nextExp ∧ n ≠ BitVec.allOnes 48 then
    let r := catchUp 64 (n + 1) q.ahead
    { q with nextExp := r.1, ahead := r.2 }
  else { q with ahead := n :: q.ahead }

/-- A command under check is refused, or its session has gone: nothing of it is left. -/
def State.dropCmd (s : State) (k : CmdKey) : State := s.mapJnl fun j => { j with cmds := j.cmds.filter fun x => x.key ≠ k }

/-- One TRAIN or ADOPT that waited for the check of another of its job: REJECTED_VERSION where one was accepted, its own full
check where none is under check any more (R310). -/
def State.checkWaiting (s : State) (k : CmdKey) : State :=
  match s.cmd? k, s.ctl.sessionById k.session with
  | some m, some (_, ses) =>
    let refuse (st : Status) : State := (m.hdr :: m.dups).foldl
      (fun (s : State) h => s.answerBy h fun h => .nack h st (NexpOf ses h)) (s.dropCmd k)
    match s.admitState ses m.op.toNat m.hdr m.body with
    | some st => refuse st
    | none =>
      if s.ctl.anyCmd fun x => x.accepted && x.stepKind != 0 && x.job == m.job then refuse stREJECTED_VERSION
      else if s.ctl.anyCmd fun x => x.phase == .journaling && x.stepKind != 0 && x.job == m.job then s
      else match s.admitImage ses m.op.toNat m.hdr m.body with
        | some st => refuse st
        | none => s.updCmd k fun m => { m with phase := .journaling }
  | some _, none => s.dropCmd k
  | none, _ => s

/-- The commands that waited for the check of a TRAIN or ADOPT of a job. -/
def State.checkNext (s : State) (job : BitVec 16) : State :=
  ((s.ctl.jnl.cmds.filter fun m => m.phase == .awaits && m.job == job).map (·.key)).foldl (fun (s : State) k => s.checkWaiting k) s

/-- A command's journal write is confirmed by every mirror: it is accepted; ACK OK to the first copy, DUPLICATE to the others. -/
def State.journalConfirm (s : State) (k : CmdKey) : State :=
  match s.cmd? k, s.ctl.sessionById k.session with
    | some m, some (slot, ses) =>
      match ses.queue? k.queue with
      | none => s
      | some q =>
        if m.phase ≠ .journaling then s
        else
          let q := q.accept k.seq
          let s := s.updCmd k fun m => { m with phase := .accepted, dups := [], jseq := s.ctl.jnl.jseq }
          let s := s.jnlWrite m.records
          let s := s.mapCtl fun c =>
            { c.setSession slot (ses.setQueue k.queue q) with book := { c.book with mark := true } }
          let s := s.ackCmd m.hdr stOK 1 0 q.nextExp
          let s := m.dups.foldl (fun (s : State) h => s.ackCmd h stDUPLICATE 1 0 q.nextExp) s
          if m.stepKind = 0 then s else s.checkNext m.job
    | some m, none =>
      if m.phase = .journaling then (if m.stepKind = 0 then s.dropCmd k else (s.dropCmd k).checkNext m.job) else s
    | none, _ => s

/-- JOURNAL_WRITE_CONFIRM (R30 to R32, R284). What falls due while the Guide is halted waits until it resumes (R31, R467). -/
def execJournalWriteConfirm (k : CmdKey) (s : State) : Host.Outcome State Fault Refusal :=
  .next (
    if s.ctl.dev.halted then
      if s.ctl.jnl.owedAcks.contains k then s else s.mapJnl fun j => { j with owedAcks := j.owedAcks ++ [k] }
    else s.journalConfirm k)

/-! ### Starting (R35, R207, R407, R408) -/

/-- A dependency is satisfied: the named queue's LAST_DONE is at or above the number. -/
def Ctl.depMet (c : Ctl) (d : Dep) : Bool :=
  match c.sessionById d.session with
  | none => false
  | some (_, ses) => match (ses.queue? d.queue).bind (·.lastDone) with
    | some l => decide (d.seq.toNat ≤ l.toNat)
    | none => false

/-- The queue of a command is not held (R38). -/
def Ctl.notHeld (c : Ctl) (k : CmdKey) : Bool :=
  match c.sessionById k.session with
  | none => false
  | some (_, ses) => match ses.queue? k.queue with
    | some q => k.queue == ctrlQueue || !q.held
    | none => false

/-- Accepted commands run in these states. -/
def Ctl.runsCommands (c : Ctl) : Bool := (admitting c.dev.dstate || c.dev.dstate == .retreat) && decide (c.dev.stage < 3)

/-- A region granted to a job is RETIRED or LOST (R291, R302). -/
def Ctl.jobLost (c : Ctl) (job : Nat) : Bool :=
  (c.bcRegions job).any (fun r => c.bit (Addr.bcRgnHi r.idx) 19) || (c.hbmIdx job).any fun k => c.bit (Addr.hbmRgnHi k) 17

/-- The effective capacities at the start of the argument block (R409). -/
def writeCaps (mem : Memory) (img : Image) (b : CmdBody) : Memory :=
  (img.caps.zipIdx).foldl (fun (m : Memory) e =>
    let v := ((b.caps.find? fun x => x.capId = e.1.1).map (·.value)).getD e.1.2
    m.writeLe (b.arg1.toNat + 4 * e.2) 4 v.toNat) mem

/-- An attempt starts: every logical index on its core, from ENTRY with g4 = 0 (R207, R320). -/
def State.startAttempt (s : State) (k : CmdKey) (img : Image) : State :=
  match s.cmd? k with
  | none => s
  | some m =>
    let att := match s.ctl.jobEntry m.job with
      | some j => if m.stepKind = 1 then vrAttempt s.mem (s.ctl.vr j) else 0
      | none => 0
    let s := if m.stepKind = 1 then s.noteWide m.job else s
    let s := s.updCmd k fun m => { m with phase := .running, attempt := att }
    m.placement.foldl (fun (s : State) x => match x.core with
      | some c => s.loadIndex { m with attempt := att } img x.logical c 0
      | none => s.updCmd k fun m => { m with placement := m.placement.map fun y =>
          if y.logical = x.logical then { y with halted := none } else y }) s

/-- A RUN starts on cores that the Guide chooses, NCORES of them; while they are not free it waits. -/
def State.launch (s : State) (m : Cmd) (img : Image) (cores : List CoreId) : State :=
  if cores.length ≠ img.ncores ∨ cores.eraseDups.length ≠ cores.length ∨ cores.all (fun c => s.coreFree c) = false then s
  else
    let s := cores.foldl (fun (s : State) c => s.abandonProbe c) s
    let s := s.store (writeCaps s.mem img m.body) [(m.body.arg1.toNat, 4 * img.caps.length)]
    let s := match s.ctl.jobEntry m.job with
      | some j =>
        if m.stepKind = 0 then s
        else
          let s := s.settleTable j
          s.store (s.mem.writeLe (s.ctl.vr j + 16) 8 m.body.expectVer.toNat) [(s.ctl.vr j + 16, 8)]
      | none => s
    let s := s.updCmd m.key fun m =>
      { m with slowed := false, placement := cores.zipIdx.map fun e => ⟨e.2, some e.1, none⟩ }
    s.startAttempt m.key img

/-- Logical indices that wait for another core go on from their last replay point (R39, R212). -/
def State.relaunch (s : State) (m : Cmd) (img : Image) (cores : List CoreId) : State :=
  let waiting := (m.placement.filter fun x => x.core.isNone && x.halted.isNone).map (·.logical)
  (waiting.zip cores).foldl (fun (s : State) e =>
    if s.coreFree e.2 then (s.abandonProbe e.2).loadIndex m img e.1 e.2 (m.rpoint e.1) else s) s |>.endRecovery

/-- An INSTALL registers its image and completes; a PREEMPT ends its target, or completes at once where it has no effect; a
RELEASE frees its queue. -/
def State.actAtOnce (s : State) (m : Cmd) : State :=
  if m.op = 2 then
    let len := m.body.arg2.toNat
    let img := imageOf (s.mem.readBytes m.body.arg1.toNat len) m.body.arg1.toNat len m.job
    let s := s.mapCtl fun c => { c with elo := { c.elo with
      images := c.elo.images.filter (fun i => i.id ≠ img.id) ++ [img] } }
    s.finish m stOK
  else if m.op = 3 then
    match s.cmd? (preemptTarget m) with
    | some t =>
      if t.accepted = false ∨ t.key = m.key then s.finish m stOK
      else (s.updCmd m.key fun m => { m with phase := .running }).endCmd t.key stPREEMPTED
    | none => s.finish m stOK
  else
    let q := m.body.arg1.extractLsb' 0 16
    let s := s.mapCtl fun c => match c.sessionById m.key.session with
      | some (slot, ses) => match ses.queue? q with
        | some v => c.setSession slot (ses.setQueue q { v with held := false })
        | none => c
      | none => c
    s.finish m stOK

/-- The Guide's read of a command's image meets a word that reads bad every time (R289, R301): the command ends with
PARITY_UNRECOVERED. -/
def State.sourceBad (s : State) (k : CmdKey) (rs : List (Nat × Nat)) : State :=
  match s.ctl.badIn rs with
  | [] => s
  | w :: _ =>
    let a : BitVec 48 := BitVec.ofNat 48 (4 * w)
    let who := (s.cmd? k).map fun m => (m.key, m.job)
    let s := match sliceOf a with
      | some n =>
        let s := s.mapCtl fun x => x.bump (Addr.bcPar n.val) 0 32 4
        let r := (s.ctl.cairn 2 .slice n.val 2 (parityData 1 .slice (s.ctl.fld (Addr.bcPar n.val) 0 32))).naming who
        (s.mapCtl fun x => x.record { r with addr := a.zeroExtend 64 }).storedBad n
      | none => s.hbmPageBad a (s.ctl.inAnchored a) who
    s.endCmd k stPARITY_UNRECOVERED

/-- COMMAND_START: a command whose turn, dependencies and state allow it starts on the cores named; one that runs continues
lost logical indices on them. -/
def execCommandStart (k : CmdKey) (cores : List CoreId) (s : State) : Host.Outcome State Fault Refusal :=
  .next (match s.cmd? k with
    | none => s
    | some m =>
      if s.ctl.runsCommands = false ∨ m.doom.isSome = true ∨ s.ctl.dev.halted = true then s
      else if m.phase = .accepted ∧ s.atHead k = true ∧ s.ctl.notHeld k = true ∧ m.body.deps.all (fun d => s.ctl.depMet d) = true then
        if s.ctl.jobLost m.job.toNat then s.endCmd k stSOURCE_LOST
        else if m.op ≠ 1 then
          if m.op = 2 ∧ (s.ctl.badIn [(m.body.arg1.toNat, m.body.arg2.toNat)]).isEmpty = false then
            s.sourceBad k [(m.body.arg1.toNat, m.body.arg2.toNat)]
          else s.actAtOnce m
        else match s.image? m.body.imageId with
          | none => s
          | some img =>
            if s.ctl.coresSvc < img.ncores then s.endCmd k stQUARANTINED
            else if (s.ctl.badIn [(img.addr, img.len)]).isEmpty then s.launch m img cores
            else s.sourceBad k [(img.addr, img.len)]
      else if m.phase = .running ∧ m.op = 1 then
        match s.image? m.body.imageId with
        | none => s
        | some img => if s.ctl.coresSvc < img.ncores then s.endCmd k stQUARANTINED else s.relaunch m img cores
      else s)

/-! ### Norm watch (R315 to R319) -/

/-- Less than, false where either is a NaN. -/
def fpLt : FVal → FVal → Bool
  | .nan .., _ => false
  | _, .nan .. => false
  | .inf a, .inf b => a && !b
  | .inf a, .num .. => a
  | .num .., .inf b => !b
  | a, b => decide (a.toRat < b.toRat)

/-- Addresses of the sums and running averages of a layer: kind 0 outputs, 1 gradients (R316). -/
def ssqAt (nw l kind : Nat) : Nat := nw + 0x40 + 48 * l + 8 * kind
def emaAt (nw l kind slot : Nat) : Nat := nw + 0x50 + 48 * l + 16 * kind + 8 * slot

/-- The norm of a layer: the square root of its sum of squares, FP64, RNE. -/
def normOf (m : Memory) (nw l kind : Nat) : Nat := (roundRne fp64 (sqrtV (decodeFp fp64 (m.readLe (ssqAt nw l kind) 8))).1).1

/-- One norm jumps (R317). -/
def normJumps (n e : Nat) (thr : Nat) (warm : Bool) : Bool :=
  let v := decodeFp fp64 n
  v.isNonfin || (warm && fpLt (.num false 0) (decodeFp fp64 e) && fpLt (decodeFp fp64 (fpMul fp64 .rne thr e).1) v)

/-- The layers that jump, in rising order. -/
def jumpedLayers (m : Memory) (nw nlayers ver : Nat) (hd : NwHead) : List Nat :=
  let warm := decide (hd.v0.toNat + hd.warm ≤ ver)
  (List.range nlayers).filter fun l => [0, 1].any fun k =>
    normJumps (normOf m nw l k) (m.readLe (emaAt nw l k (ver % 2)) 8) hd.thr.toNat warm

/-- Outcomes of a decision: 0 COMMIT, 1 REPLAY, 2 ABORT. -/
def normOutcome (m : Memory) (lwt : Nat) (att : Nat) (hd : NwHead) (jumped : List Nat) : Nat :=
  if jumped.isEmpty || hd.observe then 0
  else if decide (att < hd.maxatt) && jumped.all (fun l =>
      let e := lwEntry m lwt l
      !e.testBit 3 && bits e 0 3 != 7) then 1
  else 2

/-- A width table entry after an attempt (R118, R119): jump, or clean; committed or not. -/
def lwNext (e ver : Nat) (jump committed : Bool) : Nat :=
  let w : Word := BitVec.ofNat 64 e
  let wide := e.testBit 3
  let bails := bits e 16 16
  if jump then
    if wide then (putBits w 4 7 0).toNat
    else
      let w := putBits (putBits w 4 7 0) 16 16 (min 0xFFFF (bails + 1))
      if bits e 0 3 = 7 then w.toNat else (putBits (putBits w 3 1 1) 32 32 ver).toNat
  else if wide && committed then
    if bits e 4 7 < 63 then (putBits w 4 7 (bits e 4 7 + 1)).toNat else (putBits (putBits w 4 7 0) 3 1 0).toNat
  else if wide then e
  else (putBits w 4 7 0).toNat

/-- The new running average of a norm: n where the old one is 0, else e + (n - e) / 32. -/
def emaNext (n e : Nat) : Nat :=
  if (decodeFp fp64 e).isZero then n
  else
    let d := (roundRne fp64 (subV .rne (decodeFp fp64 n) (decodeFp fp64 e)).1).1
    (fpAdd fp64 .rne e (roundRne fp64 (scalebV (decodeFp fp64 d) (-5)).1).1).1

/-- Step 1 of R319: the slot that a commit makes current receives its averages. -/
def writeEmas (m : Memory) (nw nlayers ver : Nat) (copy : Bool) : Memory :=
  (List.range nlayers).foldl (fun (m : Memory) l =>
    [0, 1].foldl (fun (m : Memory) k =>
      let e := m.readLe (emaAt nw l k (ver % 2)) 8
      m.writeLe (emaAt nw l k ((ver + 1) % 2)) 8 (if copy then e else emaNext (normOf m nw l k) e)) m) m

/-- Step 2: the staged layer width table. -/
def stageTable (m : Memory) (lwt n : Nat) (f : Nat → Nat → Nat) : Memory :=
  (List.range n).foldl (fun (m : Memory) l => m.writeLe (lwt + 8 * n + 8 * l) 8 (f l (lwEntry m lwt l))) m

/-- NORM_JUMP (R545). -/
def State.normEvent (s : State) (job : BitVec 16) (ver att outcome njump first : Nat) : State :=
  s.raise evNORM_JUMP (job ++ BitVec.ofNat 48 ver ++ BitVec.ofNat 8 att ++ BitVec.ofNat 8 outcome ++ BitVec.ofNat 16 njump ++
    BitVec.ofNat 32 first)

/-- The decision on an attempt whose cores have all halted (R317 to R320). -/
def State.decideNorm (s : State) (m : Cmd) (j : Nat) (hd : NwHead) : State :=
  let c := s.ctl
  let n := c.nlayers j
  let lwt := c.lwt j
  let vr := c.vr j
  let nw := c.nw j
  let ver := vrVersion s.mem vr
  let att := vrAttempt s.mem vr
  let js := jumpedLayers s.mem nw n ver hd
  let out := normOutcome s.mem lwt att hd js
  let first := js.head?.getD 0xFFFFFFFF
  let mem := if out = 0 then writeEmas s.mem nw n ver false else s.mem
  let mem := stageTable mem lwt n fun l e =>
    if out = 0 then lwNext e ver false true else lwNext e ver (js.contains l) false
  let mem := mem.writeLe vr 8 (if out = 0 then vrWord (ver + 1) 1 else if out = 1 then vrWord ver (att + 1) else vrWord ver 1)
  let mem := finishTable mem lwt vr n
  let mem := (mem.writeLe (vr + 24) 4 first).writeLe (vr + 28) 4 js.length
  let s := s.store mem [(vr, 32), (lwt, 16 * n), (nw + 64, 48 * n)]
  let s := if js.isEmpty then s else s.normEvent m.job ver att out js.length first
  if out = 0 then s.finish m stOK 0 true
  else if out = 2 then s.finish m stABORTED_NORM 0 true
  else match m.doom with
    -- a pre-emption after the last halt: REPLAY is carried out, and the command ends instead (R323)
    | some st => s.finish m st 0 true
    | none => match s.image? m.body.imageId with
      | some img => s.startAttempt m.key img
      | none => s

/-- NORM_WATCH_DECIDE (R317, R320): a TRAIN attempt whose cores have all halted with 0x0000. -/
def execNormWatchDecide (k : CmdKey) (s : State) : Host.Outcome State Fault Refusal :=
  .next (match s.cmd? k with
    | none => s
    | some m =>
      if m.phase = .deciding ∧ m.stepKind = 1 ∧ s.ctl.dev.halted = false ∧ s.ctl.dev.dstate ≠ .safe then
        match s.ctl.jobEntry m.job with
        | none => s
        | some j => s.decideNorm m j (KMap.get ⟨false, 1, 0, 0, 1⟩ s.ctl.txn.heads j)
      else s)

/-- ADOPT_FLIP (R322): the averages of the new slot are copied from the old, and VERSION rises by one. -/
def execAdoptFlip (k : CmdKey) (s : State) : Host.Outcome State Fault Refusal :=
  .next (match s.cmd? k with
    | none => s
    | some m =>
      if m.phase = .deciding ∧ m.stepKind = 2 ∧ s.ctl.dev.halted = false ∧ s.ctl.dev.dstate ≠ .safe then
        match s.ctl.jobEntry m.job with
        | none => s
        | some j =>
          let c := s.ctl
          let n := c.nlayers j
          let vr := c.vr j
          let ver := vrVersion s.mem vr
          let mem := writeEmas s.mem (c.nw j) n ver true
          let mem := stageTable mem (c.lwt j) n fun _ e => e
          let mem := finishTable (mem.writeLe vr 8 (vrWord (ver + 1) 1)) (c.lwt j) vr n
          (s.store mem [(vr, 16), (c.lwt j, 16 * n), (c.nw j + 64, 48 * n)]).finish m stOK 0 true
      else s)

end Sys2Proof.Machine
end

