-- ==== Sys2Proof/Machine/Control.lean ====
section
/-! DEFINITION. ctl and br (08 R217, R218, R223, R224; 07 R209, R210). -/
namespace Sys2Proof.Machine

/-- VAL, with bits [42:16] reserved (R217). -/
def valOf (w : GWord) : BitVec 16 := fld w 0 16
def ctlLegal (w : GWord) : Bool := zeroAt w 16 27

/-- `ctl.nop`. -/
def execCtlNop (c : CoreId) (w : GWord) (s : State) : Host.Outcome State Fault Refusal :=
  .next (s.issueCore c w (ctlLegal w && valOf w == 0) fun k => .ok k)

/-- `ctl.halt`: a full fence, then the halt with status VAL (R209). -/
def execCtlHalt (c : CoreId) (w : GWord) (s : State) : Host.Outcome State Fault Refusal :=
  .next (s.issue c w (scalarSig w && ctlLegal w && (valOf w == 0 || decide (0x8000 ≤ (valOf w).toNat))) fun k =>
    .ok (s.stallOn c k (.halt (valOf w) k.iseq)))

/-- `ctl.phase` (R210). -/
def execCtlPhase (c : CoreId) (w : GWord) (s : State) : Host.Outcome State Fault Refusal :=
  .next (s.issueCore c w (ctlLegal w) fun k => .ok { k with phase := valOf w })

/-- `ctl.trap`: the software trap (R217). -/
def execCtlTrap (c : CoreId) (w : GWord) (s : State) : Host.Outcome State Fault Refusal :=
  .next (s.issueCore c w (ctlLegal w) fun _ => .error (softTrap (valOf w)))

/-! ### Branches -/

def brRd (w : GWord) : BitVec 5 := fld w 38 5
def brRa (w : GWord) : BitVec 5 := fld w 33 5

/-- The PC-relative target (R223); the program counter is the branch's own. -/
def brTarget (pc : BitVec 22) (w : GWord) : Int := (pc.toNat : Int) + 8 * toSigned 32 (fld w 0 32).toNat

/-- Goes to a target that is checked (R224): a multiple of 8, inside TEXT. -/
def Core.branch (k : Core) (t : Int) : Except TrapC Core := do
  need (t % 8 == 0) (dataTrap 0x3)
  need (match k.prog with
    | some p => decide ((p.textLo : Int) ≤ t) && decide (t + 8 ≤ (p.textLo : Int) + p.textLen)
    | none => false) (dataTrap 0xD)
  pure { k with pc := BitVec.ofInt 22 t }

/-- `br.rel`. -/
def execBrRel (c : CoreId) (w : GWord) (s : State) : Host.Outcome State Fault Refusal :=
  .next (s.issueCore c w (zeroAt w 32 11) fun k => k.branch (brTarget (s.core c).pc w))

/-- `br.reg`. -/
def execBrReg (c : CoreId) (w : GWord) (s : State) : Host.Outcome State Fault Refusal :=
  .next (s.issueCore c w (zeroAt w 38 5 && zeroAt w 0 33) fun k => k.branch (k.rg (brRa w)).toNat)

/-- `br.call`. -/
def execBrCall (c : CoreId) (w : GWord) (s : State) : Host.Outcome State Fault Refusal :=
  .next (s.issueCore c w (zeroAt w 32 6) fun k =>
    (k.branch (brTarget (s.core c).pc w)).map fun k' => k'.wg (brRd w) (k.pc.zeroExtend 64))

/-- `br.callr`: RA is read before RD is written. -/
def execBrCallr (c : CoreId) (w : GWord) (s : State) : Host.Outcome State Fault Refusal :=
  .next (s.issueCore c w (zeroAt w 0 33) fun k =>
    (k.branch (k.rg (brRa w)).toNat).map fun k' => k'.wg (brRd w) (k.pc.zeroExtend 64))

/-- `br.dec`: the target is checked only when the branch is taken. -/
def execBrDec (c : CoreId) (w : GWord) (s : State) : Host.Outcome State Fault Refusal :=
  .next (s.issueCore c w (zeroAt w 38 5 && zeroAt w 32 1 && brRa w != 0) fun k =>
    let v := k.rg (brRa w) - 1
    if v = 0 then .ok (k.wg (brRa w) 0)
    else (k.branch (brTarget (s.core c).pc w)).map fun k' => k'.wg (brRa w) v)

end Sys2Proof.Machine
end

