-- ==== Sys2Proof/Machine/Commit.lean ====
section
/-! DEFINITION. The rules that a commit is checked against, and what it changes when it applies (16 R431, R437, R441 and the
register rules of 10, 11, 13, 14, 15, 17, 18 and 19); warm reset, over which a commit stands. -/
namespace Sys2Proof.Machine

/-! ### The configuration as the commit would leave it -/

/-- A word with the written bits replaced. -/
def mergeWord (old v m : Word) : Word := (old &&& ~~~ m) ||| (v &&& m)

/-- The journal with the slices that BC_JNL_CFG names. -/
def Ctl.namedJnl (d : Ctl) : Journal :=
  let sl (lo : Nat) : Fin 32 := ⟨d.fld Addr.bcJnlCfg lo 5 % 32, Nat.mod_lt _ (by decide)⟩
  { d.jnl with mirror0 := sl 0, mirror1 := sl 8, standby := sl 16, standbyValid := true, single := false, remirror := false }

/-- The control plane with the shadow's words; a new BC_JNL_CFG also names the journal's slices (R286). -/
def Ctl.withShadow (c : Ctl) (sh : KMap (Word × Word)) : Ctl :=
  let d := sh.foldl (fun (d : Ctl) e => d.setReg e.1 (mergeWord (d.reg e.1) e.2.1 e.2.2)) c
  if d.reg Addr.bcJnlCfg = c.reg Addr.bcJnlCfg then d else { d with jnl := d.namedJnl }

/-- The commit changes a register. -/
def chg (c d : Ctl) (a : Nat) : Bool := c.reg a != d.reg a
/-- It changes one of n registers. -/
def chgAny (c d : Ctl) (l : List Nat) : Bool := l.any fun a => chg c d a

/-! ### Field ranges -/

/-- Every field of a register lies in its range (R276, R293, R356, R391, R421, R437, R464, R487, R509). -/
def rangeOk (a : Nat) (w : Word) : Bool :=
  let f (lo n : Nat) : Nat := bits w.toNat lo n
  let within (lo n x y : Nat) : Bool := decide (x ≤ f lo n) && decide (f lo n ≤ y)
  if a = Addr.gcfg then within 2 16 10 60000
  else if a = Addr.bcShare then
    decide (f 0 8 + f 8 8 + f 16 8 + f 24 8 = 64) && decide (8 ≤ f 0 8) && decide (8 ≤ f 8 8) && decide (1 ≤ f 16 8) &&
      decide (8 ≤ f 24 8)
  else if (idxOf a (Addr.bcSliceCfg 0) 8 32).isSome then within 0 6 4 40
  else if (idxOf a (Addr.bcRgnLo 0) 16 256).isSome then within 54 3 0 3
  else if a = Addr.mlkVc then
    decide (f 0 13 + f 13 13 + f 26 13 + 64 = 4096) && decide (256 ≤ f 0 13) && decide (256 ≤ f 13 13) && decide (128 ≤ f 26 13)
  else if a = Addr.collCfg then within 0 14 100 10000 && within 17 15 64 16384
  else if (idxOf a (Addr.collJobLo 0) 16 16).isSome then within 18 8 1 255
  else if (idxOf a (Addr.collJobHi 0) 16 16).isSome then within 48 5 6 16
  else if (idxOf a (Addr.collGrpA 0) 32 64).isSome then within 18 8 1 255 && within 26 16 1 32768 && decide (f 42 15 < f 26 16)
  else if (idxOf a (Addr.collGrpB 0) 32 64).isSome then f 0 48 % 2 == 0
  else if a = Addr.eloCfg then within 23 10 10 1000
  else if (idxOf a (Addr.eloPcfg 0) 8 8).isSome then within 16 8 0 (if f 24 1 = 1 then 32 else 128)
  else if a = Addr.pwrCap then within 0 8 60 240 && within 8 10 0 970
  else if a = Addr.pwrTherm then within 8 8 85 105
  else if a = Addr.relCfg then within 1 14 1 8760 && within 15 10 0 1000 && within 25 8 1 255
  else if a = Addr.relPsSrc then f 0 48 % 8 == 0
  else if a = Addr.relPsLen then within 0 25 1 (16 * 2 ^ 20)
  else if a = Addr.secLms then within 41 6 10 39
  else if a = Addr.secFwSrc || a = Addr.secRtSrc || a = Addr.secRtDst then f 0 48 % 4096 == 0
  else if a = Addr.secFwLen || a = Addr.secRtLen then within 0 40 1 (2 ^ 39)
  else true

/-! ### Base Camp (R276, R286) -/

/-- Used Base Camp entries: index, offset, length, job. -/
def Ctl.bcUsed (c : Ctl) : List (Nat × Nat × Nat × Nat) :=
  (List.range 256).filterMap fun k =>
    let a := Addr.bcRgnLo k
    if c.fld a 19 19 = 0 then none else some (k, c.fld a 0 19 * 4096, c.fld a 19 19 * 4096, c.fld a 38 16)

/-- A slice holds a journal region. -/
def Journal.holds (j : Journal) (n : Nat) : Bool :=
  j.mirror0.val == n || j.mirror1.val == n || (j.standbyValid && j.standby.val == n)

/-- User area of a slice (R275). -/
def Ctl.userArea (c : Ctl) (n : Nat) : Nat :=
  0x3000000 - (if c.jnl.holds n then 0x800000 else 0) - c.fld (Addr.bcSliceCfg n) 0 6 * 0x100000

/-- No two ranges of a list overlap. -/
def disjoint : List (Nat × Nat) → Bool
  | [] => true
  | r :: rs => rs.all (fun q => decide (r.1 + r.2 ≤ q.1) || decide (q.1 + q.2 ≤ r.1)) && disjoint rs

/-- Every region lies in the user area of one slice, and no two overlap; a region that the commit writes, be it with the values
it has, lies in a slice in service (R276; log 35). -/
def bcRule (d : Ctl) (wrote : Nat → Bool) : Bool :=
  d.bcUsed.all (fun r =>
    let n := r.2.1 / 0x3000000
    decide (n < 32) && decide (r.2.1 % 0x3000000 + r.2.2.1 ≤ d.userArea n) &&
    (!(wrote (Addr.bcRgnLo r.1) || wrote (Addr.bcRgnHi r.1)) || d.sliceState n == 0)) &&
  disjoint (d.bcUsed.map fun r => (r.2.1, r.2.2.1))

/-- After the loss of a mirror and the move of R42, some slice can take the standby region. -/
def Ctl.survives (d : Ctl) (m : Fin 32) : Bool :=
  let j := d.jnl
  let live := if j.mirror0 = m then j.mirror1 else j.mirror0
  let j' := if j.standbyValid then
      { j with mirror0 := if j.mirror0 = m then j.standby else j.mirror0
               mirror1 := if j.mirror1 = m then j.standby else j.mirror1, standbyValid := false }
    else { j with mirror0 := live, mirror1 := live, standbyValid := false }
  ((({ d with jnl := j' }).setFld (Addr.bcSliceStat m.val) 0 2 1).standbySlice).isSome

/-- R286: three base dies, a change in ADMITTED with no record in use, and, for every commit, a slice that can take the standby
region after the loss of either mirror that BC_JNL_CFG names. -/
def jnlRule (c d : Ctl) : Bool :=
  let j := d.namedJnl
  let d := { d with jnl := j }
  (!chg c d Addr.bcJnlCfg ||
    (c.dev.dstate == .admitted && c.jnl.used == 0 && dieOf j.mirror0.val != dieOf j.mirror1.val &&
      dieOf j.mirror0.val != dieOf j.standby.val && dieOf j.mirror1.val != dieOf j.standby.val)) &&
  d.survives j.mirror0 && d.survives j.mirror1

/-! ### HBM (R298) -/

/-- Ranges of pages of an entry: region, mirror, spare. -/
def Ctl.hbmRanges (c : Ctl) (k : Nat) : List (Nat × Nat) :=
  let n := c.fld (Addr.hbmRgnLo k) 28 28
  [(c.fld (Addr.hbmRgnLo k) 0 28, n)] ++ (if c.anchored k then [(c.fld (Addr.hbmRgnMid k) 0 28, n)] else []) ++
    (if c.spareEn k then [(c.fld (Addr.hbmRgnMid k) 28 28, n)] else [])

def Ctl.hbmChg (c d : Ctl) (k : Nat) : Bool := chgAny c d [Addr.hbmRgnLo k, Addr.hbmRgnMid k, Addr.hbmRgnHi k]

/-- The conditions of one entry. -/
def hbmEntryOk (d : Ctl) (k : Nat) : Bool :=
  let b := d.fld (Addr.hbmRgnLo k) 0 28
  let used := d.fld (Addr.hbmRgnLo k) 28 28 != 0
  (used || (!d.anchored k && !d.spareEn k)) && (!d.spareEn k || d.anchored k) &&
  (!d.anchored k || (d.fld (Addr.hbmRgnMid k) 0 28 + 2 ^ 28 - b) % 4 == 2) &&
  (!d.spareEn k || (d.fld (Addr.hbmRgnMid k) 28 28 + 2 ^ 28 - b) % 4 == 1) &&
  (!used || (d.hbmRanges k).all fun r => decide (r.1 + r.2 ≤ 0xC000000))

/-- A plain region holds a page of a stack out of service. -/
def onRetired (d : Ctl) (k : Nat) : Bool :=
  (d.pageCases k).any fun r => d.stackState (stackOfPage (d.fld (Addr.hbmRgnLo k) 0 28 + r)) != 0

def hbmRule (d : Ctl) : Bool :=
  (List.range 256).all (fun k => hbmEntryOk d k) && disjoint (d.hbmUsed.flatMap d.hbmRanges) &&
  d.hbmUsed.all fun k => d.anchored k || !onRetired d k

/-! ### Meloend (R350) -/

/-- Ports on an axis (1 W to 4 Z) with a role. -/
def Ctl.portsOn (d : Ctl) (axis role : Nat) : List MPort :=
  (List.finRange 16).filter fun p => d.pAxis p == axis && d.pRole p == role
def Ctl.anyOn (d : Ctl) (axis : Nat) : List MPort := (List.finRange 16).filter fun p => d.pAxis p == axis

/-- One axis X, Y or Z, number a from 1 to 3, of length n. -/
def axisRule (d : Ctl) (a : Axis) : Bool :=
  let n := d.axisLen a
  let x := a.val + 1
  let plus := (d.portsOn x 0).length
  let minus := (d.portsOn x 1).length
  let ex := (d.portsOn x 2).length
  (if n = 1 then (d.anyOn x).isEmpty
    else if n = 2 then plus == 1 && minus == 0
    else plus == 1 && minus == 1) &&
  (ex == 0 || (ex == 1 && n % 2 == 0 && decide (4 ≤ n)))

/-- The W ports. -/
def wRule (d : Ctl) : Bool :=
  let ws := d.anyOn 1
  let l := d.axisLen 0
  (l != 1 || ws.isEmpty) && ws.all (fun p => decide (d.pWidx p + 2 ≤ l)) && (ws.map d.pWidx).eraseDups.length == ws.length

/-- What a port's configuration gives it changes: axis, neighbour, EN. -/
def portChg (c d : Ctl) (p : MPort) : Bool :=
  chg c d (Addr.mlkPcfg p.val) || c.neighbour p != d.neighbour p

def mlkRule (c d : Ctl) : Bool :=
  if chgAny c d ([Addr.mlkCoord, Addr.mlkAxis] ++ (List.range 16).map Addr.mlkPcfg) then
    axisRule d 1 && axisRule d 2 && axisRule d 3 && wRule d && axes.all (fun a => decide (coord d.devid a < d.axisLen a)) &&
    (c.dev.dstate == .admitted || (List.finRange 16).all fun p => !portChg c d p || (c.port p).state == .off)
  else true

/-! ### Jobs (R316, R441) -/

/-- A range lies in one Base Camp user region granted to a job. -/
def Ctl.inBc (c : Ctl) (job a n : Nat) : Bool := (c.bcRegions job).any fun r => decide (r.lo ≤ a) && decide (a + n ≤ r.lo + r.len)

/-- Accepted, uncompleted commands of a job. -/
def Ctl.activeJob (c : Ctl) (job : Nat) : Bool := c.jnl.cmds.any fun m => m.accepted && m.job.toNat == job

/-- The norm-watch header and the width table entries at the load. -/
def loadOk (d : Ctl) (m : Memory) (j : Nat) : Bool :=
  let nw := d.nw j
  let n := d.nlayers j
  let ctrl := m.readLe (nw + 4) 4
  let thr := decodeFp fp64 (m.readLe (nw + 8) 8)
  let warm := m.readLe (nw + 0x18) 4
  m.readLe nw 4 == n && decide (ctrl < 32) && decide (1 ≤ bits ctrl 1 4) && decide (bits ctrl 1 4 ≤ 8) && !thr.isNonfin &&
  decide (1 < thr.toRat) && decide (1 ≤ warm) && decide (warm ≤ 1024) && (m.readBytes (nw + 0x1C) 36).all (· == 0) &&
  (List.range n).all fun l => decide (lwEntry m (d.lwt j) l < 8)

/-- One job entry. -/
def jobEntryRule (c d : Ctl) (m : Memory) (j : Nat) : Bool :=
  let en := d.bit (Addr.jobA j) 16
  let was := c.bit (Addr.jobA j) 16
  let job := d.fld (Addr.jobA j) 0 16
  let n := d.nlayers j
  (!en ||
    ((List.range 16).all (fun i => i == j || !d.bit (Addr.jobA i) 16 || d.fld (Addr.jobA i) 0 16 != job) &&
      c.elo.sessions.any (fun e => e.2.id.toNat == d.fld (Addr.jobA j) 32 32) &&
      decide (1 ≤ n) && decide (n ≤ 4096) && d.lwt j % 8 == 0 && d.vr j % 8 == 0 && d.nw j % 8 == 0 &&
      d.inBc job (d.lwt j) (16 * n) && d.inBc job (d.vr j) 64 && d.inBc job (d.nw j) (64 + 48 * n) &&
      disjoint [(d.lwt j, 16 * n), (d.vr j, 64), (d.nw j, 64 + 48 * n)])) &&
  (!(en && was) ||
    (c.fld (Addr.jobA j) 0 16 == job && c.nlayers j == n && c.lwt j == d.lwt j && c.vr j == d.vr j && c.nw j == d.nw j &&
      c.fld (Addr.jobE j) 0 48 == d.fld (Addr.jobE j) 0 48)) &&
  (!(was && !en) || (!c.activeJob (c.fld (Addr.jobA j) 0 16) && !d.bit (Addr.collJobLo j) 16)) &&
  (!(en && !was) || loadOk d m j)

/-- An enabled collective entry does not differ in its job from the entry of its number, where that is enabled. -/
def collJobNames (d : Ctl) (j : Nat) : Bool :=
  !d.bit (Addr.collJobLo j) 16 || !d.bit (Addr.jobA j) 16 || d.fld (Addr.collJobLo j) 0 16 == d.fld (Addr.jobA j) 0 16

/-- R441 over every entry of the configuration that the commit would leave, whatever it writes. -/
def jobRule (c d : Ctl) (m : Memory) : Bool := (List.range 16).all fun j => jobEntryRule c d m j && collJobNames d j

/-! ### Collectives (R358, R391) -/

/-- The DEVIDs of a rank list. -/
def rankList (m : Memory) (a n : Nat) : List (BitVec 16) := (List.range n).map fun i => BitVec.ofNat 16 (m.readLe (a + 2 * i) 2)

/-- The list of an enabled group entry. -/
def Ctl.grpList (d : Ctl) (m : Memory) (n : Nat) : List (BitVec 16) :=
  rankList m (d.fld (Addr.collGrpB n) 0 48) (d.fld (Addr.collGrpA n) 26 16)

def grpChg (c d : Ctl) (n : Nat) : Bool := chgAny c d [Addr.collGrpA n, Addr.collGrpB n]

/-- A commit writes a group entry, be it with the values it has: the entry is committed again (R358). -/
def grpWrote (wrote : Nat → Bool) (n : Nat) : Bool := wrote (Addr.collGrpA n) || wrote (Addr.collGrpB n)

/-- R358 for one group entry. -/
def grpRule (c d : Ctl) (m : Memory) (wrote : Nat → Bool) (n : Nat) : Bool :=
  let a := Addr.collGrpA n
  let job := d.fld a 0 16
  let l := if grpWrote wrote n then d.grpList m n else KMap.get [] c.coll.lists n
  (!d.bit a 16 ||
    (l.eraseDups.length == l.length && (l[d.fld a 42 15]?.map (·.toNat)) == some d.devid.toNat &&
      l.all (fun v => decide (v.toNat < 2 ^ 15) && axes.all fun x => decide (coord (v.extractLsb' 0 15) x < d.axisLen x)) &&
      d.inBc job (d.fld (Addr.collGrpB n) 0 48) (2 * l.length) &&
      (match d.collJob job with
        | some j => d.bit (Addr.collJobLo j) 17
        | none => false))) &&
  (!grpWrote wrote n || !c.coll.ops.any fun o => o.grp.mask == 0 && o.grp.entry == n)

/-- R391 for one job entry of the collectives. -/
def collJobRule (c d : Ctl) (j : Nat) : Bool :=
  let lo := Addr.collJobLo j
  let job := d.fld lo 0 16
  let wl := d.fld (Addr.collJobHi j) 0 48
  (!d.bit lo 16 || (List.range 16).all fun i => i == j || !d.bit (Addr.collJobLo i) 16 || d.fld (Addr.collJobLo i) 0 16 != job) &&
  (wl == 0 || (wl % 64 == 0 && d.inBc job wl (64 * 2 ^ d.fld (Addr.collJobHi j) 48 5))) &&
  (c.fld lo 16 2 == d.fld lo 16 2 || !c.coll.ops.any fun o => o.key.job.toNat == c.fld lo 0 16)

/-- R358 and R391 over every entry. -/
def collRule (c d : Ctl) (m : Memory) (wrote : Nat → Bool) : Bool :=
  (List.range 16).all (fun j => collJobRule c d j) && (List.range 64).all fun n => grpRule c d m wrote n

/-! ### Host ports (R421) -/

def eloRule (c d : Ctl) : Bool :=
  if (List.range 8).any fun n => chgAny c d [Addr.eloPcfg n, Addr.eloPip n, Addr.eloPip n + 8] then
    let on := (List.finRange 8).filter fun p => d.bit (Addr.eloPcfg p.val) 0
    let ips := (on.map d.portIp).filter (· ≠ 0)
    let has (b : Bool) : Bool := on.any fun p => netB p == b && d.portIp p != 0
    let lacks (b : Bool) : Bool := on.any fun p => netB p == b && d.portIp p == 0
    ips.eraseDups.length == ips.length && !(lacks false && has true) && !(lacks true && has false)
  else true

/-! ### Global registers, probe source (R437, R487) -/

def gcfgRule (c d : Ctl) : Bool :=
  let was := c.bit Addr.gcfg 0
  let now := d.bit Addr.gcfg 0
  (!was || now) && (was || !now || c.dev.dstate == .admitted)

/-- The bundle lies in a granted region. -/
def psSrcRule (c d : Ctl) : Bool :=
  !chg c d Addr.relPsSrc ||
    (let a := d.fld Addr.relPsSrc 0 48
     d.bcUsed.any (fun r => decide (bcBase + r.2.1 ≤ a) && decide (a < bcBase + r.2.1 + r.2.2.1)) ||
     d.hbmUsed.any fun k => decide (d.fld (Addr.hbmRgnLo k) 0 28 * 4096 ≤ a) &&
       decide (a < (d.fld (Addr.hbmRgnLo k) 0 28 + d.fld (Addr.hbmRgnLo k) 28 28) * 4096))

/-! ### Removal and narrowing (R431) -/

/-- A range as the commit leaves it still covers the old one. -/
def covers (lo n lo' n' : Nat) : Bool := decide (lo' ≤ lo) && decide (lo + n ≤ lo' + n')

/-- Nothing that an accepted, uncompleted command can reach is removed or narrowed. -/
def keepsReach (c d : Ctl) : Bool :=
  c.bcUsed.all (fun r =>
    let a := Addr.bcRgnLo r.1
    !chg c d a || !c.activeJob r.2.2.2 ||
      (d.fld a 38 16 == r.2.2.2 && covers r.2.1 r.2.2.1 (d.fld a 0 19 * 4096) (d.fld a 19 19 * 4096))) &&
  c.hbmUsed.all (fun k =>
    let a := Addr.hbmRgnLo k
    let job := c.fld (Addr.hbmRgnHi k) 0 16
    !c.hbmChg d k || !c.activeJob job ||
      (d.fld (Addr.hbmRgnHi k) 0 16 == job && covers (c.fld a 0 28) (c.fld a 28 28) (d.fld a 0 28) (d.fld a 28 28))) &&
  (List.range 64).all (fun n =>
    let a := Addr.collGrpA n
    !c.bit a 16 || !grpChg c d n || !c.activeJob (c.fld a 0 16) ||
      (d.bit a 16 && c.fld a 0 16 == d.fld a 0 16 && decide (c.fld a 26 16 ≤ d.fld a 26 16))) &&
  (List.range 16).all fun j =>
    let a := Addr.jobA j
    !c.bit a 16 || !c.activeJob (c.fld a 0 16) || (d.bit a 16 && c.fld a 0 16 == d.fld a 0 16)

/-! ### Rights (R429) -/

def Ctl.entryOwner (c : Ctl) (ses : Session) (j : Nat) : Bool := c.fld (Addr.jobA j) 32 32 == ses.id.toNat

/-- The session in a slot may write the bits m of TX fields of a register. -/
def Ctl.mayTx (c : Ctl) (slot : Nat) (ses : Session) (a m : Nat) : Bool :=
  let owner (i : Option Nat) : Bool := match i with
    | some j => c.entryOwner ses j
    | none => false
  let grp (i : Option Nat) : Bool := match i with
    | some n => c.ownsJob ses (c.fld (Addr.collGrpA n) 0 16)
    | none => false
  ses.admin ||
  (owner (idxOf a (Addr.jobA 0) 64 16) && m &&& (ones 17 + ones 32 * 2 ^ 32) == 0) ||
  owner (idxOf a (Addr.jobB 0) 64 16) || owner (idxOf a (Addr.jobC 0) 64 16) || owner (idxOf a (Addr.jobD 0) 64 16) ||
  owner (idxOf a (Addr.jobE 0) 64 16) ||
  (owner (idxOf a (Addr.collJobLo 0) 16 16) && m &&& ones 18 == 0) || owner (idxOf a (Addr.collJobHi 0) 16 16) ||
  (grp (idxOf a (Addr.collGrpA 0) 32 64) && m &&& ones 16 == 0) || grp (idxOf a (Addr.collGrpB 0) 32 64) ||
  idxOf a (Addr.sesHof 0) 8 1024 == some slot

/-! ### Sealed mode (R344, R395, R506) -/

/-- A write of a TX field that sealed mode forbids: MACSEC_REQ or ENC_EN to 0, INJ_EN to 1. -/
def sealForbids (a v m : Nat) : Bool :=
  (a == Addr.eloCfg && m.testBit 16 && !v.testBit 16) || (a == Addr.mlkLcfg && m.testBit 0 && !v.testBit 0) ||
  ((idxOf a (Addr.jobA 0) 64 16).isSome && m.testBit 17 && v.testBit 17)

/-! ### The decision (R431) -/

/-- The status with which a commit is refused, if it is. One that changes no word breaks no rule of a configuration. -/
def State.commitRefusal (s : State) (slot : Nat) (ses : Session) (t : OpenTxn) : Option Status :=
  let c := s.ctl
  let d := c.withShadow t.shadow
  let words := t.shadow.map (·.1)
  let changed := words.filter fun a => chg c d a
  let written (lo hi : Nat) : Bool := words.any fun a => decide (lo ≤ a) && decide (a < hi)
  if c.dev.dstate = .retreat then some stPOWER_RETREAT
  else if words.any fun a => decide (t.base.toNat < (KMap.get 0 c.txn.stamp a).toNat) then some stTXN_CONFLICT
  else if !t.shadow.all (fun e => c.mayTx slot ses e.1 e.2.2.toNat) then some stNOT_ADMITTED
  else if c.dev.sealed && t.shadow.any (fun e => sealForbids e.1 e.2.1.toNat e.2.2.toNat) then some stSEALED_REFUSED
  else if changed.isEmpty then none
  else if changed.all (fun a => rangeOk a (d.reg a)) && gcfgRule c d && jobRule c d s.mem &&
      (!(words.any (fun a => decide (Addr.bcRgnLo 0 ≤ a) && decide (a < Addr.hbm)) ||
        chgAny c d ([Addr.bcJnlCfg] ++ (List.range 32).map Addr.bcSliceCfg)) || bcRule d words.contains) && jnlRule c d &&
      (!written (Addr.hbmRgnLo 0) Addr.mlk || hbmRule d) && mlkRule c d &&
      collRule c d s.mem words.contains && eloRule c d &&
      psSrcRule c d && keepsReach c d then none
  else some stTXN_CONFLICT

/-! ### What a commit changes beside its words -/

/-- Job entries: the load and its end (R307, R316, R440, R508). -/
def State.applyJob (c d : Ctl) (s : State) (j : Nat) : State :=
  let was := c.bit (Addr.jobA j) 16
  let now := d.bit (Addr.jobA j) 16
  let job := d.fld (Addr.jobA j) 0 16
  if now && !was then
    let nw := d.nw j
    let vr := d.vr j
    let v := d.fld (Addr.jobE j) 0 48
    let m := s.mem
    let ctrl := m.readLe (nw + 4) 4
    let hd : NwHead := ⟨ctrl.testBit 0, bits ctrl 1 4, BitVec.ofNat 64 (m.readLe (nw + 8) 8), BitVec.ofNat 48 v, m.readLe (nw + 0x18) 4⟩
    let m := m.writeLe (nw + 0x10) 8 v
    let m := (List.range (d.nlayers j)).foldl (fun (m : Memory) l => m.zeroFill (nw + 0x50 + 48 * l) 32) m
    let m := m.zeroFill vr 64
    let m := (((m.writeLe vr 8 (vrWord v 1)).writeLe (vr + 8) 8 (vrWord v 1)).writeLe (vr + 16) 8 (2 ^ 48 - 1)).writeLe (vr + 24) 4
      0xFFFFFFFF
    (s.store m [(nw + 0x10, 8), (nw + 0x40, 48 * d.nlayers j), (vr, 64)]).mapCtl fun x =>
      { x with txn := { x.txn with heads := KMap.insertKey j hd (x.txn.heads.filter fun e => e.1 ≠ j) }
               jnl := { x.jnl with wideAll := x.jnl.wideAll.filter fun b => b.toNat ≠ job } }.setBit (Addr.jobF j) 0 true
  else if was && !now then
    let old := c.fld (Addr.jobA j) 0 16
    s.mapCtl fun x =>
      { x with txn := { x.txn with heads := x.txn.heads.filter fun e => e.1 ≠ j }
               book := { x.book with lastVer := KMap.set 0 x.book.lastVer j (c.jverWord s.mem j) }
               sec := { x.sec with kslots := x.sec.kslots.map fun (k : Option KeySlot) => match k with
                 | some v => if v.job.toNat = old then none else some v
                 | none => none } }.setBit (Addr.jobF j) 0 false
  else s

/-- HBM entries that the commit writes: LOST, SINGLE and RESTORING as its copies stand (R298, R300). -/
def Ctl.applyHbm (x : Ctl) (k : Nat) : Ctl :=
  let x := { x with rel := { x.rel with restored := x.rel.restored.filter fun e => e.1 ≠ k } }.setFld (Addr.hbmRgnHi k) 16 3 0
  if x.fld (Addr.hbmRgnLo k) 28 28 ≠ 0 ∧ x.anchored k = true then x.noteCopies k else x

/-- The communication queues of a collective entry start again (R360): their operations that ended are no longer known, but for one
whose instruction has yet to complete. -/
def Coll.renew (y : Coll) (qs : Nat → Bool) (ofKey : OpKey → Bool) : Coll :=
  { y with nextSeq := y.nextSeq.filter (fun e => !qs e.1), past := y.past.filter (fun o => o.waiting || !ofKey o.key)
           early := y.early.filter fun e => !ofKey e.key }

/-- A port whose configuration changed: OFF where it has no peer or EN is 0, which is no fault; else it trains, and an UP port that
must train again departs by a fault (R345, R346). The change is announced on the axis that the port had (R351). A link that
carries traffic in clear and must encrypt from now on trains again, DOWN with REASON KEY (R344; DESIGN CHOICE, log 162). -/
def State.applyPort (c : Ctl) (s : State) (p : MPort) : State :=
  if portChg c s.ctl p then
    if s.ctl.pEn p && (s.ctl.axisOf p).isSome then
      (if (s.ctl.port p).state = .off then s else s.portDownOn p 0 (c.axisOf p)).mapCtl fun x => x.startTraining p
    else if (s.ctl.port p).state = .off then s.mapCtl fun x => x.setPort p { x.port p with reason := 1 }
    else s.portOffOn p 1 (c.axisOf p)
  else if (s.ctl.port p).carries && !(s.ctl.port p).enc && s.ctl.mustEncrypt p then
    (s.portDown p .key).mapCtl fun x => x.startTraining p
  else s

def State.applyHost (c : Ctl) (s : State) (p : HPort) : State :=
  let a := Addr.eloPcfg p.val
  let was := c.bit a 0
  let now := s.ctl.bit a 0
  if was && !now then s.mapCtl fun x => x.hostOff p 1
  else if now && !was then
    s.mapCtl fun x => if (x.laser (laserOfH p)).state = .on then x.hostTrain p else x.setHPort p ⟨.down, 2, [], (x.hport p).sak⟩
  else s

/-- Words of a commit take their committed values, with everything that follows from them. -/
def State.applyCommit (s : State) (t : OpenTxn) : State :=
  let c := s.ctl
  let d := c.withShadow t.shadow
  let words := t.shadow.map (·.1)
  let wrote (a : Nat) : Bool := words.contains a
  let s := { s with ctl := d }
  -- Base Camp: a written entry is no longer RETIRED
  let s := s.mapCtl fun x => (List.range 256).foldl (fun (x : Ctl) k =>
    if wrote (Addr.bcRgnLo k) || wrote (Addr.bcRgnHi k) then x.setBit (Addr.bcRgnHi k) 19 false else x) x
  let s := s.mapCtl fun x => (List.range 256).foldl (fun (x : Ctl) k =>
    if wrote (Addr.hbmRgnLo k) || wrote (Addr.hbmRgnMid k) || wrote (Addr.hbmRgnHi k) then x.applyHbm k else x) x
  let hbmWrote (k : Nat) : Bool := wrote (Addr.hbmRgnLo k) || wrote (Addr.hbmRgnMid k) || wrote (Addr.hbmRgnHi k)
  let s := if (List.range 256).any hbmWrote then State.retweak c s else s
  let s := (List.range 256).foldl (fun (s : State) k =>
    if hbmWrote k && s.ctl.fld (Addr.hbmRgnLo k) 28 28 != 0 && s.ctl.anchored k then s.serveCopies k else s) s
  let s := (List.range 16).foldl (fun (s : State) j => State.applyJob c d s j) s
  -- collectives: rank lists, their CRC, and queues that start again
  let s := s.mapCtl fun x => (List.range 64).foldl (fun (x : Ctl) n =>
    if grpWrote wrote n then
      let job := [c.fld (Addr.collGrpA n) 0 16, d.fld (Addr.collGrpA n) 0 16]
      let l := if x.bit (Addr.collGrpA n) 16 then x.grpList s.mem n else []
      let crc := crc32c (BitVec.allOnes 32) (l.flatMap fun v => leBytes 2 v.toNat)
      let y := x.coll.renew (· == n) fun k => k.group.toNat == n && job.contains k.job.toNat
      { x with coll := { y with lists := KMap.set [] y.lists n l } }.setFld (Addr.collGrpC n) 0 32 crc.toNat
    else x) x
  let s := s.mapCtl fun x => (List.range 16).foldl (fun (x : Ctl) j =>
    let lo := Addr.collJobLo j
    let job := [c.fld lo 0 16, d.fld lo 0 16]
    -- an entry committed again as it stands keeps its queues while an operation of its job is open (log 116)
    if c.fld lo 0 18 ≠ d.fld lo 0 18 ∨ ((wrote lo || wrote (Addr.collJobHi j)) && !c.coll.ops.any fun o => job.contains o.key.job.toNat) then
      let y := x.coll.renew (fun q => decide (64 + 32 * j ≤ q) && decide (q < 96 + 32 * j)) fun k =>
        !d.bit lo 17 && job.contains k.job.toNat
      { x with coll := y }
    else x) x
  -- the wait ledger of a job starts again with record 0 (R389)
  let s := s.mapColl fun y => { y with ledgerN := y.ledgerN.filter fun e =>
    !(decide (e.1 < 16) && (wrote (Addr.collJobLo e.1) || wrote (Addr.collJobHi e.1))) }
  let s := (List.finRange 16).foldl (fun (s : State) p => State.applyPort c s p) s
  let s := (List.finRange 8).foldl (fun (s : State) p => State.applyHost c s p) s
  if d.bit Addr.gcfg 0 && !c.bit Addr.gcfg 0 then
    (s.mapCtl fun x => { x with dev := { x.dev with bootStep := 9 }, sec := x.sec.endTrial }).openAdmission
  else s

/-! ### Where a commit takes effect (R433 to R435) -/

/-- The words of a commit whose owners `due` names take effect. A word of several islands does so with the last of them (log 45). -/
def State.applyPart (s : State) (m : Commit) (due : List Island → Bool) : State :=
  let d := s.ctl.withShadow m.txn.shadow
  let part := m.txn.shadow.filter fun e => due (owners s.ctl d e.1)
  if part.isEmpty then s else s.applyCommit { m.txn with shadow := part }

/-- A commit that has passed its commit point stands: what its islands have yet to apply takes effect (R434). -/
def State.commitStands (s : State) : State := match s.ctl.txn.running with
  | some m => if m.applying then (s.applyPart m fun o => o.any m.waiting.contains).commitDone m else s
  | none => s

/-! ### Warm reset (R512, R514) -/

/-- Warm reset: cores halt, HBM enters self-refresh, ports go dark, and BOOT restarts at step 3. -/
def State.warmReset (s : State) (cause : Nat) : State :=
  if s.ctl.mayReset then
    let maint := cause == 3 && s.ctl.bit Addr.gcfg 1
    let s := s.commitStands
    -- the open operations end, and each writes its wait ledger record (R385, R389)
    let s := s.ctl.coll.ops.foldl (fun (s : State) o => s.writeLedger o stABORTED_STALL) s
    let s := s.portsDark.dropRuns
    let s := { s with cores := s.cores.map Core.warm }
    ({ s with ctl := s.warmCtl }).enterBoot .warm cause maint
  else s

/-- WATCHDOG_EXPIRY (R512). -/
def execWatchdogExpiry (s : State) : Host.Outcome State Fault Refusal := .next (s.warmReset 4)

end Sys2Proof.Machine
end

