-- ==== Sys2Proof/Machine/Lockstep.lean ====
section
/-! DEFINITION. The Guide's two cores in lockstep (01 R23, 18 R467, 02 R31). -/
namespace Sys2Proof.Machine

/-! ### The Guide's lockstep (R23, R467) -/

/-- LOCKSTEP record: outcome, failed core, LOCKSTEP_TRANSIENTS. -/
def State.lockstepRecord (s : State) (outcome core : Nat) : State :=
  s.mapCtl fun c => c.record (c.cairn 4 .guide core (if outcome = 1 then 5 else if outcome = 3 then 7 else 1)
    ([BitVec.ofNat 8 outcome, BitVec.ofNat 8 core, 0, 0] ++ leBytes 4 (c.fld Addr.relCnt 0 16)))

/-- GUIDE_LOCKSTEP_MISMATCH: both cores halt and run self-test. -/
def execGuideLockstepMismatch (s : State) : Host.Outcome State Fault Refusal :=
  .next (
    if s.ctl.powered && s.ctl.dev.guideA && s.ctl.dev.guideB then
      s.mapCtl fun c => { c with dev := { c.dev with halted := true } }
    else s)

/-- What fell due while the Guide was halted (R31): the journal writes that were confirmed. -/
def State.answerOwed (s : State) : State :=
  let ks := s.ctl.jnl.owedAcks
  ks.foldl (fun (s : State) k => s.journalConfirm k) (s.mapJnl fun j => { j with owedAcks := [] })

/-- GUIDE_SELF_TEST_DONE: resume after a transient, continue on one core, or SAFE. A Guide that resumes answers what fell due. -/
def execGuideSelfTestDone (passA passB : Bool) (s : State) : Host.Outcome State Fault Refusal :=
  .next (
    if s.ctl.dev.halted then
      let s := s.mapCtl fun c => { c with dev := { c.dev with halted := false, guideA := passA, guideB := passB } }
      match passA, passB with
      | true, true => ((s.commitStands.mapCtl fun c => (c.bump Addr.relCnt 0 16 1).abandonCommit).lockstepRecord 2 0).answerOwed
      | true, false => ((s.lockstepRecord 1 1).unitLeft .guide 1 0).answerOwed
      | false, true => ((s.lockstepRecord 1 0).unitLeft .guide 0 0).answerOwed
      | false, false => (s.lockstepRecord 3 0).enterSafe 1
    else s)

/-- GUIDE_CORE_FAIL (R23, R25): the remaining Guide core fails. -/
def execGuideCoreFail (s : State) : Host.Outcome State Fault Refusal :=
  .next (
    if s.ctl.powered && (s.ctl.dev.guideA != s.ctl.dev.guideB) then
      (s.mapCtl fun c => { c with dev := { c.dev with guideA := false, guideB := false } }).enterSafe 1
    else s)

end Sys2Proof.Machine
end

