-- ==== Sys2Proof/Machine/Sync.lean ====
section
/-! DEFINITION. sync: semaphores, fences, waits and replay points (08 R232 to R234; 07 R185 to R190, R211), with the events
that release a wait. A wait that already holds passes at issue; one that does not stalls the scalar unit. -/
namespace Sys2Proof.Machine

/-- `sync.wait`. -/
def execSyncWait (c : CoreId) (w : GWord) (s : State) : Host.Outcome State Fault Refusal :=
  .next (s.issue c w (scalarSig w && zeroAt w 16 22 && kOf w != 0) fun k =>
    if k.mayTake (semOf w) (kOf w) k.iseq then .ok (s.setCore c (k.takeCount (semOf w) (kOf w)))
    else .ok (s.setCore c { k with stall := some (.semWait (semOf w) (kOf w) k.iseq) }))

/-- The queue that `sync.qwait` names; 6 and 7 are reserved. -/
def queueOf (w : GWord) : Option QueueId := allQueues[(fld w 35 3).toNat]?

/-- `sync.qwait`: a wait entry in the queue. -/
def execSyncQwait (c : CoreId) (w : GWord) (s : State) : Host.Outcome State Fault Refusal :=
  .next (s.enqueueOne c w (zeroAt w 16 19 && kOf w != 0 && (queueOf w).isSome) ((queueOf w).getD .mac) .qwait)

/-- `sync.sset`: at its place in ISEQ order, once every signaller of the semaphore has completed (R186, R234). -/
def execSyncSset (c : CoreId) (w : GWord) (s : State) : Host.Outcome State Fault Refusal :=
  .next (s.issue c w (scalarSig w && zeroAt w 16 22) fun k =>
    if k.setWaits (semOf w) k.iseq then .ok (s.setCore c { k with stall := some (.sset (semOf w) (kOf w) k.iseq) })
    else .ok (s.setCore c (k.setSem (semOf w) (kOf w))))

/-- `sync.fence`. -/
def execSyncFence (c : CoreId) (w : GWord) (s : State) : Host.Outcome State Fault Refusal :=
  .next (s.issue c w (scalarSig w && zeroAt w 35 8 && zeroAt w 0 29 && fld w 29 6 != 0) fun k =>
    if k.fenceDone (fld w 29 6) then .ok (s.setCore c k)
    else .ok (s.setCore c { k with stall := some (.fence (fld w 29 6) k.iseq) }))

/-- `sync.mwait`: the counter word is checked at issue (R234). -/
def execSyncMwait (c : CoreId) (w : GWord) (s : State) : Host.Outcome State Fault Refusal :=
  .next (s.issue c w (scalarSig w && zeroAt w 29 14 && zeroAt w 0 19) fun k => do
    let a := (k.rg (fld w 24 5)).extractLsb' 0 48
    let v := k.rg (fld w 19 5)
    checkCounter (s.env k.job) a.toNat
    let r := (s.setCore c k).coreObsAll c (k.entry .chkSig (s.core c).pc w) none [] (s.ctl.badObs [(a.toNat, 8)])
    if r.2 then pure r.1
    else if v.toNat ≤ s.mem.readLe a.toNat 8 then pure r.1
    else pure (s.setCore c { k with stall := some (.mwait a v k.iseq) }))

/-- `sync.rpoint`: a full fence, then the record (RPOINT_RECORDED). -/
def execSyncRpoint (c : CoreId) (w : GWord) (s : State) : Host.Outcome State Fault Refusal :=
  .next (s.issue c w (scalarSig w && zeroAt w 29 14 && zeroAt w 0 24) fun k =>
    .ok (s.setCore c { k with stall := some (.rpoint ((k.rg (fld w 24 5)).extractLsb' 0 32) k.iseq) }))

/-- `sync.sinc`: a sum above 65,535 leaves the semaphore at 65,535 and raises the sync trap (R234). -/
def execSyncSinc (c : CoreId) (w : GWord) (s : State) : Host.Outcome State Fault Refusal :=
  .next (s.issue c w (scalarSig w && zeroAt w 16 22 && kOf w != 0) fun k =>
    let v := (k.sem[semOf w]).toNat + (kOf w).toNat
    if v ≤ 0xFFFF then .ok (s.setCore c (k.setSem (semOf w) (BitVec.ofNat 16 v)))
    else
      let k' := (k.setSem (semOf w) 0xFFFF).trap syncTrap 0 (s.core c).pc k.iseq
      .ok ((s.setCore c k').settle c))

/-! ### Releases -/

/-- A stalled `sync.wait` finds its count (R186). -/
def execSyncWaitRelease (c : CoreId) (s : State) : Host.Outcome State Fault Refusal :=
  let k := s.core c
  .next (match k.stall with
    | some (.semWait sem n iseq) =>
      if k.mayTake sem n iseq then s.setCore c { k.takeCount sem n with stall := none } else s
    | _ => s)

/-- The awaited signallers have completed and no earlier waiter is due (R186, R234). -/
def execSsetApply (c : CoreId) (s : State) : Host.Outcome State Fault Refusal :=
  let k := s.core c
  .next (match k.stall with
    | some (.sset sem v i) => if k.setWaits sem i then s else s.setCore c { k.setSem sem v with stall := none }
    | _ => s)

/-- Every instruction that a fence awaits has completed (R188). -/
def execFenceRelease (c : CoreId) (s : State) : Host.Outcome State Fault Refusal :=
  let k := s.core c
  .next (match k.stall with
    | some (.fence mask _) => if k.fenceDone mask then s.setCore c { k with stall := none } else s
    | _ => s)

/-- The counter word has reached its value (R189); one that reads bad ends the command (R289). -/
def execMwaitRelease (c : CoreId) (s : State) : Host.Outcome State Fault Refusal :=
  let k := s.core c
  .next (match k.stall with
    | some (.mwait a v _) =>
      let r := s.coreObsAll c (k.entry .chkSig (k.pc - 8) 0) none [] (s.ctl.badObs [(a.toNat, 8)])
      if r.2 then r.1
      else if v.toNat ≤ s.mem.readLe a.toNat 8 then s.setCore c { k with stall := none } else s
    | _ => s)

/-- The program counter of the instruction that stalls the scalar unit: the one before the next. -/
def Core.stallPc (k : Core) : BitVec 22 := k.pc - 8

/-- The replay point is in the journal (R211): it must exceed every number recorded for the logical index; a program of a
probe set belongs to no command, and nothing is recorded for it. -/
def execRpointRecorded (c : CoreId) (s : State) : Host.Outcome State Fault Refusal :=
  let k := s.core c
  .next (match k.stall, k.prog with
    | some (.rpoint n iseq), some p =>
      if k.drained = false then s
      else if p.probe.isSome then s.setCore c { k with stall := none }
      else
        let old := (s.cmd? p.key).bind fun m => m.rpoints.find? fun r => r.1 = p.logical
        if (match old with
            | some r => decide (n ≤ r.2)
            | none => false) then
          (s.setCore c (k.trap (dataTrap 0xE) 0 k.stallPc iseq)).settle c
        else
          let s := s.setCore c { k with stall := none }
          let s := s.updCmd p.key fun m =>
            { m with rpoints := (m.rpoints.filter fun r => r.1 ≠ p.logical) ++ [(p.logical, n)] }
          -- the earlier RPOINT record of the same command and index is freed at once (R284)
          (s.mapJnl fun j => j.free fun b => recOf p.key b && recPoint p.logical b).jnlWrite
            [{ kind := .rpoint, ncont := 0, key := p.key, job := p.job, status := 0, rpoint := n, lidx := p.logical, body := [] }]
    | _, _ => s)

end Sys2Proof.Machine
end

