-- ==== Sys2Proof/Machine/Queues.lean ====
section
/-! DEFINITION. The unit queues of a core (07 R181 to R190, R201): when an instruction may start, its checks at start, its
effect at completion, wait entries, wait limits, trap handler entry and background spills. With the start of a COLL
instruction (09 R263 to R271). -/
namespace Sys2Proof.Machine

/-! ### When an entry may start -/

/-- The weight buffer that a MAC entry names (R127). -/
def wbOf (e : QEntry) : Option Bool := match e.op with
  | .macWload => some (e.w.getLsbD 42)
  | .macStep => some (e.w.getLsbD 38)
  | _ => none

/-- A load and a step of different weight buffers overlap. -/
def macOverlap (a b : QEntry) : Bool := (a.op == .macWload) != (b.op == .macWload) &&
  (match wbOf a, wbOf b with
    | some x, some y => x != y
    | _, _ => false)

/-- ORD of a dma instruction (R228). -/
def ordOf (e : QEntry) : Bool := match e.op with
  | .dmaCopy | .dmaCopy2d | .dmaFill => e.w.getLsbD 34
  | _ => false

def isMove (e : QEntry) : Bool := match e.op with
  | .mtsr .. => true
  | _ => false

/-- The order of a queue lets an entry start after those before it. -/
def orderOk (q : QueueId) (before : List QEntry) (e : QEntry) : Bool :=
  match q with
  | .dma =>
    if ordOf e || isMove e then before.isEmpty
    else before.all (fun b => b.started && !isMove b && b.op != .qwait) && decide (before.length < 4)
  | .mac => before.all fun b => b.started && macOverlap b e
  | _ => before.isEmpty

/-- A step or list on a tile would spill it first (R137). -/
def wouldSpill (k : Core) (e : QEntry) : Bool := match e.op with
  | .macStep | .accSadd => (k.tile (tileOf (fld e.w 39 4))).mustSpill
  | .accSpill | .accDrain | .accFree | .accPreload => true
  | _ => false

/-- The tile scoreboard (R142) and the spill engine (R137) let an entry start. -/
def Core.tilesOk (k : Core) (e : QEntry) : Bool :=
  (entryTiles e).all fun n =>
    !(k.queues.any fun q => q.any fun b => decide (b.iseq < e.iseq) &&
        tilesClash k b n) && !(wouldSpill k e && k.spills.any fun j => j.tile == n)

/-- The codebook slot that an entry reads or writes (R93). -/
def slotOf (e : QEntry) : Option (BitVec 3) := match e.op with
  | .macWload => if (e.rd (fld e.w 38 4)).fmt = 9 then some (fld e.w 35 3) else none
  | .macStep => if (e.rd (fld e.w 19 4)).fmt = 9 then some (fld e.w 16 3) else none
  | .accDrain => if fld e.w 32 3 = 6 then some (fld e.w 24 3) else none
  | .qntEncode => some (fld e.w 28 3)
  | .qntCbload => some (fld e.w 40 3)
  | .qntAdapt => some (fld e.w 25 3)
  | _ => none

/-- An instruction that writes its codebook slot (R113, R260). -/
def slotWrite (e : QEntry) : Bool := e.op == .qntCbload || e.op == .qntAdapt

/-- The codebook slot rule (R93, R113): a writer of a slot waits for every earlier user of it, and every user for an earlier
writer. -/
def Core.slotOk (k : Core) (e : QEntry) : Bool :=
  match slotOf e with
  | none => true
  | some n => !(k.queues.any fun q => q.any fun b =>
      decide (b.iseq < e.iseq) && slotOf b == some n && (slotWrite e || slotWrite b))

def codesDrain (e : QEntry) : Bool := e.op == .accDrain && fld e.w 32 3 == 6

/-- Encodes and CODES drains add to the QNT statistics in ISEQ order (R250). -/
def Core.statsOk (k : Core) (e : QEntry) : Bool :=
  let earlier (p : QEntry → Bool) : Bool := k.queues.any fun q => q.any fun b => decide (b.iseq < e.iseq) && p b
  if codesDrain e then !earlier (fun b => b.op == .qntEncode)
  else if e.op = .qntEncode then !earlier codesDrain
  else true

/-- Splits a queue at its first entry that has not started. -/
def splitStarted : List QEntry → List QEntry × List QEntry
  | [] => ([], [])
  | e :: es => if e.started then let (a, b) := splitStarted es; (e :: a, b) else ([], e :: es)

/-- The entry that may start next in a queue. -/
def Core.nextStart (k : Core) (q : QueueId) : Option QEntry :=
  match splitStarted (k.queue q) with
  | (a, e :: _) =>
    if e.op ≠ .qwait ∧ orderOk q a e = true ∧ k.tilesOk e = true ∧ k.slotOk e = true ∧ k.statsOk e = true then some e else none
  | _ => none

/-- Changes or removes the entry with an ISEQ. -/
def Core.updEntry (k : Core) (q : QueueId) (i : BitVec 48) (f : QEntry → QEntry) : Core :=
  k.setQueue q ((k.queue q).map fun e => if e.iseq = i then f e else e)
def Core.dropEntry (k : Core) (q : QueueId) (i : BitVec 48) : Core := k.setQueue q ((k.queue q).filter fun e => e.iseq ≠ i)

/-- An instruction of a queue traps: it leaves the queue and writes nothing (R201). -/
def State.trapEntry (s : State) (c : CoreId) (q : QueueId) (e : QEntry) (t : TrapC) : State :=
  (s.setCore c (((s.core c).dropEntry q e.iseq).trap t (qUnit q) e.pc e.iseq)).afterEntry c

/-! ### Effects -/

/-- Device ranges of a stream. -/
def Desc.devRanges (d : Desc) : List (Nat × Nat) := if d.space = 1 then d.ranges else []

/-- The device ranges that a transfer of `dma.copy2d` reads and writes. -/
def rowRanges (d : Desc) (stride rows : Nat) : List (Nat × Nat) :=
  if d.space = 1 then (rowsAt d stride rows).map fun a => (a, d.count * fmtSize d.fmt) else []

/-- The ledge ranges that a chain reads and writes: its inputs and mask, and its outputs where it writes every element of them. -/
def chainReads (e : QEntry) : List (Nat × Nat) :=
  let ch := parseChain e.chain
  ch.ins.flatMap (fun i => ledgeRanges (e.rd i.desc)) ++ (if ch.msrc = 1 then ledgeRanges (e.rd ch.mdesc) else [])
def chainWrites (e : QEntry) : List (Nat × Nat) :=
  let ch := parseChain e.chain
  (if (ch.msrc = 0 ∧ ch.minv = false) ∨ ch.mzero then
    (ch.outs.filter fun o => (e.rd o.desc).fmt != fmtSADD).flatMap fun o => ledgeRanges (e.rd o.desc) else []) ++
  (if ch.red then ledgeRanges (e.rd ch.rdesc) else [])

/-- The ledge ranges that an entry reads. -/
def QEntry.ledgeReads (e : QEntry) (k : Core) : List (Nat × Nat) :=
  let w := e.w
  let ledge (n : BitVec 4) : List (Nat × Nat) := ledgeRanges (e.rd n)
  match e.op with
  | .macWload => ledge (fld w 38 4)
  | .macStep => ledge (fld w 19 4)
  | .accPreload => if fld w 37 2 = 0 then [] else ledge (fld w 32 4)
  | .accSadd => ledge (fld w 35 4)
  | .accDrain =>
    let t := k.tile (tileOf (fld w 39 4))
    if t.mode = .standard ∧ t.spillBase = false ∧ t.spilled = true then [(t.spillAddr.toNat, 0x20000)] else []
  | .vecChain => chainReads e
  | .qntEncode => ledge (fld w 39 4) ++ (if w.getLsbD 26 then ledge (fld w 31 4) else [])
  | .qntCbload => [(e.ledgeOff (fld w 35 5), 288)]
  | .qntAdapt => [(e.ledgeOff (fld w 38 5), 96), (e.ledgeOff (fld w 33 5), 48)]
  | .dmaCopy | .chkSig => ledge (fld w 39 4)
  | .dmaCopy2d =>
    let d := e.rd (fld w 39 4)
    if d.space = 0 then (rowsAt d (e.devAddr (fld w 11 5)) (e.rg (fld w 16 5)).toNat).map fun a => (a, d.count * fmtSize d.fmt)
    else []
  | _ => []

/-- The ledge ranges that an entry writes whole. -/
def QEntry.ledgeWrites (e : QEntry) : List (Nat × Nat) :=
  let w := e.w
  let d := e.rd (fld w 35 4)
  match e.op with
  | .accDrain | .qntEncode | .dmaCopy | .dmaFill => ledgeRanges d
  | .dmaCopy2d =>
    if d.space = 0 then (rowsAt d (e.devAddr (fld w 6 5)) (e.rg (fld w 16 5)).toNat).map fun a => (a, d.count * fmtSize d.fmt)
    else []
  | .vecChain => chainWrites e
  | .qntAdapt => [(e.ledgeOff (fld w 38 5), 96), (e.ledgeOff (fld w 28 5) + 4, 4)]
  | .qntSdump => [(e.ledgeOff (fld w 38 5), 48)]
  | _ => []

/-- The ranges of counter words, adds and sources: what an operation reads of device memory (R281, R288). A spill area in Base Camp is
read by a drain. -/
def QEntry.devReads (e : QEntry) (k : Core) (v : Env) : List (Nat × Nat) :=
  let word (o : Option Nat) : List (Nat × Nat) := match o with
    | some a => [(a, 8)]
    | none => []
  let into (rs : List (Nat × Nat)) : List (Nat × Nat) := if addsInto v (e.rd (fld e.w 35 4)) rs then rs else []
  match e.op with
  | .dmaCopy => (e.rd (fld e.w 39 4)).devRanges ++ into (e.rd (fld e.w 35 4)).devRanges ++ word (counterOf e (fld e.w 29 5))
  | .dmaCopy2d =>
    let rows := (e.rg (fld e.w 16 5)).toNat
    rowRanges (e.rd (fld e.w 39 4)) (e.devAddr (fld e.w 11 5)) rows ++
      into (rowRanges (e.rd (fld e.w 35 4)) (e.devAddr (fld e.w 6 5)) rows) ++ word (counterOf e (fld e.w 29 5))
  | .dmaFill => word (counterOf e (fld e.w 29 5))
  | .chkSig => (e.rd (fld e.w 39 4)).devRanges
  | .accDrain =>
    let t := k.tile (tileOf (fld e.w 39 4))
    if t.mode = .standard ∧ t.spillBase = true ∧ t.spilled = true then [(t.spillAddr.toNat, 0x20000)] else []
  | .collSend | .collRecv | .collXchg =>
    let d := leField (v.mem.readBytes (e.devAddr (fld e.w 38 5)) 64) 0 1
    (if d % 16 ≠ 7 ∧ e.op ≠ .collRecv then (e.rd (fld e.w 34 4)).devRanges else []) ++
      [(e.devAddr (fld e.w 38 5), 64)] ++ word (counterOf e (fld e.w 20 5))
  | _ => []

/-- The device ranges that it writes, but by an atomic add. -/
def QEntry.devWrites (e : QEntry) (v : Env) : List (Nat × Nat) :=
  let d := e.rd (fld e.w 35 4)
  let plain (rs : List (Nat × Nat)) : List (Nat × Nat) := if addsInto v d rs then [] else rs
  match e.op with
  | .dmaCopy => plain d.devRanges
  | .dmaCopy2d => plain (rowRanges d (e.devAddr (fld e.w 6 5)) (e.rg (fld e.w 16 5)).toNat)
  | .dmaFill => d.devRanges
  | .collRecv | .collXchg =>
    if leField (v.mem.readBytes (e.devAddr (fld e.w 38 5)) 64) 0 1 % 16 ≠ 7 then (e.rd (fld e.w 30 4)).devRanges else []
  | _ => []

/-- The result of a transfer goes into the state. -/
def State.putDma (s : State) (c : CoreId) (r : DmaRes) : State :=
  ({ s with mem := r.mem }.setCore c r.core).mapCtl fun x => x.setConds r.conds

/-- A write of a special register that a queue carries: an FPCTL entry sets what its queue sees, and the register itself with
the last of the six (R222). -/
def Core.moveEntry (k : Core) (q : QueueId) (e : QEntry) (idx : BitVec 8) (v : Word) : Core :=
  if idx = 0x0D then
    let i := qIdx q
    let k' := { k with fpq := k.fpq.set i (rmodeWrite k.fpq[i] v) }
    if allQueues.any fun p => p != q && (k.queue p).any fun b => b.iseq == e.iseq then k' else k'.mtsr idx v
  else k.mtsr idx v

/-- The start of an entry of the queues but COLL: what it would do, or the trap its checks raise. -/
def State.run (s : State) (c : CoreId) (q : QueueId) (e : QEntry) : Except TrapC State :=
  let k := s.core c
  let v := s.env k.job
  let put (x : Except TrapC Core) : Except TrapC State := x.map (s.setCore c)
  let dma (x : Except TrapC DmaRes) : Except TrapC State := x.map (s.putDma c)
  match e.op with
  | .macWload => put (effWload k v e)
  | .macStep => put (effStep k v e)
  | .accPreload => put (effPreload k v e)
  | .accSadd => put (effSadd k v e)
  | .accSpill => put (effSpill k e)
  | .accDrain => put (effDrain k v e)
  | .accFree => put (effFree k e)
  | .vecChain => put (effChain k v e)
  | .qntEncode => put (effEncode k v e)
  | .qntCbload => put (effCbload k e)
  | .qntAdapt => put (effAdapt k e)
  | .qntSdump => put (effSdump k e)
  | .dmaCopy => dma (effCopy k v e)
  | .dmaCopy2d => dma (effCopy2d k v e)
  | .dmaFill => dma (effFill k v e)
  | .chkSig => dma (effSig k v e)
  | .mtsr idx x => .ok (s.setCore c (k.moveEntry q e idx x))
  | .collSend | .collRecv | .collXchg | .qwait => .ok s

/-- The effect of an entry that has passed its start checks, but for ledge words that read bad. -/
def State.effect (s : State) (c : CoreId) (q : QueueId) (e : QEntry) : State :=
  let k := s.core c
  let v := s.env k.job
  match e.op with
  | .macWload => s.setCore c (doWload k e)
  | .macStep => s.setCore c (doStep k e)
  | .accPreload => s.setCore c (doPreload k e)
  | .accSadd => s.setCore c (doSadd k e)
  | .accSpill => s.setCore c (doSpill k e)
  | .accDrain => s.setCore c (doDrain k v e)
  | .accFree => s.setCore c (doFree k e)
  | .vecChain => s.setCore c (doChain k e)
  | .qntEncode => s.setCore c (doEncode k e)
  | .qntCbload => s.setCore c (doCbload k e)
  | .qntAdapt => s.setCore c (doAdapt k e)
  | .qntSdump => s.setCore c (doSdump k e)
  | .dmaCopy => (s.putDma c (doCopy k v e)).wrote (e.devWrites v)
  | .dmaCopy2d => (s.putDma c (doCopy2d k v e)).wrote (e.devWrites v)
  | .dmaFill => (s.putDma c (doFill k v e)).wrote (e.devWrites v)
  | .chkSig => s.putDma c (doSig k v e)
  | .mtsr idx x => s.setCore c (k.moveEntry q e idx x)
  | .collSend | .collRecv | .collXchg | .qwait => s

/-- What an entry that has passed its start checks does (R231: the checks are made at start only). -/
def State.perform (s : State) (c : CoreId) (q : QueueId) (e : QEntry) : State :=
  let t := s.effect c q e
  t.setCore c ((t.core c).wroteLedge e.ledgeWrites)

/-- The injection that an entry takes as it starts (R236): its KIND. -/
def injKind (e : QEntry) : Option (Fin 4) := match e.op with
  | .macStep => some 0
  | .accDrain => some 1
  | .dmaCopy | .dmaCopy2d | .dmaFill | .chkSig => some 3
  | _ => none

/-- Marks an entry as started, with the armed injection of its kind and what it reads at its start. -/
def Core.markStarted (k : Core) (q : QueueId) (e : QEntry) : Core :=
  match injKind e with
  | some i => { k with armed := k.armed.set i 0 }.updEntry q e.iseq fun x => { x with started := true, inj := k.armed[i] }
  | none => k.updEntry q e.iseq fun x => { x with started := true, data := e.atStart k }

/-- An entry has completed: it leaves its queue and signals its semaphore (R185); an FPCTL write signals once, with the last of
its six entries. -/
def State.leaveQueue (s : State) (c : CoreId) (q : QueueId) (e : QEntry) : State :=
  let k := (s.core c).dropEntry q e.iseq
  let last := !(isMove e) || !(k.queues.any fun p => p.any fun b => b.iseq == e.iseq)
  (s.setCore c (if last then k.signalIf e.w (qUnit q) e.pc e.iseq else k)).afterEntry c

/-! ### COLL at start (R263 to R271) -/

/-- What a COLL instruction finds at start. -/
inductive CollStart where
  | waits
  | opens (o : GroupOp) (slowed : Bool)
  | attach (k : OpKey)
  | ended (p : PastOp)

/-- The role of R265: 1 send, 2 receive, 3 both. -/
def collRole (opc : Nat) (isRoot : Bool) : Nat :=
  match opc with
  | 1 => if isRoot then 3 else 1
  | 4 => if isRoot then 1 else 2
  | _ => 3
def opRole : QOp → Nat
  | .collSend => 1
  | .collRecv => 2
  | _ => 3

/-- DHASH (R267) of a descriptor's bytes. -/
def dhashOf (d : List Byte) (seq : Nat) (scaleCrc : Nat) : BitVec 32 :=
  crc32c (BitVec.allOnes 32)
    (d.take 2 ++ (d.drop 2).take 2 ++ (d.drop 4).take 4 ++ (d.drop 8).take 4 ++ (d.drop 12).take 4 ++ leBytes 4 seq ++
      leBytes 4 scaleCrc ++ (d.drop 0x1C).take 2 ++ [0, 0] ++ (d.drop 0x10).take 8 ++ (d.drop 0x18).take 4)

/-- COUNT of the source and of the destination by R265. -/
def srcCount (opc G c : Nat) : Nat := if opc = 6 then G * c else c
def dstCount (opc G c cap : Nat) : Nat := match opc with
  | 2 => c / G
  | 5 => G * c
  | 6 => G * cap
  | _ => c

/-- The start checks of a COLL instruction. -/
def State.collCheck (s : State) (c : CoreId) (e : QEntry) : Except TrapC CollStart := do
  let k := s.core c
  let v := s.env k.job
  let a := e.devAddr (fld e.w 38 5)
  let dsn := fld e.w 34 4
  let ddn := fld e.w 30 4
  let seq : BitVec 32 := (e.rg (fld e.w 25 5)).extractLsb' 0 32
  need (a % 64 == 0) (dataTrap 0x3)
  need (v.user a 64) (dataTrap 0x2)
  let d := s.mem.readBytes a 64
  let f (off n : Nat) : Nat := leField d off n
  let opc := f 0 1 % 16
  let dtype := f 0 1 / 16
  let n := f 4 4
  need (decide (1 ≤ opc ∧ opc ≤ 7) && f 1 1 == 0 && f 0x1E 2 == 0 && f 0x38 8 == 0) (dataTrap 0x1)
  need (if opc ≤ 3 then dtype == 1 || dtype == 2 else dtype == 0) (dataTrap 0x1)
  need ((opc == 1 || opc == 4 || f 8 4 == 0) && (opc == 6 || (f 0xC 4 == 0 && f 0x28 8 == 0)) &&
    (dtype == 2 || f 0x1C 2 == 0) && (dtype == 1 || f 0x20 8 == 0)) (dataTrap 0x1)
  need (decide (f 0x20 8 < 2 ^ 48 ∧ f 0x28 8 < 2 ^ 48 ∧ f 0x30 8 < 2 ^ 48)) (dataTrap 0x2)
  let grp : BitVec 16 := BitVec.ofNat 16 (f 2 2)
  match s.ctl.group k.job grp with
  | none => .error (dataTrap 0x2)
  | some g => do
    let G := g.size
    let root := f 8 4
    need (decide (root < G) && (opc != 6 || decide (G ≤ 64))) (dataTrap 0x1)
    need (opRole e.op == collRole opc (g.rank == root)) (dataTrap 0x1)
    need (if opc = 7 then n == 0 else n != 0 && (opc != 2 || n % (32 * G) == 0)) (dataTrap 0x4)
    let role := opRole e.op
    let src := if opc ≠ 7 ∧ role ≠ 2 then some (e.rd dsn) else none
    let dst := if opc ≠ 7 ∧ role ≠ 1 then some (e.rd ddn) else none
    let sp : Spaces := ⟨false, true, false⟩
    match src with
      | some x => do
        need (if dtype = 1 then x.fmt == 1 || x.fmt == 2 || x.fmt == 4 else dtype == 0 || x.fmt == 15) (descTrap 0x1 dsn)
        checkStream k v sp .source dsn x
        need (x.count == srcCount opc G n) (descTrap 0x4 dsn)
      | none => pure ()
    match dst with
      | some x => do
        need (if dtype = 1 then x.fmt == 1 || x.fmt == 4 else dtype == 0 || x.fmt == 15) (descTrap 0x1 ddn)
        checkStream k v sp .result ddn x
        need (x.count == dstCount opc G n (f 0xC 4)) (descTrap 0x4 ddn)
      | none => pure ()
    match src, dst with
      | some x, some y => do
        need (dtype != 0 || (x.fmt == y.fmt && x.sw == y.sw && x.sideCap == y.sideCap)) (descTrap 0x1 ddn)
        need (!anyOverlap x.ranges y.ranges || (x.ranges == y.ranges && x.fmt == y.fmt && x.count == y.count)) (descTrap 0x9 ddn)
      | _, _ => pure ()
    need (dtype != 1 || v.granted (f 0x20 8) ((n + 31) / 32)) (dataTrap 0x2)
    need (opc != 6 || v.granted (f 0x28 8) (8 * G)) (dataTrap 0x2)
    need (v.granted (f 0x30 8) 32) (dataTrap 0x2)
    need (f 0x30 8 % 8 == 0) (dataTrap 0x3)
    needCounter v (counterOf e (fld e.w 20 5))
    let lens := if opc = 6 then (List.range G).map fun i => s.mem.readLe (f 0x28 8 + 4 * i) 4 else []
    need (lens.all fun l => decide (l ≤ n)) (dataTrap 0x1)
    let key : OpKey := ⟨grp, BitVec.ofNat 16 k.job, seq⟩
    match k.prog with
    | none => .error (dataTrap 0x1)
    | some p =>
      -- what ended before NEXT_SEQ came round to a number of the window is past (R360)
      let inWindow := decide ((seq - s.ctl.coll.next g).toNat < 4)
      match s.op? key, if inWindow then none else s.ctl.coll.past? key with
      | some o, _ => if o.cmd = p.key ∧ o.logical = p.logical ∧ o.core = none then .ok (.attach key) else .error (dataTrap 0x1)
      | none, some o =>
        if o.cmd = p.key ∧ o.logical = p.logical ∧ o.core = none then .ok (.ended o) else .error (dataTrap 0x1)
      | none, none => do
        need inWindow (dataTrap 0x1)
        -- a command whose end is decided opens no further operation (R384, R407)
        if 256 ≤ s.ctl.coll.ops.length ∨ (s.cmd? p.key).any (·.doom.isSome) = true then pure .waits
        else
          let scales := if dtype = 1 then s.mem.readBytes (f 0x20 8) ((n + 31) / 32) else []
          let crc := if dtype = 1 then (crc32c (BitVec.allOnes 32) scales).toNat else 0
          let slowed := s.cmdSlowed p.key
          let o : GroupOp :=
            { key := key, grp := g, cmd := p.key, logical := p.logical, core := some c, phase := e.phase, opc := opc, dtype := dtype
              count := n, root := root, cap := f 0xC 4, seed := BitVec.ofNat 64 (f 0x10 8), stream := BitVec.ofNat 32 (f 0x18 4)
              anchor := BitVec.ofNat 16 (f 0x1C 2), scales := scales, lens := lens, lensAt := f 0x28 8, doneAt := f 0x30 8
              counter := counterOf e (fld e.w 20 5), cinc := (fld e.w 12 8).toNat
              dhash := dhashOf d seq.toNat crc, src := src, dst := dst, station := none, attempt := 0, retries := 0
              openAt := s.ctl.dev.uptime, opens := [], outq := [], pidxOut := [], pidxIn := [], sent := 0, passed := [], written := []
              rlens := [], ready := [], readySent := false, nsat := 0, ndrop := 0, probed := [], lastWait := none, charged := []
              waitNs := 0, leaving := none, told := false, spans := [], decided := none }
          -- without a route from a data predecessor: the station of port M0 (DESIGN CHOICE, log 118)
          pure (.opens { o with station := some ((o.dataFrom.head?.bind fun r => s.ctl.stationFor (s.ctl.devOf g r)).getD 0) } slowed)

/-- A COLL instruction starts: it opens its operation, attaches to it after a restart, completes at once where it has ended
(R385), or waits for a place among the 256. -/
def State.collStart (s : State) (c : CoreId) (e : QEntry) : Except TrapC State := do
  let r ← s.collCheck c e
  let s' := s.setCore c ((s.core c).markStarted .coll e)
  match r with
  | .waits => pure s
  | .opens o slowed =>
    pure ((s'.clearSlowed o.cmd).openOp o (openReason slowed))
  | .attach k => pure (s'.updOp k fun o => { o with core := some c })
  | .ended p =>
    let s := (s.store (s.mem.writeBytes p.doneAt p.rec_) [(p.doneAt, p.rec_.length)]).mapColl fun x =>
      { x with past := x.past.map fun (y : PastOp) => if y.key = p.key then { y with core := some c } else y }
    let s := s.leaveQueue c .coll e
    pure (if p.status = stOK then s else s.endCmd p.cmd p.status)

/-- Completion of a COLL instruction whose operation has ended (R268, R270): the operation's end has written the record and added
CINC. -/
def State.collComplete (s : State) (c : CoreId) (e : QEntry) : State :=
  match s.ctl.coll.past.find? fun o => o.core = some c ∧ o.waiting with
  | none => s
  | some p =>
    let s := s.mapColl fun x => { x with past := x.past.map fun o => if o.key = p.key then { o with waiting := false } else o }
    let s := s.leaveQueue c .coll e
    if p.status = stOK then s else s.endCmd p.cmd p.status

/-! ### The commands -/

/-- Starts an entry: its checks, and the trap of one that fails. -/
def State.startEntry (s : State) (c : CoreId) (q : QueueId) (e : QEntry) : State :=
  match q with
  | .coll =>
    if isMove e then s.setCore c ((s.core c).markStarted q e)
    else match s.collStart c e with
      | .ok t => t
      | .error t => s.trapEntry c q e t
  | _ => match s.run c q e with
    | .ok _ =>
      let v := s.env (s.core c).job
      let s := s.setCore c ((s.core c).markStarted q e)
      if q = .dma then s.mapCtl fun x => x.startFlow c e.iseq (e.devReads (s.core c) v ++ e.devWrites v) else s
    | .error t => s.trapEntry c q e t

/-- A queued instruction starts (R182). -/
def execQueueStart (c : CoreId) (q : QueueId) (s : State) : Host.Outcome State Fault Refusal :=
  .next (match (s.core c).nextStart q with
    | some e => s.startEntry c q e
    | none => s)

/-- Completes a started entry: its effect, and its signal. -/
def State.completeEntry (s : State) (c : CoreId) (q : QueueId) (e : QEntry) : State := (s.perform c q e).leaveQueue c q e

/-- A started instruction completes (R185): what its checks of parity and residue met comes first (R151, R288, R289, R301); an
observation that ends its operation removes it. A COLL instruction leaves its queue when its group operation has ended. -/
def execQueueComplete (c : CoreId) (q : QueueId) (n : Nat) (obs : List FaultObs) (repl : Option CoreId) (s : State) :
    Host.Outcome State Fault Refusal :=
  .next (match ((s.core c).queue q)[n]? with
    | none => s
    | some e =>
      let v := s.env (s.core c).job
      let reads := e.devReads (s.core c) v
      let rs := reads ++ e.devWrites v
      let obs := s.ctl.badObs reads ++ (s.core c).badLedgeObs (e.ledgeReads (s.core c)) ++ obs
      if e.started = false then s
      else if q = .coll ∧ isMove e = false then
        match s.coreObsAll c e repl rs obs with
        | (t, true) => t
        | (t, false) => t.collComplete c e
      else
        let (s1, stop) := s.coreInject c e repl (((injKind e).map Fin.val).getD 0) e.inj
        let (s2, stop) := if stop then (s1, true) else s1.coreObsAll c e repl rs obs
        if stop then (s2.setCore c ((s2.core c).dropEntry q e.iseq)).afterEntry c
        else s2.completeEntry c q e)

/-- The wait entry at the head of a queue consumes its count (R186). -/
def execQwaitConsume (c : CoreId) (q : QueueId) (s : State) : Host.Outcome State Fault Refusal :=
  let k := s.core c
  .next (match k.headWait q with
    | none => s
    | some e =>
      if k.mayTake (semOf e.w) (kOf e.w) e.iseq then
        (s.setCore c (k.takeCount (semOf e.w) (kOf e.w))).leaveQueue c q e
      else s)

/-- The ISEQ of a stall that WAIT_LIMIT measures (R190, R222, R232). -/
def Stall.limited : Stall → Option (BitVec 48)
  | .semWait _ _ i => some i
  | .sset _ _ i => some i
  | .fence _ i => some i
  | .mwait _ _ i => some i
  | .tileRead _ _ i => some i
  | _ => none

/-- A wait passes WAIT_LIMIT and raises the sync trap (R190). -/
def execWaitLimitExpiry (c : CoreId) (p : WaitPlace) (s : State) : Host.Outcome State Fault Refusal :=
  let k := s.core c
  .next (match p with
    | .scalar => match k.stall.bind Stall.limited with
      | some i => (s.setCore c (k.trap syncTrap 0 k.stallPc i)).settle c
      | none => s
    | .queue q => match k.headWait q with
      | some e => s.trapEntry c q e syncTrap
      | none => s)

/-- Step 5 of R201: the trap handler starts once no instruction is left to complete. -/
def execTrapHandlerEntry (c : CoreId) (s : State) : Host.Outcome State Fault Refusal :=
  .next (s.setCore c (s.core c).enterHandler)

/-- A spill addition as an entry that checks of parity and residue see: the instruction that triggered it. -/
def SpillJob.entry (j : SpillJob) (k : Core) : QEntry := { k.entry j.op 0 0 with iseq := j.iseq }

/-- The background addition of the first waiting spill is done (R137), after what its checks met (R150, R151, R288); one that
ends the operation leaves the spill area as it was. -/
def execSpillBackgroundDone (d : SpillDone) (s : State) : Host.Outcome State Fault Refusal :=
  let c := d.core
  .next (match (s.core c).spills with
    | [] => s
    | j :: _ =>
      let t := (s.core c).tile j.tile
      let rs := if t.spillBase then [(t.spillAddr.toNat, 0x20000)] else []
      let own := if t.spillBase then [] else [(t.spillAddr.toNat, 0x20000)]
      let bad := if t.spilled then s.ctl.badObs rs ++ (s.core c).badLedgeObs own else []
      match s.coreObsAll c (j.entry (s.core c)) d.repl rs (bad ++ d.obs) with
      | (t, true) => (t.setCore c { t.core c with spills := (t.core c).spills.drop 1 }).settle c
      | (t, false) =>
        let r := spillBackground (t.core c) t.mem
        (({ t with mem := r.2 }.setCore c (r.1.wroteLedge own)).wrote (if ((t.core c).tile j.tile).spilled then [] else rs)).settle c)

end Sys2Proof.Machine
end

