-- ==== Sys2Proof/Machine/Scalar.lean ====
section
/-! DEFINITION. mem: scalar access to the ledge and to the stream descriptors (08 R225 to R227). -/
namespace Sys2Proof.Machine

/-- Operand fields of R225. -/
def memRt (w : GWord) : BitVec 5 := fld w 38 5
def memDn (w : GWord) : BitVec 4 := fld w 38 4
/-- Bytes of a data access. -/
def memSize (w : GWord) : Nat := 2 ^ (fld w 31 2).toNat
/-- EA := (RA + sext (OFF)) mod 2^64. -/
def memEa (k : Core) (w : GWord) : Nat := (k.rg (fld w 33 5) + (fld w 0 24).signExtend 64).toNat

/-- Range (0x0002) and alignment (0x0003) of an access of n bytes (R227); DESC is the descriptor register that the instruction
names, 0xF for none (log 32). -/
def memCheck (ea n : Nat) (desc : BitVec 4) : Except TrapC Unit := do
  need (decide (ea + n ≤ ledgeSize)) (descTrap 0x2 desc)
  need (ea % n == 0) (descTrap 0x3 desc)

/-- Bits [30:24] are reserved. -/
def memLegal (w : GWord) : Bool := zeroAt w 24 7

/-- A load: its checks, the parity checks of the word (an injected fault of KIND 2 and the real ones), then RT. -/
def State.load (s : State) (c : CoreId) (w : GWord) (obs : List FaultObs) (repl : Option CoreId) (ext : Nat → Nat → Word) :
    State :=
  s.issue c w (scalarSig w && memLegal w) fun k => do
    let ea := memEa k w
    memCheck ea (memSize w) 0xF
    let count := k.armed[2]
    let e := k.entry .chkSig (s.core c).pc w
    let s := s.setCore c { k with armed := k.armed.set 2 0 }
    let (s, stop) := s.coreInject c e repl 2 count
    let (s, stop) := if stop then (s, true)
      else s.coreObsAll c e repl [] ((s.core c).badLedgeObs [(ea, memSize w)] ++ obs)
    if stop then pure s
    else
      let k := s.core c
      pure (s.setCore c (k.wg (memRt w) (ext (memSize w) (k.ledge.readLe ea (memSize w)))))

/-- `mem.ld`. -/
def execMemLd (c : CoreId) (w : GWord) (obs : List FaultObs) (repl : Option CoreId) (s : State) :
    Host.Outcome State Fault Refusal :=
  .next (s.load c w obs repl fun _ v => BitVec.ofNat 64 v)

/-- `mem.lds`. -/
def execMemLds (c : CoreId) (w : GWord) (obs : List FaultObs) (repl : Option CoreId) (s : State) :
    Host.Outcome State Fault Refusal :=
  .next (s.load c w obs repl fun n v => BitVec.ofInt 64 (toSigned (8 * n) v))

/-- Stores bytes at an offset that is writable. -/
def Core.store (k : Core) (ea : Nat) (bs : List Byte) (desc : BitVec 4) : Except TrapC Core := do
  memCheck ea bs.length desc
  k.ledgeWritable [(ea, bs.length)] desc
  pure ({ k with ledge := k.ledge.writeBytes ea bs }.wroteLedge [(ea, bs.length)])

/-- `mem.st`. -/
def execMemSt (c : CoreId) (w : GWord) (s : State) : Host.Outcome State Fault Refusal :=
  .next (s.issueCore c w (memLegal w) fun k => k.store (memEa k w) (leBytes (memSize w) (k.rg (memRt w)).toNat) 0xF)

/-! ### Descriptors (R194) -/

/-- Writes a descriptor register if the descriptor passes R194; the trap names it. -/
def Core.putDesc (k : Core) (dn : BitVec 4) (d : Desc) : Except TrapC Core := do
  need d.ok (descTrap 0x1 dn)
  pure (k.wd dn d)

/-- The descriptor of 32 bytes at an offset. -/
def descAt (m : Memory) (a : Nat) : Desc := Vector.ofFn fun (i : Fin 4) => BitVec.ofNat 64 (m.readLe (a + 8 * i.val) 8)
def descBytes (d : Desc) : List Byte := (d.toList.map fun x => leBytes 8 x.toNat).flatten

/-- `mem.dld`. -/
def execMemDld (c : CoreId) (w : GWord) (s : State) : Host.Outcome State Fault Refusal :=
  .next (s.issue c w (scalarSig w && zeroAt w 42 1 && zeroAt w 24 9) fun k => do
    memCheck (memEa k w) 32 (memDn w)
    match (s.setCore c k).coreObsAll c (k.entry .chkSig (s.core c).pc w) none [] (k.badLedgeObs [(memEa k w, 32)]) with
    | (t, true) => pure t
    | (t, false) => t.setCore c <$> (t.core c).putDesc (memDn w) (descAt k.ledge (memEa k w)))

/-- `mem.dst`. -/
def execMemDst (c : CoreId) (w : GWord) (s : State) : Host.Outcome State Fault Refusal :=
  .next (s.issueCore c w (zeroAt w 42 1 && zeroAt w 24 9) fun k => k.store (memEa k w) (descBytes (k.rd (memDn w))) (memDn w))

/-- `mem.dwr`: word W of the descriptor. -/
def execMemDwr (c : CoreId) (w : GWord) (s : State) : Host.Outcome State Fault Refusal :=
  .next (s.issueCore c w (zeroAt w 42 1 && zeroAt w 0 31) fun k =>
    k.putDesc (memDn w) ((k.rd (memDn w)).set (fld w 31 2).toNat (k.rg (fld w 33 5)) (fld w 31 2).isLt))

/-- `mem.drd`: RD is [42:38], DN is [36:33]. -/
def execMemDrd (c : CoreId) (w : GWord) (s : State) : Host.Outcome State Fault Refusal :=
  .next (s.issueCore c w (zeroAt w 37 1 && zeroAt w 0 31) fun k =>
    .ok (k.wg (memRt w) ((k.rd (fld w 33 4))[(fld w 31 2).toNat]'(fld w 31 2).isLt)))

/-- `mem.dadd`: no check. -/
def execMemDadd (c : CoreId) (w : GWord) (s : State) : Host.Outcome State Fault Refusal :=
  .next (s.issueCore c w (zeroAt w 42 1 && zeroAt w 0 33) fun k =>
    .ok (k.wd (memDn w) ((k.rd (memDn w)).addPay (k.rg (fld w 33 5)))))

end Sys2Proof.Machine
end

