-- ==== Sys2Proof/Machine/Transactions.lean ====
section
/-! DEFINITION. REG_READ, REG_WRITE and TXN, the two-phase commit, and the rows that name one WO field each (16 R425 to R435). -/
namespace Sys2Proof.Machine

/-! ### Reading (R425) -/

/-- REG_READ. -/
def execRegRead (h : MsgHdr) (addr : BitVec 64) (nwords : BitVec 16) (rsvd : BitVec 48) (snap : BitVec 64) (s : State) :
    Host.Outcome State Fault Refusal :=
  let n := nwords.toNat
  let a := addr.toNat
  .next (s.recv h false (fun _ _ => plainHdr h 24 && rsvd == 0 && decide (1 ≤ n) && decide (n ≤ 128) && a % 8 == 0 &&
      (blockOf a n).isSome) fun _ ses s =>
    let words (c : Ctl) (v : Word) : List Word := (List.range n).map fun i => c.read v (a + 8 * i)
    if !admittedSes ses then s.reply h (fun h => .regResp h stNOT_ADMITTED addr s.snapVer [])
    else if snap = 0 ∨ snap = s.snapVer then s.reply h (fun h => .regResp h stOK addr s.snapVer (words s.snap s.snapVer))
    else match s.prev with
      | some c => if snap = s.snapVer - 1 then s.reply h (fun h => .regResp h stOK addr snap (words c snap))
          else s.reply h (fun h => .regResp h stREJECTED_VERSION addr s.snapVer [])
      | none => s.reply h (fun h => .regResp h stREJECTED_VERSION addr s.snapVer []))

/-! ### Rights for W1C and WO fields (R429) -/

/-- Bits RT_ACTION and RT_SLOT of SEC_CTL. -/
def rtBits : Nat := 0x1F8

/-- The job that a write of RT_ACTION acts for: LOAD the message's, the others the key slot's. -/
def Ctl.rtJob (c : Ctl) (h : MsgHdr) (v : Nat) : Option Nat :=
  if bits v 3 3 = 1 then some h.job.toNat
  else if hk : bits v 6 3 < 8 then (c.kslot ⟨bits v 6 3, hk⟩).map (·.job.toNat) else none

/-- The session may clear the bits m of W1C fields of a register. -/
def Ctl.mayClear (c : Ctl) (ses : Session) (a : Nat) : Bool :=
  ses.admin || match idxOf a (Addr.bcRgnHi 0) 16 256 with
    | some k => c.fld (Addr.bcRgnLo k) 19 19 != 0 && c.ownsJob ses (c.fld (Addr.bcRgnLo k) 38 16)
    | none => false

/-- The session may start the actions that the bits m of WO fields of a register name; v is what is written. -/
def Ctl.mayStart (c : Ctl) (h : MsgHdr) (slot : Nat) (ses : Session) (a v m : Nat) : Bool :=
  ses.admin || (a == Addr.eloSessClose && bits v 0 10 == slot) ||
  (a == Addr.secCtl && m &&& rtBits == m && match c.rtJob h v with
    | some j => c.ownsJob ses j
    | none => false)

/-- R429 for one written word: value, mask. -/
def Ctl.mayWrite (c : Ctl) (h : MsgHdr) (slot : Nat) (ses : Session) (w : Nat × Word × Word) : Bool :=
  let m := w.2.2.toNat
  let acc := access w.1
  (m &&& acc.tx == 0 || c.mayTx slot ses w.1 (m &&& acc.tx)) && (m &&& acc.w1c == 0 || c.mayClear ses w.1) &&
  (m &&& acc.wo == 0 || c.mayStart h slot ses w.1 (w.2.1.toNat &&& m) (m &&& acc.wo))

/-! ### W1C and WO fields -/

/-- Clears the bits of W1C fields that are written as 1. -/
def Ctl.clearBits (c : Ctl) (a : Nat) (b : Word) : Ctl :=
  if Addr.eloSlot 0 ≤ a ∧ a < Addr.eloSlot 1024 then
    let i := (a - Addr.eloSlot 0) / 0x800
    match c.elo.sessions.find? fun e => e.1 = i with
    | none => c
    | some (_, ses) =>
      match queueAt ses.nq ((a - Addr.eloSlot 0) % 0x800 / 16) with
      | none => c
      | some q => c.setSession i { ses with queues := ses.queues.modify q fun x =>
          { x with aheadDrops := x.aheadDrops &&& ~~~ (b.extractLsb' 48 16) } }
  else c.setReg a (c.reg a &&& ~~~ b)

/-- Starts the actions that a word's WO fields name; h is the message, v the written bits. -/
def State.startAction (s : State) (h : MsgHdr) (a v : Nat) : State :=
  if a = Addr.avCtl then
    if v.testBit 0 then s.mapCtl fun c => { c with dev := { c.dev with svcUs := 0, downUs := 0, exclUs := 0 } } else s
  else if a = Addr.lmCtl then
    (List.finRange 12).foldl (fun (s : State) k => if v.testBit k.val then s.removeLaser k else s) s
  else if a = Addr.eloSessClose then s.endSession (bits v 0 10)
  else if a = Addr.relCtl then
    let s := if v.testBit 9 then (if hc : bits v 0 9 < 384 then s.releaseProbe ⟨bits v 0 9, hc⟩ else s) else s
    ((s.psAction (bits v 10 3)).testSlice (bits v 13 6)).testStack (bits v 19 4)
  else if a = Addr.secCtl then
    let s := if v.testBit 0 then s.sealNow else s
    let s := if bits v 1 2 = 0 then s else s.fwAction (bits v 1 2)
    let s := if bits v 3 3 = 0 then s
      else if hk : bits v 6 3 < 8 then s.rtAction (bits v 3 3) ⟨bits v 6 3, hk⟩ h.job else s
    if v.testBit 9 then s.anchorClearNow else s
  else s

/-- One word's W1C and WO fields act. -/
def State.actWord (h : MsgHdr) (s : State) (w : Nat × Word × Word) : State :=
  let acc := access w.1
  let m := w.2.2.toNat
  let s := if m &&& acc.w1c = 0 then s
    else s.mapCtl fun c => c.clearBits w.1 (w.2.1 &&& w.2.2 &&& BitVec.ofNat 64 acc.w1c)
  if m &&& acc.wo = 0 then s else s.startAction h w.1 (w.2.1.toNat &&& m)

/-! ### Writing (R428) -/

/-- The bits of TX fields that a word writes. -/
def txPart (w : Nat × Word × Word) : Nat × Word × Word :=
  let m := w.2.2 &&& BitVec.ofNat 64 (access w.1).tx
  (w.1, w.2.1 &&& m, m)

/-- Later writes of a field replace earlier ones in the shadow. -/
def OpenTxn.put (t : OpenTxn) (w : Nat × Word × Word) : OpenTxn :=
  let old := KMap.get (0, 0) t.shadow w.1
  let v := (mergeWord old.1 w.2.1 w.2.2, old.2 ||| w.2.2)
  { t with shadow := KMap.insertKey w.1 v (t.shadow.filter fun e => e.1 ≠ w.1) }

/-- The reset that a write of SUM_CTL starts; both bits: the cold one. -/
def State.resetBy (s : State) (v : Nat) : State :=
  if v.testBit 1 then s.coldReset 2 else if v.testBit 0 then s.warmReset 3 else s

/-- A REG_WRITE of words, in ascending address order: its checks, its effects, its ACK (R428). A reset it starts follows the ACK. -/
def State.writeWords (s : State) (h : MsgHdr) (slot : Nat) (ses : Session) (ws : List (Nat × Word × Word)) : State :=
  let c := s.ctl
  let tx := (ws.map txPart).filter fun w => w.2.2 ≠ 0
  let acts := ws.filter fun w => w.2.2.toNat &&& ((access w.1).w1c ||| (access w.1).wo) ≠ 0
  if !(admittedSes ses && ws.all fun w => c.mayWrite h slot ses w) then s.nack0 h stNOT_ADMITTED
  else if !tx.isEmpty && ses.txn.isNone then s.nack0 h stTXN_CONFLICT
  else if c.dev.sealed && tx.any (fun w => sealForbids w.1 w.2.1.toNat w.2.2.toNat) then s.nack0 h stSEALED_REFUSED
  else
    let txn := ses.txn.map fun t => tx.foldl OpenTxn.put t
    if !tx.isEmpty && (match txn with
        | some t => decide (4096 < t.shadow.length)
        | none => false) then s.nack0 h stREJECTED_CAPACITY
    else if c.dev.dstate = .retreat then s.nack0 h stPOWER_RETREAT
    else
      let s := if tx.isEmpty then s else s.mapCtl fun c => c.setSession slot { ses with txn := txn }
      let s := if acts.isEmpty then s else (acts.foldl (State.actWord h) s).cut
      let s := s.ack0 h
      acts.foldl (fun (s : State) w => if w.1 = Addr.sumCtl then s.resetBy (w.2.1.toNat &&& w.2.2.toNat) else s) s

/-- REG_WRITE (R427, R428). -/
def execRegWrite (h : MsgHdr) (addr : BitVec 64) (nwords : BitVec 16) (rsvd : BitVec 48) (vals : List (Word × Word)) (s : State) :
    Host.Outcome State Fault Refusal :=
  let n := nwords.toNat
  let a := addr.toNat
  .next (s.recv h false (fun _ _ => plainHdr h (16 + 16 * n) && rsvd == 0 && decide (1 ≤ n) && decide (n ≤ 64) &&
      vals.length == n && a % 8 == 0 && (blockOf a n).isSome) fun slot ses s =>
    s.writeWords h slot ses (vals.zipIdx.map fun e => (a + 8 * e.2, e.1.1, e.1.2)))

/-- A REG_WRITE of one word, for the rows that name one field: value and mask. -/
def State.writeOne (s : State) (h : MsgHdr) (a v m : Nat) : State :=
  s.recv h false (fun _ _ => plainHdr h 32) fun slot ses s =>
    s.writeWords h slot ses [(a, BitVec.ofNat 64 v, BitVec.ofNat 64 m)]

/-! ### The rows that name one WO field -/

/-- LM_REMOVE_REQ (R330, R419). -/
def execLmRemoveReq (h : MsgHdr) (k : LaserId) (s : State) : Host.Outcome State Fault Refusal :=
  .next (s.writeOne h Addr.lmCtl (2 ^ k.val) (2 ^ k.val))
/-- ELO_SESS_CLOSE (R404). -/
def execEloSessClose (h : MsgHdr) (slot : Fin 1024) (s : State) : Host.Outcome State Fault Refusal :=
  .next (s.writeOne h Addr.eloSessClose slot.val 0x3FF)
/-- AV_CLEAR (R437). -/
def execAvClear (h : MsgHdr) (s : State) : Host.Outcome State Fault Refusal := .next (s.writeOne h Addr.avCtl 1 1)
/-- REL_RELEASE (R468). -/
def execRelRelease (h : MsgHdr) (core : BitVec 9) (s : State) : Host.Outcome State Fault Refusal :=
  .next (s.writeOne h Addr.relCtl (core.toNat + 2 ^ 9) 0x3FF)
/-- PS_INSTALL (R478). -/
def execPsInstall (h : MsgHdr) (s : State) : Host.Outcome State Fault Refusal := .next (s.writeOne h Addr.relCtl (1 * 2 ^ 10) (7 * 2 ^ 10))
/-- PS_ACTIVATE (R478). -/
def execPsActivate (h : MsgHdr) (s : State) : Host.Outcome State Fault Refusal := .next (s.writeOne h Addr.relCtl (2 * 2 ^ 10) (7 * 2 ^ 10))
/-- PS_ROLLBACK (R478). -/
def execPsRollback (h : MsgHdr) (s : State) : Host.Outcome State Fault Refusal := .next (s.writeOne h Addr.relCtl (3 * 2 ^ 10) (7 * 2 ^ 10))
/-- TEST_SLICE (R470): the field holds 1 + the slice's number. -/
def execTestSlice (h : MsgHdr) (n : BitVec 6) (s : State) : Host.Outcome State Fault Refusal :=
  .next (s.writeOne h Addr.relCtl (n.toNat * 2 ^ 13) (63 * 2 ^ 13))
/-- TEST_STACK (R470): the field holds 1 + the stack's number. -/
def execTestStack (h : MsgHdr) (n : BitVec 4) (s : State) : Host.Outcome State Fault Refusal :=
  .next (s.writeOne h Addr.relCtl (n.toNat * 2 ^ 19) (15 * 2 ^ 19))
/-- SEAL (R505). -/
def execSealUnits (h : MsgHdr) (s : State) : Host.Outcome State Fault Refusal := .next (s.writeOne h Addr.secCtl 1 1)
/-- FW_INSTALL (R492). -/
def execFwInstall (h : MsgHdr) (s : State) : Host.Outcome State Fault Refusal := .next (s.writeOne h Addr.secCtl 2 6)
/-- FW_ACTIVATE (R492). -/
def execFwActivate (h : MsgHdr) (s : State) : Host.Outcome State Fault Refusal := .next (s.writeOne h Addr.secCtl 4 6)
/-- SVN_COMMIT (R492). -/
def execSvnCommit (h : MsgHdr) (s : State) : Host.Outcome State Fault Refusal := .next (s.writeOne h Addr.secCtl 6 6)
/-- RT_LOAD (R508). -/
def execRtLoad (h : MsgHdr) (slot : Fin 8) (s : State) : Host.Outcome State Fault Refusal :=
  .next (s.writeOne h Addr.secCtl (1 * 8 + slot.val * 64) rtBits)
/-- RT_DECRYPT (R508). -/
def execRtDecrypt (h : MsgHdr) (slot : Fin 8) (s : State) : Host.Outcome State Fault Refusal :=
  .next (s.writeOne h Addr.secCtl (2 * 8 + slot.val * 64) rtBits)
/-- RT_ENCRYPT (R508). -/
def execRtEncrypt (h : MsgHdr) (slot : Fin 8) (s : State) : Host.Outcome State Fault Refusal :=
  .next (s.writeOne h Addr.secCtl (3 * 8 + slot.val * 64) rtBits)
/-- RT_DROP (R508). -/
def execRtDrop (h : MsgHdr) (slot : Fin 8) (s : State) : Host.Outcome State Fault Refusal :=
  .next (s.writeOne h Addr.secCtl (4 * 8 + slot.val * 64) rtBits)
/-- ANCHOR_CLEAR (R509). -/
def execAnchorClear (h : MsgHdr) (s : State) : Host.Outcome State Fault Refusal := .next (s.writeOne h Addr.secCtl (2 ^ 9) (2 ^ 9))
/-- WARM_RESET (R512). -/
def execWarmReset (h : MsgHdr) (s : State) : Host.Outcome State Fault Refusal := .next (s.writeOne h Addr.sumCtl 1 1)
/-- COLD_RESET (R512). -/
def execColdReset (h : MsgHdr) (s : State) : Host.Outcome State Fault Refusal := .next (s.writeOne h Addr.sumCtl 2 2)

/-! ### TXN (R430) -/

/-- A TXN message: well formed, and of an admitted session. -/
def State.txnMsg (s : State) (h : MsgHdr) (rsvd : BitVec 56) (id : BitVec 64) (act : Nat → Session → State → State) : State :=
  s.recv h false (fun _ _ => plainHdr h 16 && rsvd == 0 && id != 0) fun slot ses s =>
    if admittedSes ses then act slot ses s else s.nack0 h stNOT_ADMITTED

/-- A commit of a session's transaction runs or waits for its turn. -/
def Ctl.committing (c : Ctl) (slot : Nat) (id : BitVec 64) : Bool :=
  (match c.txn.running with
    | some m => m.slot == slot && m.txn.id == id
    | none => false) ||
  c.txn.queued.any fun e => e.1 == slot && e.2.2.id == id

/-- The answer that a session remembers for a transaction. -/
def Session.closedAs (ses : Session) (id : BitVec 64) : Option Status := (ses.closed.find? fun e => e.1 = id).map (·.2)

/-- ACK OK or NACK. -/
def State.answer (s : State) (h : MsgHdr) (st : Status) : State := if st = stOK then s.ack0 h else s.nack0 h st

/-- TXN_BEGIN. -/
def execTxnBegin (h : MsgHdr) (rsvd : BitVec 56) (txnId : BitVec 64) (s : State) : Host.Outcome State Fault Refusal :=
  .next (s.txnMsg h rsvd txnId fun slot ses s =>
    if s.ctl.committing slot txnId then s.nack0 h stTXN_CONFLICT
    else match ses.txn with
      | some t => if t.id = txnId then s.ack0 h else s.nack0 h stTXN_CONFLICT
      | none =>
        if (ses.closedAs txnId).isSome then s.nack0 h stTXN_CONFLICT
        else (s.mapCtl fun c => c.setSession slot { ses with txn := some ⟨txnId, s.snapVer, []⟩ }).ack0 h)

/-- TXN_ABORT. -/
def execTxnAbort (h : MsgHdr) (rsvd : BitVec 56) (txnId : BitVec 64) (s : State) : Host.Outcome State Fault Refusal :=
  .next (s.txnMsg h rsvd txnId fun slot ses s =>
    match ses.txn with
    | some t =>
      if t.id = txnId then
        (s.mapCtl fun c => c.setSession slot (ses.closeTxn txnId stTXN_CONFLICT)).ack0 h
      else s.ack0 h
    | none => s.ack0 h)

/-! ### The two-phase commit (R433, R434) -/

/-- Islands in service that own a word of the shadow. -/
def Ctl.commitIslands (c : Ctl) (t : OpenTxn) : List Island :=
  (t.shadow.flatMap fun e => owners c (c.withShadow t.shadow) e.1).eraseDups.filter fun i => c.islandUp i

/-- Ends a commit: its transaction is closed with an answer, which every COMMIT of it receives. -/
def State.endCommit (s : State) (m : Commit) (st : Status) : State :=
  let s := s.mapCtl fun c =>
    let c := match (c.elo.sessions.find? fun e => e.1 = m.slot) with
      | some e => c.setSession m.slot (e.2.remember m.txn.id st)
      | none => c
    { c with txn := { c.txn with running := none } }
  (m.hdr :: m.held).foldl (fun (s : State) h => s.answer h st) s

/-- Step 7, with the answer. -/
def State.finishCommit (s : State) (m : Commit) : State := (s.commitDone m).endCommit m stOK

/-- The decision of a commit: the words that it changes; a shadow of committed values only writes nothing (R431). -/
def Commit.decide (m : Commit) (c : Ctl) : Commit :=
  let d := c.withShadow m.txn.shadow
  let changed := (m.txn.shadow.map (·.1)).filter (chg c d)
  { m with changed := changed, txn := { m.txn with shadow := if changed.isEmpty then [] else m.txn.shadow } }

/-- Steps 4 and 5: the commit point. The words that no island in service owns take effect, the others as their islands apply them.
With no island to apply, the commit is done. -/
def State.commitPoint (s : State) (m : Commit) (islands : List Island) : State :=
  let m := m.decide s.ctl
  let s := s.applyPart m fun o => !o.any islands.contains
  if islands.isEmpty then s.finishCommit m
  else s.mapCtl fun c => { c with txn := { c.txn with running := some { m with waiting := islands, applying := true } } }

/-- Steps 1 and 2: a commit begins; the status of a refusal, or PREPARE to every owner. A commit that POWER_RETREAT refuses leaves
its transaction open, unless the session has opened another meanwhile (log 30). -/
def State.beginCommit (s : State) (slot : Nat) (h : MsgHdr) (t : OpenTxn) (held : List MsgHdr) : State :=
  match s.session? slot with
  | none => s
  | some ses =>
    let m : Commit := ⟨slot, h, t, held, s.ctl.commitIslands t, false, []⟩
    match s.commitRefusal slot ses t with
    | some st =>
      if st = stPOWER_RETREAT then
        let ses := if ses.txn.isNone then { ses with txn := some t } else ses.remember t.id stTXN_CONFLICT
        (h :: held).foldl (fun (s : State) h => s.nack0 h st) (s.mapCtl fun c => c.setSession slot ses)
      else s.endCommit m st
    | none =>
      if m.waiting.isEmpty then s.commitPoint m []
      else s.mapCtl fun c => { c with txn := { c.txn with running := some m } }

/-- Commits that wait, in the order of their COMMIT messages; a repeated COMMIT is held with the first. -/
def State.nextCommits : Nat → State → State
  | 0, s => s
  | n + 1, s =>
    match s.ctl.txn.running, s.ctl.txn.queued with
    | none, (slot, h, t) :: rest =>
      let held := (rest.filter fun e => e.1 = slot && e.2.2.id == t.id).map (·.2.1)
      let s := s.mapCtl fun c => { c with txn := { c.txn with queued := rest.filter fun e => !(e.1 = slot && e.2.2.id == t.id) } }
      State.nextCommits n (s.beginCommit slot h t held)
    | _, _ => s

/-- The next commits begin. -/
def State.runCommits (s : State) : State := State.nextCommits s.ctl.txn.queued.length s

/-- A COMMIT of a transaction that is not open: held while its commit runs or waits, else the remembered answer or TXN_CONFLICT. -/
def State.commitAgain (s : State) (h : MsgHdr) (slot : Nat) (ses : Session) (id : BitVec 64) : State :=
  match s.ctl.txn.running, s.ctl.txn.queued.find? fun e => e.1 = slot && e.2.2.id == id with
  | some m, w =>
    if m.slot = slot ∧ m.txn.id = id then
      s.mapCtl fun c => { c with txn := { c.txn with running := some { m with held := m.held ++ [h] } } }
    else match w with
      | some e => s.mapCtl fun c => { c with txn := { c.txn with queued := c.txn.queued ++ [(slot, h, e.2.2)] } }
      | none => s.answer h ((ses.closedAs id).getD stTXN_CONFLICT)
  | none, _ => s.answer h ((ses.closedAs id).getD stTXN_CONFLICT)

/-- TXN_COMMIT: the Guide takes the transaction, which is no longer open; it runs at once, or waits for its turn. -/
def execTxnCommit (h : MsgHdr) (rsvd : BitVec 56) (txnId : BitVec 64) (s : State) : Host.Outcome State Fault Refusal :=
  .next (s.txnMsg h rsvd txnId fun slot ses s =>
    match ses.txn, s.ctl.txn.running with
    | some t, running =>
      if t.id = txnId then
        let s := s.mapCtl fun c => c.setSession slot { ses with txn := none }
        if running.isNone then s.beginCommit slot h t []
        else s.mapCtl fun c => { c with txn := { c.txn with queued := c.txn.queued ++ [(slot, h, t)] } }
      else s.commitAgain h slot ses txnId
    | none, _ => s.commitAgain h slot ses txnId)

/-- TXN_IDLE_TIMEOUT (R432). -/
def execTxnIdleTimeout (session : BitVec 32) (s : State) : Host.Outcome State Fault Refusal :=
  .next (match s.ctl.sessionById session with
    | some (slot, ses) => match ses.txn with
      | some t => s.mapCtl fun c => c.setSession slot (ses.closeTxn t.id stTXN_CONFLICT)
      | none => s
    | none => s)

/-- An island leaves service by the fault rule of its chapter: a slice by R291, a stack by R302, a port by R346, whose REASON the
manual does not give here (log 29). -/
def State.islandFails (s : State) : Island → State
  | .slice k => s.retireSlice k
  | .stack k => s.retireStack k
  | .mport p => s.tick.portDownCode p (s.free.extractLsb' 0 4)
  | _ => s

/-- The commit that the Guide runs, while it acts: not halted (R467), and not in SAFE (R28). -/
def Ctl.runningCommit (c : Ctl) : Option Commit :=
  if c.dev.halted = true ∨ c.dev.dstate = .safe then none else c.txn.running

/-- ISLAND_PREPARED: the last PREPARED is the commit point; a REFUSE ends the commit. -/
def execIslandPrepared (i : Island) (refuse : Option (BitVec 16)) (s : State) : Host.Outcome State Fault Refusal :=
  .next (match s.ctl.runningCommit with
    | none => s
    | some m =>
      if m.applying = true ∨ m.waiting.contains i = false then s
      else match refuse with
        | some st => (s.endCommit m st).runCommits
        | none =>
          let rest := m.waiting.filter (· ≠ i)
          if rest.isEmpty then (s.commitPoint m (s.ctl.commitIslands m.txn)).runCommits
          else s.mapCtl fun c => { c with txn := { c.txn with running := some { m with waiting := rest } } })

/-- PREPARE_TIMEOUT (R434). -/
def execPrepareTimeout (i : Island) (s : State) : Host.Outcome State Fault Refusal :=
  .next (match s.ctl.runningCommit with
    | none => s
    | some m =>
      if m.applying = true ∨ m.waiting.contains i = false then s
      else ((s.endCommit m stTXN_CONFLICT).islandFails i).runCommits)

/-- Step 6 at an island, or the configuration of one that did not answer: its changes take effect at one boundary, and it no longer
has to answer APPLIED; the last one ends the commit. -/
def State.applied (s : State) (m : Commit) (i : Island) : State :=
  let rest := m.waiting.filter (· ≠ i)
  let s := s.applyPart m fun o => o.contains i && !o.any rest.contains
  if rest.isEmpty then (s.finishCommit m).runCommits
  else s.mapCtl fun c => { c with txn := { c.txn with running := some { m with waiting := rest } } }

/-- ISLAND_APPLIED. -/
def execIslandApplied (i : Island) (s : State) : Host.Outcome State Fault Refusal :=
  .next (match s.ctl.runningCommit with
    | none => s
    | some m => if m.applying = false ∨ m.waiting.contains i = false then s else s.applied m i)

/-- APPLY_TIMEOUT (R434): the commit stands, and the island leaves service. -/
def execApplyTimeout (i : Island) (s : State) : Host.Outcome State Fault Refusal :=
  .next (match s.ctl.runningCommit with
    | none => s
    | some m => if m.applying = false ∨ m.waiting.contains i = false then s else (s.islandFails i).applied m i)

end Sys2Proof.Machine
end

