-- ==== Sys2Proof/Machine/SummitBook.lean ====
section
/-! DEFINITION. The summit book's batches and checkpoints (20 R517 to R520, 02 R48) and the management port (21 R535 to R537). -/
namespace Sys2Proof.Machine

/-! ### Batches (R519, R48) -/

/-- The Guide writes the book: not in OFF, not from the start of stage C, not while both its cores are halted. -/
def Ctl.writesBook (c : Ctl) : Bool := c.powered && decide (c.dev.stage < 3) && !c.dev.halted

/-- Completions reported after one batch. -/
def reportMax : Nat := 200

/-- Reports one completion: its journal records are free, its EVENT goes to the session. -/
def State.reportOne (s : State) (r : DoneRec) : State :=
  match s.ctl.slotOf r.key.session with
  | some slot => s.sendEvent slot r.event
  | none => s

/-- Closing sessions that have nothing left to report end (R404). -/
def State.byes (s : State) : State := s.ctl.elo.sessions.foldl (fun (s : State) e => s.tryBye e.1) s

/-- SUMMIT_BATCH: the changed items and at most 8 waiting records; then the events of the records and at most 200 completions. A
batch is shown in a snapshot, which CR_SNAP and the events of its records name (R47, R480). -/
def execSummitBatch (s : State) : Host.Outcome State Fault Refusal :=
  .next (
    if s.ctl.writesBook = false then s
    else
      let items := s.capture
      let rs := s.ctl.rel.intoRing 8 (s.snapVer + 1)
      let go := s.ctl.jnl.reports.take reportMax
      let s := s.mapCtl fun c => { c with jnl := { c.jnl.free (fun b => go.any fun r => recOf r.key b) with
        reports := c.jnl.reports.drop reportMax } }
      let s := if items = s.ctl.book.items ∧ rs.2.isEmpty = true then (if go.isEmpty then s else s.shown)
        else (s.mapCtl fun c => { c with rel := rs.1, book := c.book.batch items }).shown
      let s := rs.2.foldl (fun (s : State) r => s.announce r) s
      (go.foldl (fun (s : State) r => s.reportOne r) s).byes)

/-! ### Checkpoints (R519) -/

/-- SUMMIT_CHECKPOINT: a checkpoint as of the latest BSEQ begins, in the older copy. -/
def execSummitCheckpoint (s : State) : Host.Outcome State Fault Refusal :=
  .next (
    if s.ctl.writesBook = false ∨ s.ctl.book.writing.isSome = true then s
    else s.mapCtl fun c => { c with book := { c.book with
      writing := some (decide (c.book.ckptB.bseq < c.book.ckptA.bseq), ⟨c.book.bseq, c.book.items⟩) } })

/-- CHECKPOINT_COMPLETE: the copy holds its contents as of its BSEQ, and the log up to it is overwritten. -/
def execCheckpointComplete (s : State) : Host.Outcome State Fault Refusal :=
  .next (match s.ctl.book.writing with
    | none => s
    | some (copyB, k) => s.mapCtl fun c =>
      let b := { c.book with writing := none, log := c.book.log.filter fun e => k.bseq < e.bseq }
      { c with book := if copyB then { b with ckptB := k } else { b with ckptA := k } })

/-! ### The management port (R423, R483, R535 to R537) -/

/-- MSTATUS. -/
def mOK : BitVec 8 := 0
def mBUSY : BitVec 8 := 1
def mDENIED : BitVec 8 := 2
def mBAD : BitVec 8 := 3
def mUNAVAIL : BitVec 8 := 4

/-- A range of n words lies in the blocks open to the port: GLB, CAP, SUM, and of REL the ring, REL_CRNUM and REL_STAT. -/
def mgmtOpen (a n : Nat) : Bool :=
  let within (lo hi : Nat) : Bool := decide (lo ≤ a) && decide (a + 8 * n ≤ hi)
  within Addr.glb (Addr.cap + 0x10000) || within Addr.sum (Addr.sum + 0x1000000) || within Addr.relRing (Addr.relRing + 0x100000) ||
  (n == 1 && (a == Addr.relCrnum || a == Addr.relStat))

/-- A range that the port serves in OFF: CAP, GSTAT, REL_CRNUM, the ring. -/
def mgmtOff (a n : Nat) : Bool :=
  let within (lo hi : Nat) : Bool := decide (lo ≤ a) && decide (a + 8 * n ≤ hi)
  within Addr.cap (Addr.cap + 0x10000) || within Addr.relRing (Addr.relRing + 0x100000) ||
  (n == 1 && (a == Addr.relCrnum || a == Addr.gstat))

/-- The result of a read (R536, R537). -/
def State.mgmtRead (s : State) (a n : Nat) : BitVec 8 × Word × List Word :=
  let off := !s.ctl.powered
  if a % 8 ≠ 0 ∨ n = 0 ∨ 30 < n ∨ (blockOf a n).isNone = true then (mBAD, 0, [])
  else if !mgmtOpen a n then (mDENIED, 0, [])
  else if off && !mgmtOff a n then (mUNAVAIL, 0, [])
  else if off then (mOK, 0, (List.range n).map fun i => if a = Addr.gstat then 0 else s.ctl.read 0 (a + 8 * i))
  else (mOK, s.snapVer, (List.range n).map fun i => s.snap.read s.snapVer (a + 8 * i))

def State.setMgmt (s : State) (m : Mgmt) : State := s.mapCtl fun c => { c with mgmt := m }

/-- MGMT_SET_READ: replaces a pending read. The port runs from 3V3_AUX. -/
def execMgmtSetRead (addr : BitVec 64) (nwords : BitVec 8) (s : State) : Host.Outcome State Fault Refusal :=
  .next (if s.ctl.pins.aux then s.setMgmt ⟨some (addr, nwords), none⟩ else s)

/-- MGMT_READ_READY: the pending read completes. -/
def execMgmtReadReady (s : State) : Host.Outcome State Fault Refusal :=
  .next (match s.ctl.mgmt.pending with
    | some (a, n) => if s.ctl.pins.aux then s.setMgmt ⟨none, some (s.mgmtRead a.toNat n.toNat)⟩ else s
    | none => s)

/-- MGMT_GET_READ: BUSY before the result is ready, else the result, which stays; with no read ever named, a free MSTATUS
(log 31). -/
def execMgmtGetRead (s : State) : Host.Outcome State Fault Refusal :=
  .next (
    if s.ctl.pins.aux = false then s
    else match s.ctl.mgmt.pending, s.ctl.mgmt.ready with
      | some _, _ => s.send (.mgmt mBUSY 0 [])
      | none, some (st, v, ws) => s.send (.mgmt st (if st = mOK then v else 0) ws)
      | none, none => s.tick.send (.mgmt (s.free.extractLsb' 0 8) 0 []))

end Sys2Proof.Machine
end

