-- ==== Sys2Proof/Machine/Units.lean ====
section
/-! DEFINITION. Instructions that enter a unit queue: dma (08 R228), chk (08 R235, R236), mac and acc (09 R240 to R249), vec
(09 R251), qnt (09 R258 to R262) and coll (09 R263). Here their reserved fields and their issue; what a unit does with them is
in Array, Chain, Quant, Dma and Collectives. -/
namespace Sys2Proof.Machine

/-! ### dma (R228) -/

/-- CINC is zero exactly when RC is g0. -/
def counterRule (rc : BitVec 5) (cinc : BitVec 8) : Bool := (rc == 0) == (cinc == 0)
def dmaRule (w : GWord) : Bool := counterRule (fld w 29 5) (fld w 21 8)

/-- `dma.copy`. -/
def execDmaCopy (c : CoreId) (w : GWord) (s : State) : Host.Outcome State Fault Refusal :=
  .next (s.enqueueOne c w (dmaRule w && zeroAt w 0 21) .dma .dmaCopy)
/-- `dma.copy2d`. -/
def execDmaCopy2d (c : CoreId) (w : GWord) (s : State) : Host.Outcome State Fault Refusal :=
  .next (s.enqueueOne c w (dmaRule w && zeroAt w 0 6) .dma .dmaCopy2d)
/-- `dma.fill`: DS, RSS and RDS are reserved. -/
def execDmaFill (c : CoreId) (w : GWord) (s : State) : Host.Outcome State Fault Refusal :=
  .next (s.enqueueOne c w (dmaRule w && zeroAt w 39 4 && zeroAt w 0 16) .dma .dmaFill)

/-! ### chk (R235, R236) -/

/-- An injection is armed under a probe run, or for a job with INJ_EN while not sealed and COUNT is 1 or 2. -/
def State.mayInject (s : State) (k : Core) (count : BitVec 2) : Bool :=
  k.probing || (!s.ctl.dev.sealed && count != 3 &&
    (List.range 16).any fun j => s.ctl.bit (Addr.jobA j) 16 && s.ctl.fld (Addr.jobA j) 0 16 == k.job && s.ctl.bit (Addr.jobA j) 17)

/-- `chk.inject`. -/
def execChkInject (c : CoreId) (w : GWord) (s : State) : Host.Outcome State Fault Refusal :=
  .next (s.issueCore c w (zeroAt w 0 33 && zeroAt w 37 1 && fld w 33 2 != 0) fun k =>
    if s.mayInject k (fld w 33 2) then
      .ok ({ k with armed := k.armed.set (fld w 35 2).toNat (fld w 33 2) (fld w 35 2).isLt }.wg (fld w 38 5) 1)
    else .ok (k.wg (fld w 38 5) 0))

/-- `chk.sig`: runs in the DMA queue. Bits [38] and [27:0] belong to no field (R235). -/
def execChkSig (c : CoreId) (w : GWord) (s : State) : Host.Outcome State Fault Refusal :=
  .next (s.enqueueOne c w (zeroAt w 0 28 && zeroAt w 38 1) .dma .chkSig)

/-- `chk.probe`: RD[32] under a probe run, RD[31:0] its number. -/
def execChkProbe (c : CoreId) (w : GWord) (s : State) : Host.Outcome State Fault Refusal :=
  .next (s.issueCore c w (zeroAt w 0 38) fun k =>
    .ok (k.wg (fld w 38 5) (match k.prog.bind (·.probe) with
      | some n => 1#32 ++ n
      | none => 0)))

/-! ### mac and acc (R240 to R249) -/

def execMacWload (c : CoreId) (w : GWord) (s : State) : Host.Outcome State Fault Refusal :=
  .next (s.enqueueOne c w (zeroAt w 0 30) .mac .macWload)
def execMacStep (c : CoreId) (w : GWord) (s : State) : Host.Outcome State Fault Refusal :=
  .next (s.enqueueOne c w (zeroAt w 8 3) .mac .macStep)

/-- Reserved fields of `acc.preload` (R244). -/
def preloadLegal (w : GWord) : Bool :=
  fld w 37 2 != 3 && (fld w 37 2 != 0 || zeroAt w 32 4) && zeroAt w 0 14 &&
  (if w.getLsbD 36 then zeroAt w 26 6 else zeroAt w 14 12)

def execAccPreload (c : CoreId) (w : GWord) (s : State) : Host.Outcome State Fault Refusal :=
  .next (s.enqueueOne c w (preloadLegal w) .acc .accPreload)
def execAccSadd (c : CoreId) (w : GWord) (s : State) : Host.Outcome State Fault Refusal :=
  .next (s.enqueueOne c w (zeroAt w 8 22) .acc .accSadd)
def execAccSpill (c : CoreId) (w : GWord) (s : State) : Host.Outcome State Fault Refusal :=
  .next (s.enqueueOne c w (zeroAt w 0 39) .acc .accSpill)

/-- Reserved fields and values of `acc.drain` (R248, R249). -/
def drainLegal (w : GWord) : Bool :=
  let dfmt := fld w 32 3
  let rmode := fld w 29 3
  (if dfmt = 7 then rmode == 0 else if dfmt = 6 then rmode == 0 || rmode == 4 else rmode != 6 && rmode != 7) &&
  (dfmt == 4 || dfmt == 5 || zeroAt w 28 1) &&
  (if dfmt = 6 then fld w 18 2 != 3 && fld w 15 3 != 0 else zeroAt w 8 19)

def execAccDrain (c : CoreId) (w : GWord) (s : State) : Host.Outcome State Fault Refusal :=
  .next (s.enqueueOne c w (drainLegal w) .acc .accDrain)
def execAccFree (c : CoreId) (w : GWord) (s : State) : Host.Outcome State Fault Refusal :=
  .next (s.enqueueOne c w (zeroAt w 0 39) .acc .accFree)

/-! ### vec (R251) -/

/-- `vec.chain`: the copy of the chain descriptor and its checks at issue. -/
def execVecChain (c : CoreId) (w : GWord) (s : State) : Host.Outcome State Fault Refusal :=
  .next (s.enqueue c w (zeroAt w 0 30) [.vec] fun k => do
    let a := (k.rg (fld w 38 5)).toNat % 2 ^ 22
    need (a % 64 == 0) (dataTrap 0x3)
    need (decide (a + 256 ≤ ledgeSize)) (dataTrap 0x2)
    let bs := k.ledge.readBytes a 256
    checkChain k (s.env k.job) (k.entry .vecChain (s.core c).pc w) (parseChain bs)
    pure (.vecChain, bs))

/-! ### qnt (R258 to R262) -/

def encodeLegal (w : GWord) : Bool :=
  (!w.getLsbD 26 || zeroAt w 23 3) && fld w 21 2 != 3 && fld w 18 3 != 0 && (fld w 8 3 == 0 || fld w 8 3 == 4)

def execQntEncode (c : CoreId) (w : GWord) (s : State) : Host.Outcome State Fault Refusal :=
  .next (s.enqueueOne c w (encodeLegal w) .qnt .qntEncode)
def execQntCbload (c : CoreId) (w : GWord) (s : State) : Host.Outcome State Fault Refusal :=
  .next (s.enqueueOne c w (zeroAt w 0 35) .qnt .qntCbload)
def execQntAdapt (c : CoreId) (w : GWord) (s : State) : Host.Outcome State Fault Refusal :=
  .next (s.enqueueOne c w (zeroAt w 0 24) .qnt .qntAdapt)
def execQntSdump (c : CoreId) (w : GWord) (s : State) : Host.Outcome State Fault Refusal :=
  .next (s.enqueueOne c w (zeroAt w 0 38) .qnt .qntSdump)

/-! ### coll (R263) -/

def collLegal (w : GWord) : Bool := counterRule (fld w 20 5) (fld w 12 8) && zeroAt w 0 12

def execCollSend (c : CoreId) (w : GWord) (s : State) : Host.Outcome State Fault Refusal :=
  .next (s.enqueueOne c w (collLegal w && zeroAt w 30 4) .coll .collSend)
def execCollRecv (c : CoreId) (w : GWord) (s : State) : Host.Outcome State Fault Refusal :=
  .next (s.enqueueOne c w (collLegal w && zeroAt w 34 4) .coll .collRecv)
def execCollXchg (c : CoreId) (w : GWord) (s : State) : Host.Outcome State Fault Refusal :=
  .next (s.enqueueOne c w (collLegal w) .coll .collXchg)

end Sys2Proof.Machine
end

