-- ==== Sys2Proof/Machine/Dispatch.lean ====
section
/-! DEFINITION. The meaning of every command: one arm per constructor, one direct call each. -/
namespace Sys2Proof.Machine

def exec (i : Instr) (s : State) : Host.Outcome State Fault Refusal :=
  match i with
  | .ctlNop c w => Sys2Proof.Machine.execCtlNop c w s
  | .ctlHalt c w => Sys2Proof.Machine.execCtlHalt c w s
  | .ctlPhase c w => Sys2Proof.Machine.execCtlPhase c w s
  | .ctlTrap c w => Sys2Proof.Machine.execCtlTrap c w s
  | .aluAdd c w => Sys2Proof.Machine.execAluAdd c w s
  | .aluSub c w => Sys2Proof.Machine.execAluSub c w s
  | .aluAnd c w => Sys2Proof.Machine.execAluAnd c w s
  | .aluOr c w => Sys2Proof.Machine.execAluOr c w s
  | .aluXor c w => Sys2Proof.Machine.execAluXor c w s
  | .aluShl c w => Sys2Proof.Machine.execAluShl c w s
  | .aluShr c w => Sys2Proof.Machine.execAluShr c w s
  | .aluSra c w => Sys2Proof.Machine.execAluSra c w s
  | .aluMul c w => Sys2Proof.Machine.execAluMul c w s
  | .aluMulh c w => Sys2Proof.Machine.execAluMulh c w s
  | .aluMulhu c w => Sys2Proof.Machine.execAluMulhu c w s
  | .aluMin c w => Sys2Proof.Machine.execAluMin c w s
  | .aluMax c w => Sys2Proof.Machine.execAluMax c w s
  | .aluMinu c w => Sys2Proof.Machine.execAluMinu c w s
  | .aluMaxu c w => Sys2Proof.Machine.execAluMaxu c w s
  | .aluLi c w => Sys2Proof.Machine.execAluLi c w s
  | .aluCmpEq c w => Sys2Proof.Machine.execAluCmpEq c w s
  | .aluCmpNe c w => Sys2Proof.Machine.execAluCmpNe c w s
  | .aluCmpLt c w => Sys2Proof.Machine.execAluCmpLt c w s
  | .aluCmpGe c w => Sys2Proof.Machine.execAluCmpGe c w s
  | .aluCmpLtu c w => Sys2Proof.Machine.execAluCmpLtu c w s
  | .aluCmpGeu c w => Sys2Proof.Machine.execAluCmpGeu c w s
  | .aluPand c w => Sys2Proof.Machine.execAluPand c w s
  | .aluPor c w => Sys2Proof.Machine.execAluPor c w s
  | .aluPxor c w => Sys2Proof.Machine.execAluPxor c w s
  | .aluPandn c w => Sys2Proof.Machine.execAluPandn c w s
  | .aluClz c w => Sys2Proof.Machine.execAluClz c w s
  | .aluPopc c w => Sys2Proof.Machine.execAluPopc c w s
  | .aluMfsr c w => Sys2Proof.Machine.execAluMfsr c w s
  | .aluMtsr c w => Sys2Proof.Machine.execAluMtsr c w s
  | .brRel c w => Sys2Proof.Machine.execBrRel c w s
  | .brReg c w => Sys2Proof.Machine.execBrReg c w s
  | .brCall c w => Sys2Proof.Machine.execBrCall c w s
  | .brCallr c w => Sys2Proof.Machine.execBrCallr c w s
  | .brDec c w => Sys2Proof.Machine.execBrDec c w s
  | .memLd c w obs repl => Sys2Proof.Machine.execMemLd c w obs repl s
  | .memLds c w obs repl => Sys2Proof.Machine.execMemLds c w obs repl s
  | .memSt c w => Sys2Proof.Machine.execMemSt c w s
  | .memDld c w => Sys2Proof.Machine.execMemDld c w s
  | .memDst c w => Sys2Proof.Machine.execMemDst c w s
  | .memDwr c w => Sys2Proof.Machine.execMemDwr c w s
  | .memDrd c w => Sys2Proof.Machine.execMemDrd c w s
  | .memDadd c w => Sys2Proof.Machine.execMemDadd c w s
  | .dmaCopy c w => Sys2Proof.Machine.execDmaCopy c w s
  | .dmaCopy2d c w => Sys2Proof.Machine.execDmaCopy2d c w s
  | .dmaFill c w => Sys2Proof.Machine.execDmaFill c w s
  | .syncWait c w => Sys2Proof.Machine.execSyncWait c w s
  | .syncQwait c w => Sys2Proof.Machine.execSyncQwait c w s
  | .syncSset c w => Sys2Proof.Machine.execSyncSset c w s
  | .syncFence c w => Sys2Proof.Machine.execSyncFence c w s
  | .syncMwait c w => Sys2Proof.Machine.execSyncMwait c w s
  | .syncRpoint c w => Sys2Proof.Machine.execSyncRpoint c w s
  | .syncSinc c w => Sys2Proof.Machine.execSyncSinc c w s
  | .chkInject c w => Sys2Proof.Machine.execChkInject c w s
  | .chkSig c w => Sys2Proof.Machine.execChkSig c w s
  | .chkProbe c w => Sys2Proof.Machine.execChkProbe c w s
  | .macWload c w => Sys2Proof.Machine.execMacWload c w s
  | .macStep c w => Sys2Proof.Machine.execMacStep c w s
  | .accPreload c w => Sys2Proof.Machine.execAccPreload c w s
  | .accSadd c w => Sys2Proof.Machine.execAccSadd c w s
  | .accSpill c w => Sys2Proof.Machine.execAccSpill c w s
  | .accDrain c w => Sys2Proof.Machine.execAccDrain c w s
  | .accFree c w => Sys2Proof.Machine.execAccFree c w s
  | .vecChain c w => Sys2Proof.Machine.execVecChain c w s
  | .qntEncode c w => Sys2Proof.Machine.execQntEncode c w s
  | .qntCbload c w => Sys2Proof.Machine.execQntCbload c w s
  | .qntAdapt c w => Sys2Proof.Machine.execQntAdapt c w s
  | .qntSdump c w => Sys2Proof.Machine.execQntSdump c w s
  | .collSend c w => Sys2Proof.Machine.execCollSend c w s
  | .collRecv c w => Sys2Proof.Machine.execCollRecv c w s
  | .collXchg c w => Sys2Proof.Machine.execCollXchg c w s
  | .queueStart c q => Sys2Proof.Machine.execQueueStart c q s
  | .queueComplete c q k obs repl => Sys2Proof.Machine.execQueueComplete c q k obs repl s
  | .qwaitConsume c q => Sys2Proof.Machine.execQwaitConsume c q s
  | .syncWaitRelease c => Sys2Proof.Machine.execSyncWaitRelease c s
  | .ssetApply c => Sys2Proof.Machine.execSsetApply c s
  | .fenceRelease c => Sys2Proof.Machine.execFenceRelease c s
  | .mwaitRelease c => Sys2Proof.Machine.execMwaitRelease c s
  | .rpointRecorded c => Sys2Proof.Machine.execRpointRecorded c s
  | .waitLimitExpiry c p => Sys2Proof.Machine.execWaitLimitExpiry c p s
  | .trapHandlerEntry c => Sys2Proof.Machine.execTrapHandlerEntry c s
  | .spillBackgroundDone d => Sys2Proof.Machine.execSpillBackgroundDone d s
  | .hello h b newId => Sys2Proof.Machine.execHello h b newId s
  | .cmdRun h b => Sys2Proof.Machine.execCmdRun h b s
  | .cmdInstall h b => Sys2Proof.Machine.execCmdInstall h b s
  | .cmdPreempt h b => Sys2Proof.Machine.execCmdPreempt h b s
  | .cmdRelease h b => Sys2Proof.Machine.execCmdRelease h b s
  | .journalWriteConfirm k => Sys2Proof.Machine.execJournalWriteConfirm k s
  | .commandStart k cores => Sys2Proof.Machine.execCommandStart k cores s
  | .normWatchDecide k => Sys2Proof.Machine.execNormWatchDecide k s
  | .adoptFlip k => Sys2Proof.Machine.execAdoptFlip k s
  | .dataWrite h addr data obs => Sys2Proof.Machine.execDataWrite h addr data obs s
  | .dataRead h addr len rsvd obs => Sys2Proof.Machine.execDataRead h addr len rsvd obs s
  | .eventAck h => Sys2Proof.Machine.execEventAck h s
  | .eventResendTimer session => Sys2Proof.Machine.execEventResendTimer session s
  | .regRead h addr nwords rsvd snap => Sys2Proof.Machine.execRegRead h addr nwords rsvd snap s
  | .regWrite h addr nwords rsvd vals => Sys2Proof.Machine.execRegWrite h addr nwords rsvd vals s
  | .txnBegin h rsvd txnId => Sys2Proof.Machine.execTxnBegin h rsvd txnId s
  | .txnCommit h rsvd txnId => Sys2Proof.Machine.execTxnCommit h rsvd txnId s
  | .txnAbort h rsvd txnId => Sys2Proof.Machine.execTxnAbort h rsvd txnId s
  | .txnIdleTimeout session => Sys2Proof.Machine.execTxnIdleTimeout session s
  | .islandPrepared isl refuse => Sys2Proof.Machine.execIslandPrepared isl refuse s
  | .prepareTimeout isl => Sys2Proof.Machine.execPrepareTimeout isl s
  | .islandApplied isl => Sys2Proof.Machine.execIslandApplied isl s
  | .applyTimeout isl => Sys2Proof.Machine.execApplyTimeout isl s
  | .attestReport h nonce part => Sys2Proof.Machine.execAttestReport h nonce part s
  | .attestEncap h o => Sys2Proof.Machine.execAttestEncap h o s
  | .attestLinkSecret h o => Sys2Proof.Machine.execAttestLinkSecret h o s
  | .hostBye h => Sys2Proof.Machine.execHostBye h s
  | .mkaFrame port mac ckn body => Sys2Proof.Machine.execMkaFrame port mac ckn body s
  | .sakRekeyTimer port mac => Sys2Proof.Machine.execSakRekeyTimer port mac s
  | .arpRequest port senderMac senderIp targetIp => Sys2Proof.Machine.execArpRequest port senderMac senderIp targetIp s
  | .icmpEchoRequest port srcIp dstIp payload => Sys2Proof.Machine.execIcmpEchoRequest port srcIp dstIp payload s
  | .neighbourSolicitation port srcMac srcIp targetIp => Sys2Proof.Machine.execNeighbourSolicitation port srcMac srcIp targetIp s
  | .hostPortDown port reason => Sys2Proof.Machine.execHostPortDown port reason s
  | .lmRemoveReq h k => Sys2Proof.Machine.execLmRemoveReq h k s
  | .mlkDrainComplete k => Sys2Proof.Machine.execMlkDrainComplete k s
  | .hostDrainComplete k => Sys2Proof.Machine.execHostDrainComplete k s
  | .lmInserted k serial => Sys2Proof.Machine.execLmInserted k serial s
  | .lmPulled k => Sys2Proof.Machine.execLmPulled k s
  | .eloSessClose h slot => Sys2Proof.Machine.execEloSessClose h slot s
  | .avClear h => Sys2Proof.Machine.execAvClear h s
  | .relRelease h core => Sys2Proof.Machine.execRelRelease h core s
  | .psInstall h => Sys2Proof.Machine.execPsInstall h s
  | .psActivate h => Sys2Proof.Machine.execPsActivate h s
  | .psRollback h => Sys2Proof.Machine.execPsRollback h s
  | .psActionDone => Sys2Proof.Machine.execPsActionDone s
  | .testSlice h n => Sys2Proof.Machine.execTestSlice h n s
  | .testStack h n => Sys2Proof.Machine.execTestStack h n s
  | .unitTestDone u pass => Sys2Proof.Machine.execUnitTestDone u pass s
  | .sealUnits h => Sys2Proof.Machine.execSealUnits h s
  | .fwInstall h => Sys2Proof.Machine.execFwInstall h s
  | .fwActivate h => Sys2Proof.Machine.execFwActivate h s
  | .svnCommit h => Sys2Proof.Machine.execSvnCommit h s
  | .fwActionDone => Sys2Proof.Machine.execFwActionDone s
  | .rtLoad h slot => Sys2Proof.Machine.execRtLoad h slot s
  | .rtDecrypt h slot => Sys2Proof.Machine.execRtDecrypt h slot s
  | .rtEncrypt h slot => Sys2Proof.Machine.execRtEncrypt h slot s
  | .rtDrop h slot => Sys2Proof.Machine.execRtDrop h slot s
  | .rtActionDone => Sys2Proof.Machine.execRtActionDone s
  | .anchorClear h => Sys2Proof.Machine.execAnchorClear h s
  | .warmReset h => Sys2Proof.Machine.execWarmReset h s
  | .coldReset h => Sys2Proof.Machine.execColdReset h s
  | .modResetNAssert => Sys2Proof.Machine.execModResetNAssert s
  | .watchdogExpiry => Sys2Proof.Machine.execWatchdogExpiry s
  | .coreHandshakeFail c repl => Sys2Proof.Machine.execCoreHandshakeFail c repl s
  | .sliceHandshakeFail k => Sys2Proof.Machine.execSliceHandshakeFail k s
  | .remirrorDone => Sys2Proof.Machine.execRemirrorDone s
  | .stackHandshakeFail k => Sys2Proof.Machine.execStackHandshakeFail k s
  | .spareRestoreDone r => Sys2Proof.Machine.execSpareRestoreDone r s
  | .ecsReadTick k count => Sys2Proof.Machine.execEcsReadTick k count s
  | .hbmTempTick k tempC hot => Sys2Proof.Machine.execHbmTempTick k tempC hot s
  | .linkHello p f m => Sys2Proof.Machine.execLinkHello p f m s
  | .keyMsg p f m => Sys2Proof.Machine.execKeyMsg p f m s
  | .keyUpdate p f m => Sys2Proof.Machine.execKeyUpdate p f m s
  | .ringState p f m => Sys2Proof.Machine.execRingState p f m s
  | .wState p f m => Sys2Proof.Machine.execWState p f m s
  | .credit p f => Sys2Proof.Machine.execCredit p f s
  | .echo p f m => Sys2Proof.Machine.execEcho p f m s
  | .echoReply p f m rttNs => Sys2Proof.Machine.execEchoReply p f m rttNs s
  | .nak p f => Sys2Proof.Machine.execNak p f s
  | .idleFlit p f => Sys2Proof.Machine.execIdleFlit p f s
  | .flitErrored p e => Sys2Proof.Machine.execFlitErrored p e s
  | .retryTmo p => Sys2Proof.Machine.execRetryTmo p s
  | .creditReturnTimer p => Sys2Proof.Machine.execCreditReturnTimer p s
  | .portLossOfLight p light => Sys2Proof.Machine.execPortLossOfLight p light s
  | .berInterval p errors bits => Sys2Proof.Machine.execBerInterval p errors bits s
  | .trainingRetry p => Sys2Proof.Machine.execTrainingRetry p s
  | .collPacketForward p f k => Sys2Proof.Machine.execCollPacketForward p f k s
  | .collOpen p f k waitNs => Sys2Proof.Machine.execCollOpen p f k waitNs s
  | .collData p f k waitNs => Sys2Proof.Machine.execCollData p f k waitNs s
  | .collReady p f k waitNs => Sys2Proof.Machine.execCollReady p f k waitNs s
  | .collReadyConditions group job seq => Sys2Proof.Machine.execCollReadyConditions group job seq s
  | .collCommit p f k waitNs => Sys2Proof.Machine.execCollCommit p f k waitNs s
  | .collEnd p f k waitNs => Sys2Proof.Machine.execCollEnd p f k waitNs s
  | .collReport p f k => Sys2Proof.Machine.execCollReport p f k s
  | .collRetry p f k waitNs => Sys2Proof.Machine.execCollRetry p f k waitNs s
  | .collProbe p f k => Sys2Proof.Machine.execCollProbe p f k s
  | .collProbeReply p f k => Sys2Proof.Machine.execCollProbeReply p f k s
  | .collLength p f k waitNs => Sys2Proof.Machine.execCollLength p f k waitNs s
  | .collStallTimer group job seq rank => Sys2Proof.Machine.execCollStallTimer group job seq rank s
  | .estimateTick r => Sys2Proof.Machine.execEstimateTick r s
  | .measureSample r => Sys2Proof.Machine.execMeasureSample r s
  | .calibrationTick sumM sumLoad => Sys2Proof.Machine.execCalibrationTick sumM sumLoad s
  | .measAbsentTimeout => Sys2Proof.Machine.execMeasAbsentTimeout s
  | .measFaultClear => Sys2Proof.Machine.execMeasFaultClear s
  | .estimatorUntrusted => Sys2Proof.Machine.execEstimatorUntrusted s
  | .estimatorTrusted => Sys2Proof.Machine.execEstimatorTrusted s
  | .fallbackEnter => Sys2Proof.Machine.execFallbackEnter s
  | .fallbackExit => Sys2Proof.Machine.execFallbackExit s
  | .islandDroop isl cycles => Sys2Proof.Machine.execIslandDroop isl cycles s
  | .droopLimit isl => Sys2Proof.Machine.execDroopLimit isl s
  | .droopStepExpire isl => Sys2Proof.Machine.execDroopStepExpire isl s
  | .thermalSample temps => Sys2Proof.Machine.execThermalSample temps s
  | .retreatStageA vin20mv => Sys2Proof.Machine.execRetreatStageA vin20mv s
  | .retreatStageB vin20mv => Sys2Proof.Machine.execRetreatStageB vin20mv s
  | .retreatLeaveB vin20mv => Sys2Proof.Machine.execRetreatLeaveB vin20mv s
  | .retreatRecover vin20mv => Sys2Proof.Machine.execRetreatRecover vin20mv s
  | .retreatStageC vin20mv => Sys2Proof.Machine.execRetreatStageC vin20mv s
  | .modPwrEnAssert failing => Sys2Proof.Machine.execModPwrEnAssert failing s
  | .bootStepDeadline failing => Sys2Proof.Machine.execBootStepDeadline failing s
  | .vinOvervoltage => Sys2Proof.Machine.execVinOvervoltage s
  | .vinOvervoltageClear => Sys2Proof.Machine.execVinOvervoltageClear s
  | .auxPowerPresent => Sys2Proof.Machine.execAuxPowerPresent s
  | .auxPowerLost => Sys2Proof.Machine.execAuxPowerLost s
  | .guideLockstepMismatch => Sys2Proof.Machine.execGuideLockstepMismatch s
  | .guideSelfTestDone passA passB => Sys2Proof.Machine.execGuideSelfTestDone passA passB s
  | .guideCoreFail => Sys2Proof.Machine.execGuideCoreFail s
  | .probeRunStart c => Sys2Proof.Machine.execProbeRunStart c s
  | .probePointDone c skipped res prev => Sys2Proof.Machine.execProbePointDone c skipped res prev s
  | .probeRunAbandon c => Sys2Proof.Machine.execProbeRunAbandon c s
  | .hotWaitExpiry c => Sys2Proof.Machine.execHotWaitExpiry c s
  | .escCntDecay c => Sys2Proof.Machine.execEscCntDecay c s
  | .bottomTreeDone => Sys2Proof.Machine.execBottomTreeDone s
  | .summitBatch => Sys2Proof.Machine.execSummitBatch s
  | .summitCheckpoint => Sys2Proof.Machine.execSummitCheckpoint s
  | .mgmtSetRead addr nwords => Sys2Proof.Machine.execMgmtSetRead addr nwords s
  | .mgmtGetRead => Sys2Proof.Machine.execMgmtGetRead s
  | .mgmtReadReady => Sys2Proof.Machine.execMgmtReadReady s
  | .inputPowerLost => Sys2Proof.Machine.execInputPowerLost s
  | .modPwrOkAssert failing => Sys2Proof.Machine.execModPwrOkAssert failing s
  | .modResetNDeassert => Sys2Proof.Machine.execModResetNDeassert s
  | .offHoldExpiry => Sys2Proof.Machine.execOffHoldExpiry s
  | .laneLock p errors bits => Sys2Proof.Machine.execLaneLock p errors bits s
  | .hostPortUp p => Sys2Proof.Machine.execHostPortUp p s
  | .laserModuleFault k => Sys2Proof.Machine.execLaserModuleFault k s
  | .linkKeyLimit p => Sys2Proof.Machine.execLinkKeyLimit p s
  | .checkpointComplete => Sys2Proof.Machine.execCheckpointComplete s
  | .probeOverdue c => Sys2Proof.Machine.execProbeOverdue c s
  | .malformedDatagram port => Sys2Proof.Machine.execMalformedDatagram port s

end Sys2Proof.Machine
end

