-- ==== Sys2Proof/Safety.lean ====
section
/-! DEFINITION. What counts as a safe run: every step answers a next state. The S4 has no machine fault (Fault is never
raised), so a run stops only at a command that is not modelled, and there is none. -/
namespace Sys2Proof.Safety
open Sys2Proof.Machine

/-- A step from s answers a next state. -/
def Runs (s : State) : Prop := ∃ t, step s = .next t

/-- The first n steps from s answer next states. -/
def RunsFor : Nat → State → Prop
  | 0, _ => True
  | n + 1, s => ∃ t, step s = .next t ∧ RunsFor n t

end Sys2Proof.Safety
end

