-- ==== Sys2Proof/Certificates/Slice0/Obligations.lean ====
section
/-! DEFINITION. The statements for the provers, one `Obligations.<Name>` each, by family of commands. `Claims` holds the
premises and expected states that several of them share. -/
namespace Sys2Proof.Claims
open Sys2Proof.Machine

/-- Core k takes the instruction of word w and executes it: it runs, nothing stalls it, its program counter lies in TEXT, the
predicate of w is true (R180, R181). -/
def Takes (k : Core) (w : GWord) : Prop := k.canIssue = true ∧ k.inText = true ∧ k.passes w = true

/-- An outcome of a command. -/
abbrev Out := Host.Outcome State Fault Refusal

/-- Core c becomes k; nothing else of the state changes. -/
def only (s : State) (c : CoreId) (k : Core) : Out := .next { s with cores := s.cores.set c k }

/-- The core after an instruction that writes general register r: the next ISEQ, the program counter 8 further, and r (R179:
a write to g0 is discarded); nothing else of the core changes. -/
def wrote (k : Core) (r : BitVec 5) (v : Word) : Core :=
  { k with iseq := k.iseq + 1, pc := k.pc + 8, g := if r = 0 then k.g else k.g.set r.toNat v r.isLt }

/-- The same for predicate register r; a write to p0 is discarded (R179). -/
def wroteP (k : Core) (r : BitVec 3) (v : Bool) : Core :=
  { k with iseq := k.iseq + 1, pc := k.pc + 8, p := if r = 0 then k.p else k.p.set r.toNat v r.isLt }

/-- The same for an instruction that writes no register. -/
def stepped (k : Core) : Core := { k with iseq := k.iseq + 1, pc := k.pc + 8 }

/-- The same for one that goes to a target. -/
def wentTo (k : Core) (t : Int) : Core := { k with iseq := k.iseq + 1, pc := BitVec.ofInt 22 t }

/-- A branch target that R224 allows: a multiple of 8 inside TEXT. -/
def Reaches (k : Core) (t : Int) : Prop :=
  t % 8 = 0 ∧ ∃ p, k.prog = some p ∧ (p.textLo : Int) ≤ t ∧ t + 8 ≤ (p.textLo : Int) + p.textLen

/-- The trap of an instruction that a core issues: TRAP_PC and TRAP_SEQ name it, the scalar unit is UNIT 0. -/
def trapped (s : State) (c : CoreId) (t : TrapC) : Out :=
  let k := s.core c
  .next ((s.setCore c (({ k with iseq := k.iseq + 1 }).trap t 0 k.pc (k.iseq + 1))).settle c)

end Sys2Proof.Claims

open Sys2Proof Sys2Proof.Machine Sys2Proof.Claims

/-! ### The queue of commands -/

/-- A step takes the command at the front of the queue and runs exactly it on the state with the queue's rest. -/
def Obligations.StepRunsFrontCommand : Prop :=
  (∀ (c : Instr) (rest : List Instr) (s : State), s.pending = c :: rest →
    step s = exec c { s with pending := rest }) ∧
  (∀ s : State, s.pending = [] → ∃ t, step s = .next t)

/-! ### Gybel words -/

/-- The word of a Gybel instruction decodes to it, whatever its 53 operand bits, on the core that fetched it; a load comes
back without the parity observations, which no word carries. -/
def Sys2Proof.Claims.GybelDecodeOfEncode : Prop :=
  ∀ (i : Instr) (x : Word), encodeGybel i = some x →
    ∃ c, decodeGybel c x = some (match i with
      | .memLd c w _ _ => .memLd c w [] none
      | .memLds c w _ _ => .memLds c w [] none
      | j => j)

/-- Every word that decodes is the encoding of what it decodes to: no bit of it is dropped. -/
def Sys2Proof.Claims.GybelEncodeOfDecode : Prop :=
  ∀ (c : CoreId) (x : Word) (i : Instr), decodeGybel c x = some i → encodeGybel i = some x

/-- Encoding and decoding of Gybel words are inverse to each other: no bit of an encoding is dropped. -/
def Obligations.GybelRoundTrip : Prop :=
  Claims.GybelDecodeOfEncode ∧ Claims.GybelEncodeOfDecode

/-- Words written out from the encodings of R213 to R263 decode to the instruction they stand for, with its operand bits. -/
def Obligations.GybelWordsDecode : Prop :=
  ∀ c : CoreId,
    decodeGybel c 0x0000000000000000 = some (.ctlNop c 0) ∧
    decodeGybel c 0x1001111D20200000 = some (.dmaCopy c 0x1111D20200000) ∧
    decodeGybel c 0x1420009000000001 = some (.syncQwait c 0x9000000001) ∧
    decodeGybel c 0x0880000CFFFFFFFB = some (.brDec c 0xCFFFFFFFB) ∧
    decodeGybel c 0x2801130000000000 = some (.vecChain c 0x1130000000000) ∧
    decodeGybel c 0x20212140402B5000 = some (.macStep c 0x12140402B5000) ∧
    decodeGybel c 0x1800000000000000 = none

/-! ### alu -/

/-- The binary operations of alu, from exact arithmetic on the two operands: RD takes the result, g0 discards it, and nothing
else of the S4 changes but ISEQ and the program counter. -/
def Obligations.ArithmeticWritesDestination : Prop :=
  ∀ (c : CoreId) (w : GWord) (s : State), Takes (s.core c) w → scalarSig w = true → aluLegal w = true →
    let k := s.core c
    let a := k.rg (aluRa w)
    let b := aluB w k
    let n := b.toNat % 64
    let rd (v : Word) : Out := only s c (wrote k (aluRd w) v)
    exec (.aluAdd c w) s = rd (BitVec.ofNat 64 (a.toNat + b.toNat)) ∧
    exec (.aluSub c w) s = rd (BitVec.ofInt 64 (a.toInt - b.toInt)) ∧
    exec (.aluAnd c w) s = rd (a &&& b) ∧
    exec (.aluOr c w) s = rd (a ||| b) ∧
    exec (.aluXor c w) s = rd (a ^^^ b) ∧
    exec (.aluShl c w) s = rd (BitVec.ofNat 64 (a.toNat * 2 ^ n)) ∧
    exec (.aluShr c w) s = rd (BitVec.ofNat 64 (a.toNat / 2 ^ n)) ∧
    exec (.aluSra c w) s = rd (BitVec.ofInt 64 (a.toInt / 2 ^ n)) ∧
    exec (.aluMul c w) s = rd (BitVec.ofNat 64 (a.toNat * b.toNat)) ∧
    exec (.aluMulh c w) s = rd (BitVec.ofInt 64 (a.toInt * b.toInt / 2 ^ 64)) ∧
    exec (.aluMulhu c w) s = rd (BitVec.ofNat 64 (a.toNat * b.toNat / 2 ^ 64)) ∧
    exec (.aluMin c w) s = rd (BitVec.ofInt 64 (min a.toInt b.toInt)) ∧
    exec (.aluMax c w) s = rd (BitVec.ofInt 64 (max a.toInt b.toInt)) ∧
    exec (.aluMinu c w) s = rd (BitVec.ofNat 64 (min a.toNat b.toNat)) ∧
    exec (.aluMaxu c w) s = rd (BitVec.ofNat 64 (max a.toNat b.toNat))

/-- `alu.li` writes the sign-extended immediate, or with HALF the upper half of RD; `alu.clz` and `alu.popc` write a count:
leading zeros n of a non-zero word bound it by 2^(63 - n) and 2^(64 - n). -/
def Obligations.ImmediateAndCountsWriteDestination : Prop :=
  ∀ (c : CoreId) (w : GWord) (s : State), Takes (s.core c) w → scalarSig w = true →
    let k := s.core c
    let a := k.rg (aluRa w)
    (aluI w = true → zeroAt w 33 4 = true → exec (.aluLi c w) s = only s c (wrote k (aluRd w)
      (if w.getLsbD 37 then BitVec.ofNat 64 ((k.rg (aluRd w)).toNat % 2 ^ 32 + (fld w 0 32).toNat * 2 ^ 32)
       else (fld w 0 32).signExtend 64))) ∧
    (zeroAt w 0 33 = true →
      (∃ n : Nat, exec (.aluClz c w) s = only s c (wrote k (aluRd w) (BitVec.ofNat 64 n)) ∧
        (a = 0 → n = 64) ∧ (a ≠ 0 → n < 64 ∧ 2 ^ (63 - n) ≤ a.toNat ∧ a.toNat < 2 ^ (64 - n))) ∧
      exec (.aluPopc c w) s =
        only s c (wrote k (aluRd w) (BitVec.ofNat 64 (((List.range 64).filter fun i => a.getLsbD i).length))))

/-- The compares and the predicate operations write PD and nothing else; p0 discards. -/
def Obligations.ComparesWritePredicate : Prop :=
  ∀ (c : CoreId) (w : GWord) (s : State), Takes (s.core c) w → scalarSig w = true →
    let k := s.core c
    let a := k.rg (aluRa w)
    let b := aluB w k
    let pa := k.rp (fld w 33 3)
    let pb := k.rp (fld w 27 3)
    let pd (v : Bool) : Out := only s c (wroteP k (aluPd w) v)
    (aluLegal w = true → zeroAt w 41 2 = true →
      exec (.aluCmpEq c w) s = pd (decide (a = b)) ∧
      exec (.aluCmpNe c w) s = pd (decide (a ≠ b)) ∧
      exec (.aluCmpLt c w) s = pd (decide (a.toInt < b.toInt)) ∧
      exec (.aluCmpGe c w) s = pd (decide (b.toInt ≤ a.toInt)) ∧
      exec (.aluCmpLtu c w) s = pd (decide (a.toNat < b.toNat)) ∧
      exec (.aluCmpGeu c w) s = pd (decide (b.toNat ≤ a.toNat))) ∧
    (aluI w = false → zeroAt w 41 2 = true → zeroAt w 36 2 = true → zeroAt w 30 2 = true → zeroAt w 0 27 = true →
      exec (.aluPand c w) s = pd (pa && pb) ∧
      exec (.aluPor c w) s = pd (pa || pb) ∧
      exec (.aluPxor c w) s = pd (xor pa pb) ∧
      exec (.aluPandn c w) s = pd (pa && !pb))

/-- g0 reads zero and p0 reads one in every state, whatever an instruction wrote to them. -/
def Obligations.RegisterZeroIsHardwired : Prop :=
  ∀ (k : Core) (v : Word) (b : Bool), (wrote k 0 v).rg 0 = 0 ∧ (wrote k 0 v).g = k.g ∧
    (wroteP k 0 b).rp 0 = true ∧ (wroteP k 0 b).p = k.p ∧
    (∀ r : BitVec 5, r ≠ 0 → (wrote k r v).rg r = v) ∧
    (∀ r q : BitVec 5, q ≠ r → (wrote k r v).rg q = k.rg q) ∧
    (∀ r : BitVec 3, r ≠ 0 → (wroteP k r b).rp r = b) ∧
    (∀ r q : BitVec 3, q ≠ r → (wroteP k r b).rp q = k.rp q)

/-! ### Special registers -/

/-- `alu.mfsr` reads a special register that no tile owns at once; a tile register is read when no earlier instruction that
names the tile is left, and until then the scalar unit stalls. -/
def Sys2Proof.Claims.SpecialRegisterReads : Prop :=
  ∀ (c : CoreId) (w : GWord) (s : State), Takes (s.core c) w → scalarSig w = true → srLegal w = true → zeroAt w 33 5 = true →
    let k := s.core c
    (srTile (srIdx w) = none → exec (.aluMfsr c w) s = only s c (wrote k (aluRd w) (k.mfsr (srIdx w)))) ∧
    (∀ n, srTile (srIdx w) = some n →
      (k.tileIdle n (k.iseq + 1) = true → exec (.aluMfsr c w) s = only s c (wrote k (aluRd w) (k.mfsr (srIdx w)))) ∧
      (k.tileIdle n (k.iseq + 1) = false → exec (.aluMfsr c w) s =
        only s c { stepped k with stall := some (.tileRead (srIdx w) (aluRd w).toFin (k.iseq + 1)) }))

/-- What `alu.mtsr` does to each register the scalar unit writes at issue: WAIT_LIMIT is raised to its lowest value, SEED,
SR_STREAM and CHK_RESIDUE take the value, read-only registers ignore it. The others go through the queues of their engines. -/
def Sys2Proof.Claims.SpecialRegisterWrites : Prop :=
  ∀ (c : CoreId) (w : GWord) (s : State), Takes (s.core c) w → srLegal w = true → zeroAt w 38 5 = true →
    let k := s.core c
    let v := k.rg (aluRa w)
    let k' := stepped k
    (scalarSig w = true →
      (srIdx w = 0x07 → exec (.aluMtsr c w) s = only s c { k' with waitLimit := BitVec.ofNat 32 (max 0x10000 (v.toNat % 2 ^ 32)) }) ∧
      (srIdx w = 0x0E → exec (.aluMtsr c w) s = only s c { k' with seed := v }) ∧
      (srIdx w = 0x0F → exec (.aluMtsr c w) s = only s c { k' with srStream := v.extractLsb' 0 32 }) ∧
      (srIdx w = 0x59 → exec (.aluMtsr c w) s = only s c { k' with chkResidue := v }) ∧
      (srIdx w ∈ [0x00#8, 0x01, 0x02, 0x03, 0x04, 0x05, 0x06, 0x0C, 0x58] → exec (.aluMtsr c w) s = only s c k')) ∧
    (∀ q, srQueues (srIdx w) = [q] → queuedSig w = true → k.room q = true →
      exec (.aluMtsr c w) s = only s c (k'.setQueue q (k.queue q ++ [k'.entry (.mtsr (srIdx w) v) k.pc w])))

/-- `alu.mfsr` and `alu.mtsr`: reads, writes at issue, and writes that enter the queues of their engines. -/
def Obligations.SpecialRegisterMoves : Prop :=
  Claims.SpecialRegisterReads ∧ Claims.SpecialRegisterWrites

/-- A flag register write clears the bits written as 1 and no others; clearing NONFIN of FLAGS_ACC clears NONFIN_POS, and
an engine's own additions stay inside the flags it can set. -/
def Obligations.FlagsAreStickyAndWriteOneClears : Prop :=
  ∀ (k : Core) (e : Engine) (v f : BitVec 16),
    (k.clearFlags e v).flags[e.idx] = k.flags[e.idx] &&& ~~~v ∧
    (∀ j : Fin 4, j ≠ e.idx → (k.clearFlags e v).flags[j] = k.flags[j] ∧ (k.addFlags e f).flags[j] = k.flags[j]) ∧
    (k.addFlags e f).flags[e.idx] = k.flags[e.idx] ||| (f &&& e.mask) ∧
    (k.clearFlags e v).nonfinPos = (if e = .acc ∧ v &&& fNonfin ≠ 0 then 0 else k.nonfinPos) ∧
    (∀ p : BitVec 32, (k.recordNonfin p).nonfinPos = (if k.flags[1] &&& fNonfin = 0 then p else k.nonfinPos) ∧
      (k.recordNonfin p).flags[1] = k.flags[1] ||| (fNonfin &&& Engine.mask .acc))

/-! ### ctl and br -/

/-- `ctl.nop` and `ctl.phase`; `ctl.trap` takes the software trap with its VAL; `ctl.halt` waits until every issued
instruction has completed, and then halts the core. -/
def Sys2Proof.Claims.ControlInstructions : Prop :=
  ∀ (c : CoreId) (w : GWord) (s : State), Takes (s.core c) w → scalarSig w = true → ctlLegal w = true →
    let k := s.core c
    let h := s.setCore c { stepped k with stall := some (.halt (valOf w) (k.iseq + 1)) }
    (valOf w = 0 → exec (.ctlNop c w) s = only s c (stepped k)) ∧
    exec (.ctlPhase c w) s = only s c { stepped k with phase := valOf w } ∧
    exec (.ctlTrap c w) s = trapped s c ⟨4, valOf w, 0xF⟩ ∧
    (valOf w = 0 ∨ 0x8000 ≤ (valOf w).toNat →
      (k.drained = false → exec (.ctlHalt c w) s = .next h) ∧
      (k.drained = true → exec (.ctlHalt c w) s = .next (h.coreHalt c (valOf w))))

/-- A halt leaves the core halted with its status; a non-zero one decides the status of the command, and the last zero one
lets the command go on to its end. -/
def Sys2Proof.Claims.HaltStopsCore : Prop :=
  ∀ (s : State) (c : CoreId) (st : Status), let t := s.markHalt c st
    (t.core c).run = .halted ∧ (t.core c).haltStatus = some st ∧ (t.core c).stall = none ∧ (t.core c).trapping = none ∧
    (∀ c' : CoreId, c' ≠ c → t.core c' = s.core c') ∧ t.mem = s.mem ∧
    (∀ p, (s.core c).prog = some p → p.probe = none →
      s.coreHalt c st = (if st ≠ 0 then t.doomCmd p.key st else t.conclude p.key))

/-- ctl, and what a halt does to its core. -/
def Obligations.ControlAndHalt : Prop :=
  Claims.ControlInstructions ∧ Claims.HaltStopsCore

/-- Branches go to a target that is a multiple of 8 inside TEXT; calls write the address of the next instruction, after RA
was read; `br.dec` counts RA down and falls through at zero. -/
def Sys2Proof.Claims.BranchesGoToTarget : Prop :=
  ∀ (c : CoreId) (w : GWord) (s : State), Takes (s.core c) w → scalarSig w = true →
    let k := s.core c
    let rel : Int := (k.pc.toNat : Int) + 8 * (fld w 0 32).toInt
    let ra := (k.rg (brRa w)).toNat
    let link (t : Int) : Core := { wentTo k t with g := (wrote k (brRd w) ((k.pc + 8).zeroExtend 64)).g }
    (zeroAt w 32 11 = true → Reaches k rel → exec (.brRel c w) s = only s c (wentTo k rel)) ∧
    (zeroAt w 38 5 = true → zeroAt w 0 33 = true → Reaches k ra → exec (.brReg c w) s = only s c (wentTo k ra)) ∧
    (zeroAt w 32 6 = true → Reaches k rel → exec (.brCall c w) s = only s c (link rel)) ∧
    (zeroAt w 0 33 = true → Reaches k ra → exec (.brCallr c w) s = only s c (link ra)) ∧
    (zeroAt w 38 5 = true → zeroAt w 32 1 = true → brRa w ≠ 0 →
      (k.rg (brRa w) = 1 → exec (.brDec c w) s = only s c (wrote k (brRa w) 0)) ∧
      (k.rg (brRa w) ≠ 1 → Reaches k rel → exec (.brDec c w) s =
        only s c { wentTo k rel with g := (wrote k (brRa w) (k.rg (brRa w) - 1)).g }))

/-- A taken branch to a target that is no multiple of 8 traps with 0x0003, and to one outside TEXT with 0x000D. -/
def Sys2Proof.Claims.BranchesTrapOnBadTarget : Prop :=
  ∀ (c : CoreId) (w : GWord) (s : State), Takes (s.core c) w → scalarSig w = true →
    let k := s.core c
    let rel : Int := (k.pc.toNat : Int) + 8 * (fld w 0 32).toInt
    let ra : Int := (k.rg (brRa w)).toNat
    let bad (t : Int) : Out := trapped s c (if t % 8 = 0 then dataTrap 0xD else dataTrap 0x3)
    (zeroAt w 32 11 = true → ¬ Reaches k rel → exec (.brRel c w) s = bad rel) ∧
    (zeroAt w 38 5 = true → zeroAt w 0 33 = true → ¬ Reaches k ra → exec (.brReg c w) s = bad ra) ∧
    (zeroAt w 32 6 = true → ¬ Reaches k rel → exec (.brCall c w) s = bad rel) ∧
    (zeroAt w 0 33 = true → ¬ Reaches k ra → exec (.brCallr c w) s = bad ra) ∧
    (zeroAt w 38 5 = true → zeroAt w 32 1 = true → brRa w ≠ 0 → k.rg (brRa w) ≠ 1 → ¬ Reaches k rel →
      exec (.brDec c w) s = bad rel)

/-- The branches: where each goes, what it writes, and the trap of a bad target. -/
def Obligations.BranchTargets : Prop :=
  Claims.BranchesGoToTarget ∧ Claims.BranchesTrapOnBadTarget

/-! ### mem -/

/-- `mem.ld` and `mem.lds` write RT with the bytes at the effective address, least significant first, zero- or sign-extended,
after the parity checks the word met, those of words that read bad among them; an access outside the ledge traps with 0x0002, a misaligned one with 0x0003. -/
def Obligations.LoadsReadLedge : Prop :=
  ∀ (c : CoreId) (w : GWord) (s : State) (obs : List FaultObs) (repl : Option CoreId),
    Takes (s.core c) w → scalarSig w = true → memLegal w = true →
    let k := s.core c
    let ea := memEa k w
    let n := memSize w
    let e := (stepped k).entry .chkSig k.pc w
    let s1 := s.setCore c { stepped k with armed := k.armed.set 2 0 }
    let inj := s1.coreInject c e repl 2 k.armed[2]
    let fin := if inj.2 then inj else inj.1.coreObsAll c e repl [] ((inj.1.core c).badLedgeObs [(ea, n)] ++ obs)
    let v := ((fin.1.core c).ledge.readLe ea n)
    let done (x : Word) : Out := if fin.2 then .next fin.1 else .next (fin.1.setCore c ((fin.1.core c).wg (memRt w) x))
    (ea + n ≤ ledgeSize → ea % n = 0 →
      exec (.memLd c w obs repl) s = done (BitVec.ofNat 64 v) ∧
      exec (.memLds c w obs repl) s = done (BitVec.ofInt 64 (if 2 * v < 2 ^ (8 * n) then v else (v : Int) - 2 ^ (8 * n))) ∧
      (obs = [] → k.armed[2] = 0 → k.badLedgeObs [(ea, n)] = [] →
        exec (.memLd c w obs repl) s = only s c (wrote k (memRt w) (BitVec.ofNat 64 (k.ledge.readLe ea n))))) ∧
    (¬ ea + n ≤ ledgeSize → exec (.memLd c w obs repl) s = trapped s c (dataTrap 0x2) ∧
      exec (.memLds c w obs repl) s = trapped s c (dataTrap 0x2)) ∧
    (ea + n ≤ ledgeSize → ea % n ≠ 0 → exec (.memLd c w obs repl) s = trapped s c (dataTrap 0x3) ∧
      exec (.memLds c w obs repl) s = trapped s c (dataTrap 0x3))

/-- `mem.st` stores the low bytes of RT, least significant first, at the effective address, and no other byte of the ledge
and nothing else of the S4 changes, but that the words written no longer read bad; a store into a read-only section or an active spill area traps. -/
def Obligations.StoreWritesExactlyItsBytes : Prop :=
  ∀ (c : CoreId) (w : GWord) (s : State), Takes (s.core c) w → scalarSig w = true → memLegal w = true →
    let k := s.core c
    let ea := memEa k w
    let n := memSize w
    (ea + n ≤ ledgeSize → ea % n = 0 →
      (anyOverlap [(ea, n)] k.readOnly = false → anyOverlap [(ea, n)] k.spillAreas = false →
        ∃ m : Memory, exec (.memSt c w) s = only s c ({ stepped k with ledge := m }.wroteLedge [(ea, n)]) ∧
          (∀ i, i < n → m.read8 (ea + i) = (k.rg (memRt w)).extractLsb' (8 * i) 8) ∧
          (∀ a, a < ea ∨ ea + n ≤ a → m.read8 a = k.ledge.read8 a) ∧
          (k.ledge.wf = true → m.wf = true)) ∧
      (anyOverlap [(ea, n)] k.readOnly = true → exec (.memSt c w) s = trapped s c (dataTrap 0xB)) ∧
      (anyOverlap [(ea, n)] k.readOnly = false → anyOverlap [(ea, n)] k.spillAreas = true →
        exec (.memSt c w) s = trapped s c (dataTrap 0x8))) ∧
    (¬ ea + n ≤ ledgeSize → exec (.memSt c w) s = trapped s c (dataTrap 0x2)) ∧
    (ea + n ≤ ledgeSize → ea % n ≠ 0 → exec (.memSt c w) s = trapped s c (dataTrap 0x3))

/-- `mem.drd` reads word W of a descriptor; `mem.dadd` advances PAY_ADDR modulo 2^48 and changes no other field; `mem.dwr` and
`mem.dld` load a descriptor that passes the field checks of R194, and trap on one that does not, naming it. -/
def Sys2Proof.Claims.DescriptorAccess : Prop :=
  ∀ (c : CoreId) (w : GWord) (s : State), Takes (s.core c) w → scalarSig w = true →
    let k := s.core c
    let dn := memDn w
    let put (d : Desc) : Out := only s c { stepped k with d := k.d.set dn.toNat d dn.isLt }
    let ea := memEa k w
    (zeroAt w 37 1 = true → zeroAt w 0 31 = true →
      exec (.memDrd c w) s = only s c (wrote k (memRt w) ((k.rd (fld w 33 4))[(fld w 31 2).toNat]'(fld w 31 2).isLt))) ∧
    (zeroAt w 42 1 = true → zeroAt w 0 33 = true →
      ∃ d : Desc, exec (.memDadd c w) s = put d ∧ Desc.pay d = (Desc.pay (k.rd dn) + (k.rg (fld w 33 5)).toNat) % 2 ^ 48 ∧
        d[0].extractLsb' 48 16 = (k.rd dn)[0].extractLsb' 48 16 ∧ d[1] = (k.rd dn)[1] ∧ d[2] = (k.rd dn)[2] ∧
        d[3] = (k.rd dn)[3]) ∧
    (zeroAt w 42 1 = true → zeroAt w 0 31 = true →
      let d := (k.rd dn).set (fld w 31 2).toNat (k.rg (fld w 33 5)) (fld w 31 2).isLt
      exec (.memDwr c w) s = (if Desc.ok d then put d else trapped s c (descTrap 0x1 dn))) ∧
    (zeroAt w 42 1 = true → zeroAt w 24 9 = true → ea + 32 ≤ ledgeSize → ea % 32 = 0 → k.badLedgeObs [(ea, 32)] = [] →
      let d := descAt k.ledge ea
      exec (.memDld c w) s = (if Desc.ok d then put d else trapped s c (descTrap 0x1 dn)))

/-- `mem.dst` stores the 32 bytes of a descriptor where they may be written; `mem.dld` of them gives the descriptor back. -/
def Sys2Proof.Claims.DescriptorStore : Prop :=
  ∀ (c : CoreId) (w : GWord) (s : State), Takes (s.core c) w → scalarSig w = true → zeroAt w 42 1 = true →
    zeroAt w 24 9 = true →
    let k := s.core c
    let ea := memEa k w
    ea + 32 ≤ ledgeSize → ea % 32 = 0 →
    anyOverlap [(ea, 32)] k.readOnly = false → anyOverlap [(ea, 32)] k.spillAreas = false →
      ∃ m : Memory, exec (.memDst c w) s = only s c ({ stepped k with ledge := m }.wroteLedge [(ea, 32)]) ∧ descAt m ea = k.rd (memDn w) ∧
        (∀ a, a < ea ∨ ea + 32 ≤ a → m.read8 a = k.ledge.read8 a)

/-- The descriptor instructions of mem. -/
def Obligations.DescriptorLoadsAndStores : Prop :=
  Claims.DescriptorAccess ∧ Claims.DescriptorStore

/-! ### sync -/

/-- `sync.wait` takes its count when it is there and no earlier waiter stands before it, else the scalar unit stalls;
`sync.sinc` adds to a semaphore, `sync.sset` sets it once no issued signaller is left, `sync.fence` passes when the queues of
its mask have completed. Nothing else changes. -/
def Sys2Proof.Claims.SemaphoresAndFences : Prop :=
  ∀ (c : CoreId) (w : GWord) (s : State), Takes (s.core c) w → scalarSig w = true →
    let k := s.core c
    let q := k.iseq + 1
    let sem := k.sem[semOf w]
    let set (v : BitVec 16) : Out := only s c { stepped k with sem := k.sem.set (semOf w) v }
    let stall (x : Stall) : Out := only s c { stepped k with stall := some x }
    (zeroAt w 16 22 = true → kOf w ≠ 0 →
      (kOf w ≤ sem → k.earlierWaiter (semOf w) q = false → exec (.syncWait c w) s = set (sem - kOf w)) ∧
      (¬ (kOf w ≤ sem) ∨ k.earlierWaiter (semOf w) q = true → exec (.syncWait c w) s = stall (.semWait (semOf w) (kOf w) q)) ∧
      (sem.toNat + (kOf w).toNat ≤ 65535 → exec (.syncSinc c w) s = set (sem + kOf w))) ∧
    (zeroAt w 16 22 = true →
      (k.setWaits (semOf w) q = false → exec (.syncSset c w) s = set (kOf w)) ∧
      (k.setWaits (semOf w) q = true → exec (.syncSset c w) s = stall (.sset (semOf w) (kOf w) q))) ∧
    (zeroAt w 35 8 = true → zeroAt w 0 29 = true → fld w 29 6 ≠ 0 →
      (k.fenceDone (fld w 29 6) = true → exec (.syncFence c w) s = only s c (stepped k)) ∧
      (k.fenceDone (fld w 29 6) = false → exec (.syncFence c w) s = stall (.fence (fld w 29 6) q)))

/-- A semaphore sum above 65,535 leaves the semaphore at 65,535 and takes the sync trap. -/
def Sys2Proof.Claims.SemaphoreOverflowTraps : Prop :=
  ∀ (c : CoreId) (w : GWord) (s : State), Takes (s.core c) w → scalarSig w = true → zeroAt w 16 22 = true →
    let k := s.core c
    65535 < (k.sem[semOf w]).toNat + (kOf w).toNat →
      exec (.syncSinc c w) s = .next ((s.setCore c
        (({ stepped k with sem := k.sem.set (semOf w) 0xFFFF }).trap syncTrap 0 k.pc (k.iseq + 1))).settle c)

/-- The semaphore and fence instructions of sync, with the overflow of `sync.sinc`. -/
def Obligations.SemaphoresFencesAndOverflow : Prop :=
  Claims.SemaphoresAndFences ∧ Claims.SemaphoreOverflowTraps

/-- `sync.mwait` passes when the counter word has reached the value and stalls until it has; a word outside the job's Base
Camp regions traps with 0x0002, a misaligned one with 0x0003. `sync.rpoint` stalls until its record is in the journal. -/
def Obligations.CounterWaitsAndReplayPoints : Prop :=
  ∀ (c : CoreId) (w : GWord) (s : State), Takes (s.core c) w → scalarSig w = true → zeroAt w 29 14 = true →
    let k := s.core c
    let a : Addr48 := (k.rg (fld w 24 5)).extractLsb' 0 48
    let v := k.rg (fld w 19 5)
    let user := (s.env k.job).user a.toNat 8
    (zeroAt w 0 19 = true →
      (user = true → a.toNat % 8 = 0 → s.ctl.badObs [(a.toNat, 8)] = [] →
        (v.toNat ≤ s.mem.readLe a.toNat 8 → exec (.syncMwait c w) s = only s c (stepped k)) ∧
        (s.mem.readLe a.toNat 8 < v.toNat → exec (.syncMwait c w) s =
          only s c { stepped k with stall := some (.mwait a v (k.iseq + 1)) })) ∧
      (user = false → exec (.syncMwait c w) s = trapped s c (dataTrap 0x2)) ∧
      (user = true → a.toNat % 8 ≠ 0 → exec (.syncMwait c w) s = trapped s c (dataTrap 0x3))) ∧
    (zeroAt w 0 24 = true → exec (.syncRpoint c w) s =
      only s c { stepped k with stall := some (.rpoint ((k.rg (fld w 24 5)).extractLsb' 0 32) (k.iseq + 1)) })

/-! ### chk at issue -/

/-- `chk.probe` reads whether a probe run runs the program, and its number; `chk.inject` arms a fault where R236 allows it and
answers 1 in RD, else arms nothing and answers 0. -/
def Obligations.ProbeHooks : Prop :=
  ∀ (c : CoreId) (w : GWord) (s : State), Takes (s.core c) w → scalarSig w = true →
    let k := s.core c
    (zeroAt w 0 38 = true →
      (∀ p n, k.prog = some p → p.probe = some n →
        exec (.chkProbe c w) s = only s c (wrote k (fld w 38 5) (BitVec.ofNat 64 (2 ^ 32 + n.toNat)))) ∧
      (∀ p, k.prog = some p → p.probe = none → exec (.chkProbe c w) s = only s c (wrote k (fld w 38 5) 0))) ∧
    (zeroAt w 0 33 = true → zeroAt w 37 1 = true → fld w 33 2 ≠ 0 →
      exec (.chkInject c w) s = (if s.mayInject k (fld w 33 2) then
        only s c { wrote k (fld w 38 5) 1 with armed := k.armed.set (fld w 35 2).toNat (fld w 33 2) (fld w 35 2).isLt }
      else only s c (wrote k (fld w 38 5) 0)))

/-! ### Instructions that enter a queue -/

/-- A queued instruction that issues enters its queue at the tail, not yet started, with the general registers, descriptors,
SEED, SR_STREAM and PHASE copied as they stand; its reserved fields must be zero. Nothing else changes. -/
def Sys2Proof.Claims.QueuedInstructionsEnterTheirQueue : Prop :=
  ∀ (c : CoreId) (w : GWord) (s : State), Takes (s.core c) w → queuedSig w = true →
    let k := s.core c
    let enters (i : Instr) (q : QueueId) (op : QOp) : Prop := k.room q = true →
      exec i s = only s c ((stepped k).setQueue q (k.queue q ++
        [{ op := op, iseq := k.iseq + 1, pc := k.pc, w := w, g := k.g, d := k.d, seed := k.seed, srStream := k.srStream
           phase := k.phase, chain := [], started := false, inj := 0, data := [] }]))
    (dmaRule w = true → zeroAt w 0 21 = true → enters (.dmaCopy c w) .dma .dmaCopy) ∧
    (dmaRule w = true → zeroAt w 0 6 = true → enters (.dmaCopy2d c w) .dma .dmaCopy2d) ∧
    (dmaRule w = true → zeroAt w 39 4 = true → zeroAt w 0 16 = true → enters (.dmaFill c w) .dma .dmaFill) ∧
    (zeroAt w 0 28 = true → zeroAt w 38 1 = true → enters (.chkSig c w) .dma .chkSig) ∧
    (zeroAt w 16 19 = true → kOf w ≠ 0 → ∀ q, queueOf w = some q → enters (.syncQwait c w) q .qwait) ∧
    (zeroAt w 0 30 = true → enters (.macWload c w) .mac .macWload) ∧
    (zeroAt w 8 3 = true → enters (.macStep c w) .mac .macStep) ∧
    (preloadLegal w = true → enters (.accPreload c w) .acc .accPreload) ∧
    (zeroAt w 8 22 = true → enters (.accSadd c w) .acc .accSadd) ∧
    (zeroAt w 0 39 = true → enters (.accSpill c w) .acc .accSpill ∧ enters (.accFree c w) .acc .accFree) ∧
    (drainLegal w = true → enters (.accDrain c w) .acc .accDrain) ∧
    (encodeLegal w = true → enters (.qntEncode c w) .qnt .qntEncode) ∧
    (zeroAt w 0 35 = true → enters (.qntCbload c w) .qnt .qntCbload) ∧
    (zeroAt w 0 24 = true → enters (.qntAdapt c w) .qnt .qntAdapt) ∧
    (zeroAt w 0 38 = true → enters (.qntSdump c w) .qnt .qntSdump) ∧
    (collLegal w = true → zeroAt w 30 4 = true → enters (.collSend c w) .coll .collSend) ∧
    (collLegal w = true → zeroAt w 34 4 = true → enters (.collRecv c w) .coll .collRecv) ∧
    (collLegal w = true → enters (.collXchg c w) .coll .collXchg)

/-- `vec.chain` copies the 256 bytes of its descriptor at issue and enters the VEC queue with them when the chain passes its
checks; a descriptor that is not 64-byte aligned traps with 0x0003, one outside the ledge with 0x0002. -/
def Sys2Proof.Claims.ChainIsCopiedAtIssue : Prop :=
  ∀ (c : CoreId) (w : GWord) (s : State), Takes (s.core c) w → queuedSig w = true → zeroAt w 0 30 = true →
    let k := s.core c
    let a := (k.rg (fld w 38 5)).toNat % 2 ^ 22
    k.room .vec = true →
    (a % 64 ≠ 0 → exec (.vecChain c w) s = trapped s c (dataTrap 0x3)) ∧
    (a % 64 = 0 → ¬ a + 256 ≤ ledgeSize → exec (.vecChain c w) s = trapped s c (dataTrap 0x2)) ∧
    (a % 64 = 0 → a + 256 ≤ ledgeSize →
      let bs := k.ledge.readBytes a 256
      let e := (stepped k).entry .vecChain k.pc w
      checkChain (stepped k) (s.env k.job) e (parseChain bs) = .ok () →
        exec (.vecChain c w) s = only s c ((stepped k).setQueue .vec (k.queue .vec ++ [{ e with chain := bs }])))

/-- No instruction issues while its queue holds 16: the state does not change. -/
def Sys2Proof.Claims.FullQueueStallsIssue : Prop :=
  ∀ (c : CoreId) (w : GWord) (s : State), Takes (s.core c) w → queuedSig w = true →
    let full (q : QueueId) : Prop := 16 ≤ ((s.core c).queue q).length
    (full .dma → zeroAt w 0 28 = true → zeroAt w 38 1 = true → exec (.chkSig c w) s = .next s) ∧
    (full .mac → zeroAt w 0 30 = true → exec (.macWload c w) s = .next s) ∧
    (full .acc → zeroAt w 0 39 = true → exec (.accFree c w) s = .next s) ∧
    (full .vec → zeroAt w 0 30 = true → exec (.vecChain c w) s = .next s) ∧
    (full .qnt → zeroAt w 0 38 = true → exec (.qntSdump c w) s = .next s) ∧
    (full .coll → collLegal w = true → exec (.collXchg c w) s = .next s)

/-- Issue into the unit queues: the entry made, the copy of a chain descriptor, and the stall on a full queue. -/
def Obligations.QueuedIssue : Prop :=
  Claims.QueuedInstructionsEnterTheirQueue ∧ Claims.ChainIsCopiedAtIssue ∧ Claims.FullQueueStallsIssue

/-! ### Every Gybel instruction -/

/-- A word of TEXT that no instruction has, with a reserved MAJOR or MINOR, takes the illegal-instruction trap whatever its
predicate; every other word is the command that it decodes to. -/
def Sys2Proof.Claims.ReservedOpcodesTrap : Prop :=
  ∀ (c : CoreId) (x : Word) (s : State),
    (∀ i, decodeGybel c x = some i → fetchCommand c x = i) ∧
    (decodeGybel c x = none → (s.core c).canIssue = true → (s.core c).inText = true →
      exec (fetchCommand c x) s = trapped s c illegal)

/-- Whatever instruction a word spells: with a false predicate it changes nothing but ISEQ and the program counter of its
core, unless a reserved field is set, which traps first. On a core that cannot issue nothing changes, and a fetch outside
TEXT traps with 0x000D. -/
def Sys2Proof.Claims.PredicateGates : Prop :=
  ∀ (c : CoreId) (x : Word) (i : Instr) (s : State), decodeGybel c x = some i →
    let k := s.core c
    let w : GWord := x.extractLsb' 0 53
    (k.canIssue = false → exec i s = .next s) ∧
    (k.canIssue = true → k.inText = false → exec i s = trapped s c (dataTrap 0xD)) ∧
    (k.canIssue = true → k.inText = true → k.passes w = false →
      exec i s = only s c (stepped k) ∨ exec i s = trapped s c illegal)

/-- Every word of a program: the predicate, the fetch outside TEXT, and the trap of a reserved opcode. -/
def Obligations.PredicateGatesEveryInstruction : Prop :=
  Claims.PredicateGates ∧ Claims.ReservedOpcodesTrap

/-- Taking a trap: the first since the last reset or load is recorded in TRAPINFO, TRAP_PC and TRAP_SEQ and a later one is
not; issue stops; queued instructions that have not started and are not older are discarded, armed injections too; the core
goes to its handler, or to a halt with TRAP_STATUS where it has none or already runs it. -/
def Sys2Proof.Claims.TrapEntry : Prop :=
  ∀ (k : Core) (t : TrapC) (u : BitVec 3) (pc : BitVec 22) (i : BitVec 48) (p : Prog), k.prog = some p →
    let r := k.trap t u pc i
    (k.trapInfo.extractLsb' 0 4 = 0 → r.trapInfo.extractLsb' 0 4 = t.cls ∧ r.trapInfo.extractLsb' 4 3 = u ∧
      r.trapInfo.extractLsb' 8 16 = t.sub ∧ r.trapInfo.extractLsb' 24 4 = t.desc ∧ r.trapInfo.extractLsb' 28 36 = 0 ∧
      r.trapPc = pc ∧ r.trapSeq = i) ∧
    (k.trapInfo.extractLsb' 0 4 ≠ 0 → r.trapInfo = k.trapInfo ∧ r.trapPc = k.trapPc ∧ r.trapSeq = k.trapSeq) ∧
    r.canIssue = false ∧ r.stall = none ∧ (∀ j : Fin 4, r.armed[j] = 0) ∧
    (∀ q : QueueId, ∀ e, e ∈ r.queue q ↔ e ∈ k.queue q ∧ (e.started = true ∨ e.iseq < i)) ∧
    (k.trapping = none → r.trapping = some (if k.run = .handler ∨ p.trapEntry = 0 then .halt p.trapStatus else .handler)) ∧
    r.g = k.g ∧ r.p = k.p ∧ r.d = k.d ∧ r.sem = k.sem ∧ r.ledge = k.ledge ∧ r.tiles = k.tiles ∧ r.run = k.run ∧ r.pc = k.pc

/-! ### Queues -/

/-- The entry at the front of what a queue may start passes its checks and is marked started, taking the armed injection of its
kind and keeping what it reads at its start; one that fails a check leaves its queue and traps. A transfer starts as a flow of transit capacity besides. A collective
instruction opens its operation instead. -/
def Obligations.QueueStart : Prop :=
  ∀ (c : CoreId) (q : QueueId) (s : State) (e : QEntry), (s.core c).nextStart q = some e →
    let k := s.core c
    (∀ t, q ≠ .coll → s.run c q e = .ok t →
      ∃ k' fl, exec (.queueStart c q) s = .next { s with cores := s.cores.set c k', ctl := { s.ctl with flows := s.ctl.flows ++ fl } } ∧
        (q ≠ .dma → fl = []) ∧ fl.length ≤ 1 ∧ (∀ f ∈ fl, f.core = c ∧ f.iseq = e.iseq) ∧ k'.g = k.g ∧ k'.ledge = k.ledge ∧ k'.tiles = k.tiles ∧ k'.sem = k.sem ∧
        (∀ p, p ≠ q → k'.queue p = k.queue p) ∧ (k'.queue q).length = (k.queue q).length ∧
        (∀ x ∈ k'.queue q, x.iseq = e.iseq → x.started = true ∧ (e.op = .qntCbload ∨ e.op = .qntAdapt → x.data = e.atStart k)) ∧
        (∀ x ∈ k'.queue q, x.iseq ≠ e.iseq → x ∈ k.queue q)) ∧
    (∀ t, q ≠ .coll → s.run c q e = .error t →
      exec (.queueStart c q) s = .next ((s.setCore c ((k.dropEntry q e.iseq).trap t (qUnit q) e.pc e.iseq)).afterEntry c)) ∧
    (∀ t, q = .coll → isMove e = false → s.collStart c e = .ok t → exec (.queueStart c q) s = .next t)

/-- A started instruction whose operation met no fault completes: its effect, then it leaves its queue and signals its
semaphore; it is not checked a second time. A collective instruction completes when its operation has ended. -/
def Sys2Proof.Claims.QueueCompletion : Prop :=
  ∀ (c : CoreId) (q : QueueId) (n : Nat) (repl : Option CoreId) (s : State) (e : QEntry),
    ((s.core c).queue q)[n]? = some e → e.started = true →
    s.ctl.badObs (e.devReads (s.core c) (s.env (s.core c).job)) = [] → (s.core c).badLedgeObs (e.ledgeReads (s.core c)) = [] →
    ((q ≠ .coll ∨ isMove e = true) → e.inj = 0 →
      exec (.queueComplete c q n [] repl) s = .next ((s.perform c q e).leaveQueue c q e)) ∧
    (∀ p, q = .coll → isMove e = false → (s.ctl.coll.past.find? fun o => o.core = some c ∧ o.waiting) = some p → p.status = stOK →
      ∃ s1 : State, exec (.queueComplete c q n [] repl) s = .next (s1.leaveQueue c q e) ∧ s1.cores = s.cores ∧
        s1.mem = s.mem ∧ s1.ctl.coll.ops = s.ctl.coll.ops ∧ s1.ctl.regs = s.ctl.regs)

/-- The effect of an entry is the one that its start checks allow, with the bytes that it read at its start; what a transfer wrote goes to the copies of anchored pages and
is no longer bad, and so are the ledge words that it wrote. -/
def Sys2Proof.Claims.EffectIsTheCheckedOne : Prop :=
  ∀ (c : CoreId) (q : QueueId) (s t : State) (e : QEntry), e.data = e.atStart (s.core c) → s.run c q e = .ok t →
    let u := match e.op with
      | .dmaCopy | .dmaCopy2d | .dmaFill => t.wrote (e.devWrites (s.env (s.core c).job))
      | _ => t
    s.perform c q e = u.setCore c ((u.core c).wroteLedge e.ledgeWrites)

/-- An entry that leaves its queue with SIG set adds 1 to its semaphore, in the core's own queue and semaphores only. -/
def Sys2Proof.Claims.CompletionSignalsSemaphore : Prop :=
  ∀ (k : Core) (q : QueueId) (e : QEntry), sigBit e.w = true →
    let k' := (k.dropEntry q e.iseq).signalIf e.w (qUnit q) e.pc e.iseq
    let i := (ssem e.w).toFin
    (k.sem[i] ≠ 0xFFFF → k'.sem[i] = k.sem[i] + 1 ∧ (∀ j, j ≠ i → k'.sem[j] = k.sem[j]) ∧
      (∀ x ∈ k'.queue q, x.iseq ≠ e.iseq) ∧ k'.trapping = k.trapping) ∧
    (k.sem[i] = 0xFFFF → k'.sem = k.sem ∧ k'.trapping ≠ none)

/-- A write of a special register that went through a queue takes effect when its entry completes. -/
def Sys2Proof.Claims.QueuedRegisterWriteTakesEffect : Prop :=
  ∀ (c : CoreId) (q : QueueId) (s : State) (e : QEntry) (idx : BitVec 8) (v : Word), e.op = .mtsr idx v →
    let k := s.core c
    ∃ t, s.run c q e = .ok t ∧
      (idx ≠ 0x0D → t = s.setCore c (k.mtsr idx v)) ∧
      (idx = 0x0D → (t.core c).fpq[qIdx q] = rmodeWrite k.fpq[qIdx q] v ∧
        (∀ j, j ≠ qIdx q → (t.core c).fpq[j] = k.fpq[j]) ∧ t.mem = s.mem ∧ t.ctl = s.ctl ∧ (t.core c).queues = k.queues)

/-- A queued instruction completes: its effect, its signal, and the register writes that queues carry. -/
def Obligations.CompletionOfQueuedInstructions : Prop :=
  Claims.QueueCompletion ∧ Claims.EffectIsTheCheckedOne ∧ Claims.CompletionSignalsSemaphore ∧ Claims.QueuedRegisterWriteTakesEffect

/-- Waits end when what they wait for is there, and not before (R186 to R189): a wait entry and a stalled `sync.wait` take their
count, a `sync.sset` sets its semaphore, a fence and a wait for a counter word pass; each release changes only its core. -/
def Sys2Proof.Claims.WaitsEndWhenSatisfied : Prop :=
  ∀ (c : CoreId) (s : State), let k := s.core c
    -- completion: each release does its work
    (∀ q e, k.headWait q = some e → kOf e.w ≤ k.sem[semOf e.w] → k.earlierWaiter (semOf e.w) e.iseq = false →
      exec (.qwaitConsume c q) s =
        .next ((s.setCore c { k with sem := k.sem.set (semOf e.w) (k.sem[semOf e.w] - kOf e.w) }).leaveQueue c q e)) ∧
    (∀ m n i, k.stall = some (.semWait m n i) → n ≤ k.sem[m] → k.earlierWaiter m i = false →
      exec (.syncWaitRelease c) s = only s c { k with sem := k.sem.set m (k.sem[m] - n), stall := none }) ∧
    (∀ m v i, k.stall = some (.sset m v i) → k.setWaits m i = false →
      exec (.ssetApply c) s = only s c { k with sem := k.sem.set m v, stall := none }) ∧
    (∀ m i, k.stall = some (.fence m i) → k.fenceDone m = true →
      exec (.fenceRelease c) s = only s c { k with stall := none }) ∧
    (∀ a v i, k.stall = some (.mwait a v i) → s.ctl.badObs [(a.toNat, 8)] = [] → v.toNat ≤ s.mem.readLe a.toNat 8 →
      exec (.mwaitRelease c) s = only s c { k with stall := none }) ∧
    -- and nothing happens before what is awaited is there
    (∀ q e, k.headWait q = some e → ¬ (kOf e.w ≤ k.sem[semOf e.w] ∧ k.earlierWaiter (semOf e.w) e.iseq = false) →
      exec (.qwaitConsume c q) s = .next s) ∧
    (∀ m n i, k.stall = some (.semWait m n i) → ¬ (n ≤ k.sem[m] ∧ k.earlierWaiter m i = false) →
      exec (.syncWaitRelease c) s = .next s) ∧
    (∀ m v i, k.stall = some (.sset m v i) → k.setWaits m i = true → exec (.ssetApply c) s = .next s) ∧
    (∀ m i, k.stall = some (.fence m i) → k.fenceDone m = false → exec (.fenceRelease c) s = .next s) ∧
    (∀ a v i, k.stall = some (.mwait a v i) → s.ctl.badObs [(a.toNat, 8)] = [] → s.mem.readLe a.toNat 8 < v.toNat →
      exec (.mwaitRelease c) s = .next s)

/-- A recorded replay point must exceed every earlier one of its logical index: then it is kept for the command, and the
core goes on; else the data trap 0x000E is taken. -/
def Sys2Proof.Claims.ReplayPointIsRecorded : Prop :=
  ∀ (c : CoreId) (s : State) (n : BitVec 32) (i : BitVec 48) (p : Prog) (m : Cmd),
    (s.core c).stall = some (.rpoint n i) → (s.core c).prog = some p → p.probe = none → (s.core c).drained = true →
    s.cmd? p.key = some m →
    ((∀ r ∈ m.rpoints, r.1 = p.logical → r.2 < n) →
      ∃ t, exec (.rpointRecorded c) s = .next t ∧ (t.core c) = { s.core c with stall := none } ∧ t.mem = s.mem ∧
        t.cmd? p.key = some { m with rpoints := (m.rpoints.filter fun r => r.1 ≠ p.logical) ++ [(p.logical, n)] } ∧
        t.ctl.jnl.jseq = s.ctl.jnl.jseq + 1) ∧
    (∀ r, (m.rpoints.find? fun r => r.1 = p.logical) = some r → n ≤ r.2 →
      exec (.rpointRecorded c) s =
        .next ((s.setCore c ((s.core c).trap ⟨2, 0xE, 0xF⟩ 0 ((s.core c).pc - 8) i)).settle c))

/-- The releases of the waits of a core, and the record of a replay point. -/
def Obligations.WaitReleases : Prop :=
  Claims.WaitsEndWhenSatisfied ∧ Claims.ReplayPointIsRecorded

/-- A wait of the scalar unit that passes WAIT_LIMIT takes the sync trap, named by its own ISEQ and program counter; one at the
head of a queue leaves the queue and traps in that unit. -/
def Sys2Proof.Claims.WaitLimitTakesSyncTrap : Prop :=
  ∀ (c : CoreId) (s : State), let k := s.core c
    (∀ x i, k.stall = some x → x.limited = some i →
      exec (.waitLimitExpiry c .scalar) s = .next ((s.setCore c (k.trap ⟨3, 0, 0xF⟩ 0 (k.pc - 8) i)).settle c)) ∧
    (∀ q e, k.headWait q = some e → exec (.waitLimitExpiry c (.queue q)) s =
      .next ((s.setCore c ((k.dropEntry q e.iseq).trap ⟨3, 0, 0xF⟩ (qUnit q) e.pc e.iseq)).afterEntry c))

/-- The trap handler starts at the image's entry once nothing is left in the queues, with the registers as the trap left
them; until then nothing happens. -/
def Sys2Proof.Claims.HandlerEntry : Prop :=
  ∀ (c : CoreId) (s : State) (p : Prog), let k := s.core c
    k.trapping = some .handler → k.prog = some p →
      (k.idleQueues = true → exec (.trapHandlerEntry c) s = only s c { k with run := .handler, pc := p.trapEntry, trapping := none }) ∧
      (k.idleQueues = false → exec (.trapHandlerEntry c) s = only s c k)

/-- A core that is to halt after a trap (in its handler, or without one: `TrapEntry`) halts once nothing is left in its queues,
with TRAP_STATUS, and not before. -/
def Sys2Proof.Claims.TrapHaltsAfterDrain : Prop :=
  ∀ (s : State) (c : CoreId) (st : Status), (s.core c).trapping = some (.halt st) →
    ((s.core c).idleQueues = true → s.settle c = s.coreHalt c st) ∧
    ((s.core c).idleQueues = false → s.settle c = s)

/-- Taking a trap, the halt that follows where no handler runs, the trap of a wait that passes WAIT_LIMIT, and the start of the
handler. -/
def Obligations.TrapsAndHandler : Prop :=
  Claims.TrapEntry ∧ Claims.TrapHaltsAfterDrain ∧ Claims.WaitLimitTakesSyncTrap ∧ Claims.HandlerEntry

/-- The first background spill of a tile stores each FP32 element, widened to FP64, at 8 bytes per element of its spill area,
and the tile's SPILLED bit is set; the tile's elements and counters are not touched. What its checks met comes first; where that
ends the operation, the spill leaves the engine and the spill area keeps its bytes. -/
def Sys2Proof.Claims.FirstSpillStoresElements : Prop :=
  ∀ (c : CoreId) (s : State) (obs : List FaultObs) (repl : Option CoreId) (j : SpillJob) (js : List SpillJob),
    (s.core c).spills = j :: js →
    let t0 := (s.core c).tiles[j.tile]
    let rs := if t0.spillBase then [(t0.spillAddr.toNat, 0x20000)] else []
    let own := if t0.spillBase then [] else [(t0.spillAddr.toNat, 0x20000)]
    let met := s.coreObsAll c (j.entry (s.core c)) repl rs
      ((if t0.spilled then s.ctl.badObs rs ++ (s.core c).badLedgeObs own else []) ++ obs)
    let m := met.1
    let k := m.core c
    (met.2 = true → exec (.spillBackgroundDone ⟨c, obs, repl⟩) s =
      .next ((m.setCore c { k with spills := k.spills.drop 1 }).settle c)) ∧
    (met.2 = false → ∀ rest, k.spills = j :: rest → k.tiles[j.tile] = t0 → t0.spilled = false → t0.spillBase = true →
      k.stall = none → k.trapping = none →
      let a := t0.spillAddr.toNat
      bcBase ≤ a →
      ∃ t, exec (.spillBackgroundDone ⟨c, obs, repl⟩) s = .next t ∧ (t.core c).spills = rest ∧
        (t.core c).tiles[j.tile] = { k.tiles[j.tile] with spilled := true } ∧
        (∀ x, x < a ∨ a + 0x20000 ≤ x → t.mem.read8 x = m.mem.read8 x) ∧
        (∀ i, i < 16384 → t.mem.readLe (a + 8 * i) 8 = (fpConvert fp32 fp64 .rne false (KMap.get 0 j.elems i).toNat).1 % 2 ^ 64) ∧
        (t.core c).ledge = k.ledge ∧ t.ctl = { m.ctl with bad := m.ctl.bad.filter fun w => !wordIn [(a, 0x20000)] w })

/-! ### What the units do -/

/-- `dma.fill` repeats the element's low bytes over its destination, and changes no other byte of the ledge and of device
memory but its counter word. -/
def Sys2Proof.Claims.FillRepeatsElement : Prop :=
  ∀ (k : Core) (v : Env) (e : QEntry) (r : DmaRes), effFill k v e = .ok r →
    let d := e.rd (fld e.w 35 4)
    let sz := fmtSize d.fmt
    let x := (e.rg (fld e.w 16 5)).toNat
    let cnt := counterOf e (fld e.w 29 5)
    let inside (a : Nat) : Prop := d.pay ≤ a ∧ a < d.pay + d.count * sz
    (d.space = 0 → (∀ a, inside a → (r.core.ledge.read8 a).toNat = x / 2 ^ (8 * ((a - d.pay) % sz)) % 256) ∧
      (∀ a, ¬ inside a → r.core.ledge.read8 a = k.ledge.read8 a) ∧ r.mem = addCounter v.mem cnt (fld e.w 21 8).toNat) ∧
    (d.space ≠ 0 → r.core = k ∧ (cnt = none →
      (∀ a, inside a → (r.mem.read8 a).toNat = x / 2 ^ (8 * ((a - d.pay) % sz)) % 256) ∧
      (∀ a, ¬ inside a → r.mem.read8 a = v.mem.read8 a))) ∧
    (v.mem.wf = true → k.ledge.wf = true → r.mem.wf = true ∧ r.core.ledge.wf = true)

/-- `dma.copy` of a plain stream copies the payload bytes, here into the ledge, and changes no other byte of it; device memory
changes in the counter word only, which gains CINC modulo 2^64. -/
def Sys2Proof.Claims.CopyMovesPayload : Prop :=
  ∀ (k : Core) (v : Env) (e : QEntry) (r : DmaRes), effCopy k v e = .ok r →
    let s := e.rd (fld e.w 39 4)
    let d := e.rd (fld e.w 35 4)
    let n := d.count * fmtSize d.fmt
    d.space = 0 → fmtPlain d.fmt = true →
      (∀ i, i < n → r.core.ledge.read8 (d.pay + i) = (if s.space = 0 then k.ledge else v.mem).read8 (s.pay + i)) ∧
      (∀ a, a < d.pay ∨ d.pay + n ≤ a → r.core.ledge.read8 a = k.ledge.read8 a) ∧
      (∀ a, counterOf e (fld e.w 29 5) = some a →
        r.mem.readLe a 8 = (v.mem.readLe a 8 + (fld e.w 21 8).toNat) % 2 ^ 64) ∧
      (counterOf e (fld e.w 29 5) = none → r.mem = v.mem)

/-- Where device memory lies: the map of HBM gives each byte a place of its own on twelve stacks, so that twelve pages in a row
lie on twelve stacks; a written range whose bytes have a second copy elsewhere reads the same in both. -/
def Sys2Proof.Claims.MemoryMapAndCopies : Prop :=
  (∀ a b : Nat, hbmMap a = hbmMap b → a = b) ∧ (∀ a : Nat, (hbmMap a).1 < 12) ∧
  (∀ p i j : Nat, i < 12 → j < 12 → stackOfPage (p + i) = stackOfPage (p + j) → i = j) ∧
  (∀ (s : State) (a n q : Nat), s.ctl.copiesOf (a, n) = [(a, q, n)] → q + n ≤ a ∨ a + n ≤ q → let t := s.wrote [(a, n)]
    (∀ i, i < n → t.mem.read8 (q + i) = s.mem.read8 (a + i) ∧ t.mem.read8 (a + i) = s.mem.read8 (a + i)) ∧
    (∀ x, x < q ∨ q + n ≤ x → t.mem.read8 x = s.mem.read8 x))

/-- Traffic passes the slices in service of its own base dies, spread over all of them; no slice holds more than its transit
capacity, and one that is out of service or on another die holds none of it. -/
def Sys2Proof.Claims.TransitSlices : Prop :=
  ∀ (c : Ctl) (dies : List Nat) (bytes : Nat),
    (∀ n, n ∈ c.transitSlices dies ↔ n < 32 ∧ n / 8 ∈ dies ∧ c.sliceState n = 0) ∧
    (∀ n, n ∉ c.transitSlices dies → c.shareOf dies bytes n = 0) ∧
    (c.transitSlices dies ≠ [] → bytes ≤ ((c.transitSlices dies).map (c.shareOf dies bytes)).sum) ∧
    (∀ n, c.transitUsed n ≤ c.transitMib n) ∧
    (∀ n, n < 12 → (Traffic.stack n).dies = [n / 3]) ∧ (∀ p : MPort, (Traffic.mport p).dies = [p.val / 4])

/-- The DMA effects on memory: a fill and a copy, byte for byte; where the bytes of HBM lie, and the slices they pass. -/
def Obligations.TransfersMoveBytes : Prop :=
  Claims.FillRepeatsElement ∧ Claims.CopyMovesPayload ∧ Claims.MemoryMapAndCopies ∧ Claims.TransitSlices

/-- An array step changes its tile, the spill queue and the flags of MAC and ACC of its core, and nothing else. -/
def Obligations.ArrayStepFrame : Prop :=
  ∀ (k r : Core) (v : Env) (e : QEntry), effStep k v e = .ok r →
    let n := tileOf (fld e.w 39 4)
    r = { k with tiles := r.tiles, spills := r.spills, flags := r.flags } ∧
    (∀ m : Fin 16, m ≠ n → r.tiles[m] = k.tiles[m]) ∧
    r.flags[2] = k.flags[2] ∧ r.flags[3] = k.flags[3] ∧
    (k.tiles[n].mode = .standard → (k.tiles[n]).ssteps ≠ (k.tiles[n]).spillN →
      r.spills = k.spills ∧ (r.tiles[n]).ssteps = (k.tiles[n]).ssteps + 1 ∧ (r.tiles[n]).t = (k.tiles[n]).t + 1 ∧
      (r.tiles[n]).terms.toNat = min 0x80000000 ((k.tiles[n]).terms.toNat + 128)) ∧
    (k.tiles[n].mode = .standard → (k.tiles[n]).ssteps = (k.tiles[n]).spillN →
      r.spills = k.spills ++ [⟨n, (k.tiles[n]).elems, e.op, e.iseq⟩] ∧ (r.tiles[n]).ssteps = 1)

/-- A column of products is summed exactly and rounded once: a NaN, or infinities of both signs, give the default NaN with
INVALID; one infinity gives it; an exact zero gives +0 without a flag. -/
def Obligations.ColumnSumIsRoundedOnce : Prop :=
  ∀ ps : List FVal,
    ((∃ p ∈ ps, p.isNan = true) ∨ (.inf true ∈ ps ∧ .inf false ∈ ps) → columnStep ps = (fp32.nanBits, fInvalid)) ∧
    ((∀ p ∈ ps, p.isNan = false) → ∀ n, FVal.inf n ∈ ps → FVal.inf (!n) ∉ ps → columnStep ps = (encodeInf fp32 n, 0)) ∧
    ((∀ p ∈ ps, p.isNonfin = false) → (ps.map FVal.toRat).sum = 0 → columnStep ps = (0, 0)) ∧
    ((∀ p ∈ ps, p.isNonfin = false) → (ps.map FVal.toRat).sum ≠ 0 →
      columnStep ps = roundRne fp32 (FVal.ofRat (ps.map FVal.toRat).sum)) ∧
    (∀ qs : List FVal, List.Perm ps qs → columnStep qs = columnStep ps)

/-- The Fixed-Rope sum of an element does not depend on the order of its terms while it stays inside its range: finite terms
whose rounded sizes add up to less than 2^127 give the same integer in every order. -/
def Obligations.FixedRopeSumIgnoresOrder : Prop :=
  ∀ (A V : Int) (ts us : List FVal), List.Perm ts us → (∀ t ∈ ts, ∃ n m, t = FVal.num n m) →
    let size (t : FVal) : Nat := (roundToInt .rne (t.toRat * pow2 (-A))).1.natAbs
    V.natAbs + (ts.map size).sum < 2 ^ 127 →
      (frAddAll A V ts).1 = (frAddAll A V us).1 ∧
      (frAddAll A V ts).1 = V + (ts.map fun t => (roundToInt .rne (t.toRat * pow2 (-A))).1).sum

/-- `acc.free` and `acc.spill`: the freed tile, or all four slots of a Fixed-Rope tile, become FREE; a spill hands the elements
to the spill engine and the tile restarts at +0 with SSTEPS 0, or traps 0x000B where its ledge spill area lies in a read-only
section (log 152, the model's choice); a slot that is a member of a Fixed-Rope tile traps 0x0008. -/
def Sys2Proof.Claims.TileFreeAndSpill : Prop :=
  ∀ (k : Core) (e : QEntry), let n := tileOf (fld e.w 39 4)
    let t := k.tiles[n]
    (t.mode = .frMember → effFree k e = .error (dataTrap 0x8)) ∧
    (t.mode = .standard → effFree k e = .ok { k with tiles := k.tiles.set n { t with mode := .free } }) ∧
    (t.mode = .fixedRope → ∃ r, effFree k e = .ok r ∧ (∀ m : Fin 16, (r.tiles[m]).mode =
      (if m.val / 4 = n.val / 4 then .free else (k.tiles[m]).mode)) ∧ r.ledge = k.ledge ∧ r.flags = k.flags) ∧
    (t.mode = .standard → t.ssteps ≠ 0 →
      effSpill k e = (if t.spillBase = false ∧ anyOverlap [(t.spillAddr.toNat, 0x20000)] k.readOnly = true then
        .error (dataTrap 0xB)
      else .ok { k with tiles := k.tiles.set n { t with elems := [], ssteps := 0 },
                        spills := k.spills ++ [⟨n, t.elems, e.op, e.iseq⟩] })) ∧
    (t.mode = .standard → t.ssteps = 0 → effSpill k e = .ok k) ∧
    (t.mode ≠ .standard → effSpill k e = .error (dataTrap 0x8))

/-- `acc.free`, `acc.spill` and the background part of a spill. -/
def Obligations.TileFreeSpillAndBackground : Prop :=
  Claims.FirstSpillStoresElements ∧ Claims.TileFreeAndSpill

/-- `qnt.sdump` writes the 48-byte statistics block and clears the statistics; `qnt.cbload` loads the pair it checked.
`qnt.sdump` traps when its ledge range is misaligned (0x0003) or outside the ledge (0x0002), `qnt.cbload` on a pair that fails the
check of R69 as log 145 reads it, the model's choice (0x0006). -/
def Obligations.StatisticsDumpAndCodebookLoad : Prop :=
  ∀ (k : Core) (e : QEntry),
    let a := e.ledgeOff (fld e.w 38 5)
    let b := e.ledgeOff (fld e.w 35 5)
    (a % 8 = 0 → a + 48 ≤ ledgeSize → anyOverlap [(a, 48)] k.readOnly = false → anyOverlap [(a, 48)] k.spillAreas = false →
      ∃ r, effSdump k e = .ok r ∧ r = { k with ledge := r.ledge, qs := QStats.reset } ∧ r.ledge.readLe a 8 = k.qs.sse.toNat ∧
        r.ledge.readLe (a + 16) 8 = k.qs.nelem.toNat ∧ r.ledge.readLe (a + 44) 4 = k.qs.nodrop.toNat ∧
        (∀ x, x < a ∨ a + 48 ≤ x → r.ledge.read8 x = k.ledge.read8 x)) ∧
    (a % 8 ≠ 0 → effSdump k e = .error (dataTrap 0x3)) ∧
    (a % 8 = 0 → ¬ a + 48 ≤ ledgeSize → effSdump k e = .error (dataTrap 0x2)) ∧
    (b % 16 = 0 → b + 288 ≤ ledgeSize → cbOk (k.ledge.readBytes b 288) = true →
      ∃ r, effCbload k e = .ok r ∧ r = { k with cb := r.cb } ∧
        (∀ i, i < 288 → (r.cb[(fld e.w 40 3).toNat]'(fld e.w 40 3).isLt).read8 i = k.ledge.read8 (b + i))) ∧
    (b % 16 = 0 → b + 288 ≤ ledgeSize → cbOk (k.ledge.readBytes b 288) = false → effCbload k e = .error (dataTrap 0x6))

/-! ### Messages of a host -/

namespace Sys2Proof.Claims

/-- The S4 hears a message of an open session: the port is UP and receives, the frame holds, the session exists, the header's
reserved bits are zero and its version is the session's (R393 to R399). -/
def Heard (s : State) (h : MsgHdr) (slot : Nat) (ses : Session) : Prop :=
  s.ctl.listens h.port = true ∧ s.ctl.frameLost h = none ∧ s.ctl.sessionById h.session = some (slot, ses) ∧
  hdrZero h = true ∧ h.ver = ses.ver

/-- The message may pass: its frame is protected, or MACsec is not required and its peer has no live association (R395; log 181,
the model's choice). -/
def Passes (s : State) (h : MsgHdr) : Prop := s.ctl.passes h = true

/-- A port other than the one concerned: its state, REASON and peers stay; packet numbers and keys may move on, as it sends. -/
def SamePort (a b : HostPort) : Prop :=
  a.state = b.state ∧ a.reason = b.reason ∧ (a.peers.map fun m => (m.mac, m.session)) = b.peers.map fun m => (m.mac, m.session)

/-- An answer's header is that of the message it answers, sent from port p in a frame of the S4's own (R397, R411). -/
def Echoes (g h : MsgHdr) (p : HPort) : Prop := g = { h with port := p, frame := g.frame }

/-- The session as the message leaves it: it notes where it came from (R413); the port notes its packet number (R394). -/
def noted (ses : Session) (h : MsgHdr) : Session := ses.noteAddr h
def base (s : State) (h : MsgHdr) (slot : Nat) (ses : Session) : State :=
  s.mapCtl fun c => (c.notePn h).setSession slot (noted ses h)

/-- The session may act for the message's job (R429), and the device is not retreating. -/
def ActsForJob (s : State) (h : MsgHdr) (ses : Session) : Prop :=
  ses.state = .admitted ∧ s.ctl.mayName ses h.job.toNat = true ∧ s.ctl.dev.dstate ≠ .retreat

end Sys2Proof.Claims

/-- HELLO: a well-formed one without a session to resume opens a session in a free slot, with the queues, features and data
size it grants; a version the S4 does not speak is refused; SAFE answers with BYE. -/
def Obligations.HelloOpensSession : Prop :=
  ∀ (h : MsgHdr) (b : HelloBody) (newId : BitVec 32) (s : State),
    s.ctl.listens h.port = true → s.ctl.frameLost h = none → hdrZero h = true → h.queue = 0xFFFF → h.eseq = 0 →
    32 ≤ h.length.toNat → b.rsvd6 = 0 → b.rsvd20 = 0 → b.token ≠ 0 →
    let s1 := s.mapCtl fun c => c.notePn h
    (s.ctl.dev.dstate = .safe → exec (.hello h b newId) s = .next (s1.reply h .byeTo)) ∧
    (s.ctl.dev.dstate ≠ .safe → b.rsession = 0 →
      (1 < b.vmin.toNat ∨ b.vmax.toNat < 1 ∨ b.isaMax = 0 → exec (.hello h b newId) s =
        .next (s1.reply h fun g => .helloAck g stREJECTED_VERSION 0 0 0 s.ctl.dev.dstate 0 0 0 (s.ctl.devid.zeroExtend 16) 0
          s.snapVer [])) ∧
      (b.vmin.toNat ≤ 1 → 1 ≤ b.vmax.toNat → b.isaMax ≠ 0 →
        (∀ e ∈ s.ctl.elo.sessions, ¬ (e.2.token = b.token ∧ e.2.srcIp = h.srcIp)) → ∀ slot, s.ctl.freeSlot = some slot →
        ∃ (t : State) (ses : Session), exec (.hello h b newId) s = .next t ∧ t.session? slot = some ses ∧
          ses.token = b.token ∧ ses.state = .opened ∧ ses.admin = false ∧ ses.ver = 1 ∧ ses.isa = 1 ∧
          ses.nq = max 1 (min 64 b.nq.toNat) ∧ ses.queues.length = ses.nq + 1 ∧
          (∀ q ∈ ses.queues, q.nextExp = 0 ∧ q.lastDone = none ∧ q.held = false) ∧
          ses.features = b.features &&& 0x3F ∧ ses.maxdata ≠ 0 ∧ ses.maxdata ∈ [1#16, 2, 4, 8] ∧
          (newId ≠ 0 → newId ∉ s.ctl.usedIds → ses.id = newId) ∧
          (∀ k, k ≠ slot → t.session? k = s.session? k) ∧ t.cores = s.cores ∧ t.mem = s.mem ∧ t.ctl.regs = s.ctl.regs ∧
          ∃ g, Echoes g h h.port ∧ t.out.head? = some (.helloAck g stOK 1 1 (BitVec.ofNat 8 ses.nq) s.ctl.dev.dstate ses.maxdata
            ses.features ses.id (s.ctl.devid.zeroExtend 16) 0 s.snapVer
            (List.replicate (ses.nq + 1) (0, BitVec.allOnes 48, false)))))

/-- A CMD that passes every check goes to the journal: it is noted, under check, with nothing done; the state changes in the
journal alone. RUN, INSTALL, PREEMPT and RELEASE alike. A TRAIN or ADOPT that meets another of its job under check is noted and
waits for that one's outcome. -/
def Sys2Proof.Claims.CommandsEnterJournal : Prop :=
  ∀ (h : MsgHdr) (b : CmdBody) (s : State) (slot : Nat) (ses : Session) (q : CmdQueue),
    Heard s h slot ses → Passes s h → s.ctl.dev.halted = false → ses.queue? h.queue = some q →
    q.nextExp.toNat ≤ h.seq.toNat → h.seq.toNat ≤ q.nextExp.toNat + 64 → q.ahead.contains h.seq = false →
    q.nextExp.toNat ≠ 2 ^ 48 - 1 → (s.cmd? (keyOfHdr h)).isNone = true → s.ctl.jnl.room (cmdRecords b) = true →
    let s1 := base s h slot ses
    let enters (i : Instr) (op : Nat) : Prop :=
      let noted_ (ph : CmdPhase) : Out := .next (s1.mapJnl fun j => { j with cmds := j.cmds ++
        [{ key := ⟨h.session, h.queue, h.seq⟩, op := BitVec.ofNat 8 op, job := h.job, hdr := h, body := b, phase := ph
           doom := none, dups := [], placement := [], rpoints := [], attempt := 0, energyUj := 0, jseq := 0, slowed := false }] })
      let waits := b.cflags.toNat % 4 ≠ 0 ∧ ∃ m ∈ s.ctl.jnl.cmds, m.accepted = false ∧ m.stepKind ≠ 0 ∧ m.job = h.job
      cmdFormed s.ctl ses op h b = true →
        (¬ waits → s1.admitCheck (noted ses h) op h b = none → exec i s = noted_ .journaling) ∧
        (waits → s1.admitState (noted ses h) op h b = none → exec i s = noted_ .awaits)
    enters (.cmdRun h b) 1 ∧ enters (.cmdInstall h b) 2 ∧ enters (.cmdPreempt h b) 3 ∧ enters (.cmdRelease h b) 4

/-- The queue protocol: a number below the next expected is answered DUPLICATE and one more than 64 ahead is dropped and
counted; neither changes the journal. -/
def Sys2Proof.Claims.CommandNumbersAreGuarded : Prop :=
  ∀ (h : MsgHdr) (b : CmdBody) (s : State) (slot : Nat) (ses : Session) (q : CmdQueue),
    Heard s h slot ses → Passes s h → s.ctl.dev.halted = false → cmdFormed s.ctl ses 1 h b = true →
    ses.queue? h.queue = some q →
    (h.seq.toNat < q.nextExp.toNat → ∀ p, s.ctl.reachPort h.port h.srcMac = some p →
      ∃ (t : State) (cs : BitVec 8) (st : Status), exec (.cmdRun h b) s = .next t ∧ t.ctl.jnl = s.ctl.jnl ∧ t.mem = s.mem ∧
        t.cores = s.cores ∧ ∃ g, Echoes g h p ∧ t.out.head? = some (.ack g stDUPLICATE cs st q.nextExp)) ∧
    (q.nextExp.toNat + 64 < h.seq.toNat → q.nextExp.toNat ≠ 2 ^ 48 - 1 → q.ahead.contains h.seq = false →
      ∃ t : State, exec (.cmdRun h b) s = .next t ∧ t.ctl.jnl = s.ctl.jnl ∧ t.mem = s.mem ∧ t.cores = s.cores ∧ t.out = s.out)

/-- Messages on the wire: the 32 bytes of a header say every field but what its frame says, with the type in byte 1; a CMD
is 64 bytes, 12 for each dependency and 8 for each declaration. An ACK is 48 bytes in network byte order: TYPE 4, LENGTH 16, the
status and NEXT_EXP; a HELLO_ACK has 16 bytes for each queue, and STEPPING 0xB0. -/
def Sys2Proof.Claims.MessagesOnTheWire : Prop :=
  (∀ (h : MsgHdr) (t : MsgType), (h.bytes t).length = 32 ∧ beField (h.bytes t) 1 1 = t.code ∧
    MsgHdr.ofBytes h.port h.srcIp h.srcPort h.srcMac h.frame (h.bytes t) = h) ∧
  (∀ (op : Nat) (b : CmdBody), (b.bytes op).length = 64 + 12 * b.deps.length + 8 * b.caps.length) ∧
  (∀ (h : MsgHdr) (st cst : Status) (cs : BitVec 8) (n : BitVec 48), ∃ bs,
    (Output.ack h st cs cst n).wire = some bs ∧ bs.length = 48 ∧ beField bs 1 1 = 4 ∧ beField bs 4 4 = h.session.toNat ∧
    beField bs 8 2 = h.queue.toNat ∧ beField bs 10 6 = h.seq.toNat ∧ beField bs 20 4 = 16 ∧ beField bs 32 2 = st.toNat ∧
    beField bs 34 1 = cs.toNat ∧ beField bs 36 2 = cst.toNat ∧ beField bs 38 6 = n.toNat) ∧
  (∀ (h : MsgHdr) (st : Status) (ver isa nq : BitVec 8) (d : DState) (maxdata : BitVec 16) (feat : BitVec 64) (ses : BitVec 32)
    (devid : BitVec 16) (resumed : BitVec 8) (snap : Word) (qs : List (BitVec 48 × BitVec 48 × Bool)), ∃ bs,
    (Output.helloAck h st ver isa nq d maxdata feat ses devid resumed snap qs).wire = some bs ∧
    bs.length = 64 + 16 * qs.length ∧ beField bs 1 1 = 2 ∧ beField bs 32 2 = st.toNat ∧ beField bs 48 4 = ses.toNat ∧
    beField bs 54 1 = 0xB0)

/-- How a command of a host is taken: its bytes, its number, its checks, and its entry in the journal. -/
def Obligations.CommandAdmission : Prop :=
  Claims.CommandsEnterJournal ∧ Claims.CommandNumbersAreGuarded ∧ Claims.MessagesOnTheWire

/-- A command that ends with a status of R37 holds its queue where HALT_ON_FAIL is 1; with another status, or HALT_ON_FAIL 0, the
queue goes on. HALT_ON_FAIL is 1 for every queue at reset. -/
def Sys2Proof.Claims.FailureHoldsQueue : Prop :=
  (∀ (s : State) (m : Cmd) (st : Status) (result : BitVec 32) (decided : Bool) (slot : Nat) (ses : Session) (q : CmdQueue),
    s.ctl.sessionById m.key.session = some (slot, ses) → ses.queue? m.key.queue = some q →
    ∃ (ses' : Session) (q' : CmdQueue), (s.complete m st result decided).ctl.sessionById m.key.session = some (slot, ses') ∧
      ses'.queue? m.key.queue = some q' ∧ q'.lastDone = some m.key.seq ∧ q'.nextExp = q.nextExp ∧
      q'.held = (q.held || (decide (st ∈ [0x4#16, 0x5, 0x6, 0x7, 0x8, 0xD, 0xF]) && decide (m.key.queue ≠ 0xFFFE) &&
        s.ctl.bit (Addr.sesHof slot) m.key.queue.toNat))) ∧
  (∀ i, i < 1024 → State.reset.ctl.reg (Addr.sesHof i) = BitVec.allOnes 64)

/-- A held queue starts none of its commands, whatever cores the Guide names, but still takes new ones. -/
def Sys2Proof.Claims.HeldQueueWaits : Prop :=
  (∀ (k : CmdKey) (cores : List CoreId) (s : State) (m : Cmd) (slot : Nat) (ses : Session) (q : CmdQueue),
    s.cmd? k = some m → m.phase = .accepted → s.ctl.sessionById k.session = some (slot, ses) → ses.queue? k.queue = some q →
    q.held = true → k.queue ≠ 0xFFFE → exec (.commandStart k cores) s = .next s) ∧
  (∀ (h : MsgHdr) (b : CmdBody) (s : State) (slot : Nat) (ses : Session) (q : CmdQueue),
    Heard s h slot ses → Passes s h → s.ctl.dev.halted = false → ses.queue? h.queue = some q → q.held = true →
    q.nextExp.toNat ≤ h.seq.toNat → h.seq.toNat ≤ q.nextExp.toNat + 64 → q.ahead.contains h.seq = false →
    q.nextExp.toNat ≠ 2 ^ 48 - 1 → (s.cmd? (keyOfHdr h)).isNone = true → s.ctl.jnl.room (cmdRecords b) = true →
    cmdFormed s.ctl ses 1 h b = true → (base s h slot ses).admitCheck (noted ses h) 1 h b = none →
    ∃ (t : State) (m : Cmd), exec (.cmdRun h b) s = .next t ∧ t.cmd? (keyOfHdr h) = some m ∧
      (m.phase = .journaling ∨ m.phase = .awaits) ∧ m.body = b)

/-- RELEASE frees the queue that it names, and no number of it is lost. -/
def Sys2Proof.Claims.ReleaseFreesQueue : Prop :=
  ∀ (k : CmdKey) (cores : List CoreId) (s : State) (m : Cmd) (slot : Nat) (ses : Session) (q : CmdQueue),
    s.cmd? k = some m → m.op = 4 → m.phase = .accepted → s.ctl.runsCommands = true → s.ctl.dev.halted = false →
    s.atHead k = true → s.ctl.notHeld k = true → m.body.deps.all (fun d => s.ctl.depMet d) = true →
    s.ctl.jobLost m.job.toNat = false →
    (∀ x ∈ s.ctl.jnl.cmds, x.doom = none ∧ (x.phase = .running → x.op ≠ 3)) →
    s.ctl.sessionById k.session = some (slot, ses) →
    let n := m.body.arg1.extractLsb' 0 16
    n ≠ k.queue → ses.queue? n = some q →
    ∃ (t : State) (ses' : Session), exec (.commandStart k cores) s = .next t ∧ t.ctl.sessionById k.session = some (slot, ses') ∧
      ses'.queue? n = some { q with held := false }

/-- Failed commands hold their queue until the host releases it. -/
def Obligations.FailedCommandsHoldTheirQueue : Prop :=
  Claims.FailureHoldsQueue ∧ Claims.HeldQueueWaits ∧ Claims.ReleaseFreesQueue

/-- When every mirror holds a command's records it is accepted: its queue moves on, the summit book is marked, and the S4
acknowledges the first copy. A TRAIN or ADOPT that waited for its outcome is answered after it. -/
def Sys2Proof.Claims.ConfirmAccepts : Prop :=
  ∀ (k : CmdKey) (s : State) (m : Cmd) (slot : Nat) (ses : Session) (q : CmdQueue), s.cmd? k = some m → m.phase = .journaling →
    (∀ x ∈ s.ctl.jnl.cmds, x.key = k → x = m) → s.ctl.dev.halted = false → s.ctl.sessionById k.session = some (slot, ses) → ses.queue? k.queue = some q →
    ∃ t : State, exec (.journalWriteConfirm k) s = .next t ∧
      t.cmd? k = some { m with phase := .accepted, dups := [], jseq := s.ctl.jnl.jseq } ∧
      t.ctl.jnl.jseq = s.ctl.jnl.jseq + BitVec.ofNat 64 (cmdRecords m.body) ∧ t.ctl.book.mark = true ∧
      t.mem = s.mem ∧ t.cores = s.cores ∧ t.ctl.regs = s.ctl.regs ∧
      (m.dups = [] → ∀ p, (s.ctl.reachPort m.hdr.port m.hdr.srcMac) = some p →
        ∃ g more rest, Echoes g m.hdr p ∧ t.out = more ++ .ack g stOK 1 0 (q.accept k.seq).nextExp :: rest ∧
          (m.stepKind = 0 → more = []))

/-- A confirm that comes while the Guide is halted is kept, and acknowledged when the Guide resumes. -/
def Sys2Proof.Claims.ConfirmWaitsForGuide : Prop :=
  ∀ (k : CmdKey) (s : State), s.ctl.dev.halted = true →
    (∃ t : State, exec (.journalWriteConfirm k) s = .next t ∧ k ∈ t.ctl.jnl.owedAcks ∧ t.ctl.jnl.cmds = s.ctl.jnl.cmds ∧
      t.out = s.out ∧ t.mem = s.mem ∧ t.cores = s.cores ∧ t.ctl.regs = s.ctl.regs) ∧
    (s.answerOwed).ctl.jnl.owedAcks = []

/-- The confirm of a command's records: acceptance, at once or when the Guide resumes. -/
def Obligations.JournalConfirmAccepts : Prop :=
  Claims.ConfirmAccepts ∧ Claims.ConfirmWaitsForGuide

/-- A RUN whose turn has come starts on the cores that the Guide names: each runs its logical index of the image from ENTRY,
with the argument block in g1, its index in g2, NCORES in g3 and 0 in g4 (R207, R208). -/
def Obligations.CommandStartLoadsCores : Prop :=
  ∀ (k : CmdKey) (cores : List CoreId) (s : State) (m : Cmd) (img : Image), s.cmd? k = some m →
    s.ctl.runsCommands = true → m.doom = none → s.ctl.dev.halted = false → m.phase = .accepted → s.atHead k = true →
    s.ctl.notHeld k = true → m.body.deps.all (fun d => s.ctl.depMet d) = true → m.op = 1 →
    s.ctl.jobLost m.job.toNat = false → s.image? m.body.imageId = some img → img.ncores ≤ s.ctl.coresSvc →
    s.ctl.badIn [(img.addr, img.len)] = [] → cores.length = img.ncores → cores.Nodup → (∀ c ∈ cores, s.coreFree c = true) →
    ∃ t : State, exec (.commandStart k cores) s = .next t ∧
      (∀ (i : Nat) (c : CoreId), cores[i]? = some c →
        (t.core c).run = .running ∧ (t.core c).pc = BitVec.ofNat 22 img.entry ∧ (t.core c).rg 1 = m.body.arg1 ∧
        (t.core c).rg 2 = BitVec.ofNat 64 i ∧ (t.core c).rg 3 = BitVec.ofNat 64 img.ncores ∧ (t.core c).rg 4 = 0 ∧
        (t.core c).stall = none ∧ (t.core c).trapping = none ∧ (t.core c).prog.map Prog.key = some m.key) ∧
      (∀ c, c ∉ cores → t.core c = s.core c)

/-- A TRAIN attempt without a jump commits: VERSION rises by one, ATTEMPT is 1, VR_BOOK equals VR_WORD; an ADOPT flips the
version in the same way. The command then completes OK. -/
def Sys2Proof.Claims.VersionFlips : Prop :=
  ∀ (k : CmdKey) (s : State) (m : Cmd) (j : Nat), s.cmd? k = some m → m.phase = .deciding → s.ctl.dev.halted = false →
    s.ctl.dev.dstate ≠ .safe → s.ctl.jobEntry m.job = some j →
    let vr := s.ctl.vr j
    let lwt := s.ctl.lwt j
    let n := s.ctl.nlayers j
    let ver := vrVersion s.mem vr
    let hd := KMap.get ⟨false, 1, 0, 0, 1⟩ s.ctl.txn.heads j
    let flips (i : Instr) : Prop := ∃ s1 : State, exec i s = .next (s1.finish m stOK 0 true) ∧
      vrVersion s1.mem vr = (ver + 1) % 2 ^ 48 ∧ vrAttempt s1.mem vr = 1 ∧
      s1.mem.readLe (vr + 8) 8 = s1.mem.readLe vr 8 ∧ s1.cores = s.cores ∧ s1.ctl = { s.ctl with bad := s1.ctl.bad } ∧
      (∀ w ∈ s1.ctl.bad, w ∈ s.ctl.bad)
    bcBase ≤ vr → bcBase ≤ lwt → bcBase ≤ s.ctl.nw j → lwt + 16 * n ≤ vr ∨ vr + 64 ≤ lwt →
      (m.stepKind = 2 → flips (.adoptFlip k)) ∧
      (m.stepKind = 1 → jumpedLayers s.mem (s.ctl.nw j) n ver hd = [] → flips (.normWatchDecide k))

/-- A norm that is not a number or not finite jumps at once; an enabled watch that sees no jump, or that only observes, commits;
a jump replays the attempt while it may, and aborts it after MAX_ATTEMPTS or where a layer that jumped cannot widen. -/
def Sys2Proof.Claims.NormWatchOutcomes : Prop :=
  (∀ (n e thr : Nat) (warm : Bool), (decodeFp fp64 n).isNonfin = true → normJumps n e thr warm = true) ∧
  (∀ (n e thr : Nat), (decodeFp fp64 n).isNonfin = false → normJumps n e thr false = false) ∧
  (∀ (m : Memory) (lwt att : Nat) (hd : NwHead) (js : List Nat),
    (js = [] ∨ hd.observe = true → normOutcome m lwt att hd js = 0) ∧
    (js ≠ [] → hd.observe = false → hd.maxatt ≤ att → normOutcome m lwt att hd js = 2) ∧
    (js ≠ [] → hd.observe = false → att < hd.maxatt →
      (∀ l ∈ js, (lwEntry m lwt l).testBit 3 = false ∧ lwEntry m lwt l % 8 ≠ 7) → normOutcome m lwt att hd js = 1) ∧
    (∀ l ∈ js, hd.observe = false → (lwEntry m lwt l).testBit 3 = true → normOutcome m lwt att hd js = 2))

/-- A command that awaits its decision when another end of R37 reaches it ends at once, with none taken; a pre-emption leaves the
decision to run, and one that decides REPLAY then ends the command with PREEMPTED in place of another attempt. -/
def Sys2Proof.Claims.EndsWhileDeciding : Prop :=
  ∀ (k : CmdKey) (s : State) (m : Cmd) (st : Status), s.cmd? k = some m → m.phase = .deciding → m.doom = some st →
    (st ≠ stPREEMPTED → s.conclude k = s.finish m st) ∧
    (st = stPREEMPTED → s.conclude k = s) ∧
    (∀ j, m.stepKind = 1 → s.ctl.dev.halted = false → s.ctl.dev.dstate ≠ .safe → s.ctl.jobEntry m.job = some j →
      let hd := KMap.get ⟨false, 1, 0, 0, 1⟩ s.ctl.txn.heads j
      let js := jumpedLayers s.mem (s.ctl.nw j) (s.ctl.nlayers j) (vrVersion s.mem (s.ctl.vr j)) hd
      normOutcome s.mem (s.ctl.lwt j) (vrAttempt s.mem (s.ctl.vr j)) hd js = 1 →
        ∃ s1 : State, exec (.normWatchDecide k) s = .next (s1.finish m st 0 true) ∧ s1.cores = s.cores)

/-- The Guide's decision on a training attempt or an adoption, the norm watch, and an end that comes before the decision. -/
def Obligations.StepDecisions : Prop :=
  Claims.VersionFlips ∧ Claims.NormWatchOutcomes ∧ Claims.EndsWhileDeciding

/-- DATA_WRITE stores its bytes in the job's region and is acknowledged; DATA_READ answers with the region's bytes. Only the
bytes written change, and the second copies of those that lie in an anchored region. -/
def Sys2Proof.Claims.DataTransfer : Prop :=
  ∀ (h : MsgHdr) (addr : BitVec 64) (s : State) (slot : Nat) (ses : Session),
    Heard s h slot ses → Passes s h → ActsForJob s h ses → s.ctl.deadRange addr.toNat = false →
    let s1 := base s h slot ses
    (∀ (data : List Byte) (obs : List FaultObs), plainHdr h (8 + data.length) = true →
      s.ctl.dataOk ses h addr data.length = true → (s1.hostObsAll true obs).2 = false →
      let cs := (s1.hostObsAll true obs).1.ctl.copiesOf (addr.toNat, data.length)
      let outside (a : Nat) : Prop := (a < addr.toNat ∨ addr.toNat + data.length ≤ a) ∧ ∀ x ∈ cs, a < x.2.1 ∨ x.2.1 + x.2.2 ≤ a
      ∃ t : State, exec (.dataWrite h addr data obs) s = .next t ∧
        ((∀ x ∈ cs, x.2.1 + x.2.2 ≤ addr.toNat ∨ addr.toNat + data.length ≤ x.2.1) →
          ∀ i, i < data.length → t.mem.read8 (addr.toNat + i) = data.getD i 0) ∧
        (∀ a, outside a → t.mem.read8 a = (s1.hostObsAll true obs).1.mem.read8 a) ∧
        (obs = [] → (∀ a, outside a → t.mem.read8 a = s.mem.read8 a) ∧
          t.cores = s.cores ∧ t.ctl.regs = s.ctl.regs ∧
          ∀ p, s.ctl.reachPort h.port h.srcMac = some p → ∃ g, Echoes g h p ∧ t.out.head? = some (.ack g stOK 0 0 0))) ∧
    (∀ (len : BitVec 32) (obs : List FaultObs), plainHdr h 16 = true → s.ctl.dataOk ses h addr len.toNat = true →
      (s.ctl.dev.sealed = false ∨ s.ctl.keySlotJob h.job = false) →
      let met := s1.hostObsAll false (s.ctl.badObs [(addr.toNat, len.toNat)] ++ obs)
      met.2 = false →
      let r := met.1
      exec (.dataRead h addr len 0 obs) s =
        .next (r.reply h fun g => .dataResp g stOK addr (r.mem.readBytes addr.toNat len.toNat)))

/-- A transfer outside the job's regions, or in a device that retreats, moves no byte. -/
def Sys2Proof.Claims.DataTransferIsConfined : Prop :=
  ∀ (h : MsgHdr) (addr : BitVec 64) (data : List Byte) (s : State) (slot : Nat) (ses : Session),
    Heard s h slot ses → Passes s h →
    (s.ctl.inOneRegion h.job.toNat addr.toNat data.length = false ∨ ses.state ≠ .admitted ∨
      s.ctl.mayName ses h.job.toNat = false ∨ s.ctl.dev.dstate = .retreat) →
    ∃ t : State, exec (.dataWrite h addr data []) s = .next t ∧ t.mem = s.mem ∧ t.cores = s.cores

/-- DATA_WRITE and DATA_READ: the bytes that move, and those that may not. -/
def Obligations.DataMovesInItsJob : Prop :=
  Claims.DataTransfer ∧ Claims.DataTransferIsConfined

/-- EVENT_ACK drops the EVENTs up to its number; the resend timer sends every unacknowledged EVENT again, unchanged but for
its RETX mark, to the address of the session's latest message on each network, and sends nothing while the Guide is halted. Neither
touches a core or memory. -/
def Obligations.EventAcknowledgement : Prop :=
  ∀ (s : State) (slot : Nat) (ses : Session),
    (∀ h : MsgHdr, Heard s h slot ses → Passes s h → h.queue = 0xFFFF → h.length = 0 → ses.acked.toNat < h.eseq.toNat →
      h.eseq.toNat ≤ ses.eseq.toNat → ses.keptComp = [] → ses.keptDev = [] → ses.state ≠ .closing →
      (∀ e ∈ s.ctl.elo.sessions, e.1 = slot → e.2 = ses) →
      ∃ t : State, exec (.eventAck h) s = .next t ∧ t.mem = s.mem ∧ t.cores = s.cores ∧ t.out = s.out ∧
        t.session? slot = some { noted ses h with
          acked := h.eseq, unacked := ses.unacked.filter (fun e => decide (h.eseq.toNat < e.1.toNat)), keptComp := [], keptDev := [] }) ∧
    (s.ctl.slotOf ses.id = some slot → s.session? slot = some ses → s.ctl.dev.halted = true →
      exec (.eventResendTimer ses.id) s = .next s) ∧
    (s.ctl.slotOf ses.id = some slot → s.session? slot = some ses → s.ctl.dev.halted = false →
      exec (.eventResendTimer ses.id) s = .next (ses.unacked.foldl (fun t e => t.sendCopies ses e.1 true e.2) s)) ∧
    (∀ (q : BitVec 64) (r : Bool) (b : EventBody) (a : PeerAddr) (p : HPort), ses.addrA = some a → ses.addrB = none →
      s.ctl.reachPort a.port a.mac = some p →
      ∃ f, (s.sendCopies ses q r b).out.head? = some (.event ses.id { a with port := p } f q r b) ∧
        (s.sendCopies ses q r b).mem = s.mem ∧ (s.sendCopies ses q r b).cores = s.cores)

/-- The other protocols of an UP port answer for the port's own address and no other, and for none in SAFE: ARP and ICMP echo, neighbour
solicitation for IPv6. A malformed datagram is counted in MALFORMED and does nothing else. -/
def Sys2Proof.Claims.PortProtocols : Prop :=
  ∀ (p : HPort) (s : State), s.ctl.powered = true → (s.ctl.hport p).state = .up →
    let own (ip : IpAddr) : Prop := s.ctl.dev.dstate ≠ .safe ∧ ip ≠ 0 ∧ ip = s.ctl.portIp p
    (∀ mac sip tip, own tip → s.ctl.portV4 p = true → exec (.arpRequest p mac sip tip) s = .next (s.send (.arpReply p mac sip))) ∧
    (∀ mac sip tip, ¬ own tip → exec (.arpRequest p mac sip tip) s = .next s) ∧
    (∀ sip dip load, own dip → exec (.icmpEchoRequest p sip dip load) s = .next (s.send (.icmpReply p sip load))) ∧
    (∀ sip dip load, ¬ own dip → exec (.icmpEchoRequest p sip dip load) s = .next s) ∧
    (∀ mac sip tip, own tip → s.ctl.portV4 p = false →
      exec (.neighbourSolicitation p mac sip tip) s = .next (s.send (.naReply p mac sip))) ∧
    (s.ctl.listens p = true → exec (.malformedDatagram p) s = .next (s.mapCtl fun c => c.bump Addr.eloDrop 32 16 1))

/-- An MKA frame under a session's key from its own MAC address makes the peer live on the port, with the port's SAK; a rekey
gives the port and that peer the next SAK, with packet numbers from the start. Either is sent with key server priority 0x10. -/
def Sys2Proof.Claims.KeyAgreementMakesPeerLive : Prop :=
  ∀ (p : HPort) (mac : MacAddr) (s : State), s.ctl.listens p = true →
    (∀ (ckn : BitVec 128) (body : List Byte) (e : Nat × Session), (s.ctl.elo.sessions.find? fun e =>
        e.2.keys ≠ [] ∧ ofBe e.2.ckn = ckn.toNat ∧ e.2.fromMac mac = true ∧ e.2.mkaAccepts mac body = true) = some e →
      ((s.ctl.hport p).peers.filter fun m => m.mac ≠ mac).length < 64 →
      ∃ t : State, exec (.mkaFrame p mac ckn body) s = .next t ∧ t.ctl.live p mac = true ∧
        (∀ m ∈ (t.ctl.hport p).peers, m.mac = mac → m.session = e.2.id ∧ m.sak = (s.ctl.hport p).sak) ∧
        (∃ body', t.out = .mka p mac 0x10 (s.ctl.hport p).sak body' :: s.out) ∧
        (∀ q : HPort, q ≠ p → t.ctl.hport q = s.ctl.hport q) ∧ t.mem = s.mem ∧ t.cores = s.cores ∧ t.ctl.regs = s.ctl.regs) ∧
    (s.ctl.live p mac = true →
      ∃ t : State, exec (.sakRekeyTimer p mac) s = .next t ∧ (t.ctl.hport p).sak = (s.ctl.hport p).sak + 1 ∧
        t.ctl.live p mac = true ∧
        (∀ m ∈ (t.ctl.hport p).peers, m.mac = mac → m.sak = (s.ctl.hport p).sak + 1 ∧ m.rxPn = 0 ∧ m.txPn = 0) ∧
        (∃ body', t.out = .mka p mac 0x10 ((s.ctl.hport p).sak + 1) body' :: s.out) ∧
        t.mem = s.mem ∧ t.cores = s.cores ∧ t.freeCtr = s.freeCtr + 1)

/-- A host port goes DOWN with the reason's code and loses its peers; from UP it is counted. An enabled, lit port that trains
comes UP. A BYE of a host closes its session, or places it in closing while commands of it run. -/
def Sys2Proof.Claims.HostPortsAndBye : Prop :=
  (∀ (p : HPort) (r : DownReason) (s : State), (s.ctl.hport p).state ∈ [HpState.up, .draining, .training] →
    ∃ t : State, exec (.hostPortDown p r) s = .next t ∧ (t.ctl.hport p).state = .down ∧ (t.ctl.hport p).reason = hostReason r ∧
      (t.ctl.hport p).peers = [] ∧ (∀ q : HPort, q ≠ p → SamePort (t.ctl.hport q) (s.ctl.hport q)) ∧ t.mem = s.mem ∧ t.cores = s.cores ∧
      ((s.ctl.hport p).state ≠ .training → s.ctl.dev.dstate = .service → t.ctl.dev.dstate = .degraded)) ∧
  (∀ (p : HPort) (s : State), s.ctl.powered = true → s.ctl.bit (Addr.eloPcfg p.val) 0 = true →
    (s.ctl.links.lasers[laserOfH p]).state = .on → (s.ctl.hport p).state ∈ [HpState.training, .down] →
    ∃ t : State, exec (.hostPortUp p) s = .next t ∧ (t.ctl.hport p).state = .up ∧ (t.ctl.hport p).reason = 0 ∧
      (∀ q : HPort, q ≠ p → SamePort (t.ctl.hport q) (s.ctl.hport q)) ∧ t.mem = s.mem ∧ t.cores = s.cores) ∧
  (∀ (h : MsgHdr) (s : State) (slot : Nat) (ses : Session), Heard s h slot ses → plainHdr h 0 = true →
    (s.ctl.busySession ses.id = true → s.session? slot = some ses →
      ∃ t : State, exec (.hostBye h) s = .next t ∧ t.session? slot = some { noted ses h with state := .closing, admin := false, keptDev := [] }) ∧
    (s.ctl.busySession ses.id = false → s.session? slot = some ses →
      ∃ t : State, exec (.hostBye h) s = .next t ∧ t.session? slot = none ∧ t.mem = s.mem ∧ t.cores = s.cores ∧
        ∃ g, Echoes g h h.port ∧ t.out.head? = some (.byeTo g)))

/-- Host ports: their own protocols, key agreement, up and down, and the end of a session. -/
def Obligations.HostPorts : Prop :=
  Claims.PortProtocols ∧ Claims.KeyAgreementMakesPeerLive ∧ Claims.HostPortsAndBye

/-! ### Control space -/

/-- REG_READ answers from one snapshot: the present one for SNAP_VER 0 or its own version, the one before it for that version;
any other is refused. Reading changes no register, core or memory. -/
def Sys2Proof.Claims.RegisterReadsAreFromSnapshots : Prop :=
  ∀ (h : MsgHdr) (addr : BitVec 64) (n : BitVec 16) (snap : BitVec 64) (s : State) (slot : Nat) (ses : Session),
    Heard s h slot ses → Passes s h → ses.state = .admitted → plainHdr h 24 = true → 1 ≤ n.toNat → n.toNat ≤ 128 →
    addr.toNat % 8 = 0 → (blockOf addr.toNat n.toNat).isSome = true →
    let words (c : Ctl) (v : Word) : List Word := (List.range n.toNat).map fun i => c.read v (addr.toNat + 8 * i)
    let answer (st : Status) (v : Word) (ws : List Word) : Out :=
      .next ((base s h slot ses).reply h fun g => .regResp g st addr v ws)
    (snap = 0 ∨ snap = s.snapVer → exec (.regRead h addr n 0 snap) s = answer stOK s.snapVer (words s.snap s.snapVer)) ∧
    (snap ≠ 0 → snap ≠ s.snapVer → ∀ c, s.prev = some c → snap = s.snapVer - 1 →
      exec (.regRead h addr n 0 snap) s = answer stOK snap (words c snap)) ∧
    (snap ≠ 0 → snap ≠ s.snapVer → (s.prev = none ∨ snap ≠ s.snapVer - 1) →
      exec (.regRead h addr n 0 snap) s = answer stREJECTED_VERSION s.snapVer [])

/-- A register reads back what a write of its stored fields put there, field by field, and no other register changes. -/
def Sys2Proof.Claims.StoredFieldsReadBack : Prop :=
  ∀ (c : Ctl) (a lo n v : Nat), lo + n ≤ 64 →
    (c.setFld a lo n v).fld a lo n = v % 2 ^ n ∧
    (∀ i, (i < lo ∨ lo + n ≤ i) → i < 64 → (c.setFld a lo n v).bit a i = c.bit a i) ∧
    (∀ b, b ≠ a → (c.setFld a lo n v).reg b = c.reg b) ∧
    (c.bump a lo n v).fld a lo n = min (2 ^ n - 1) (c.fld a lo n + v)

/-- Control space: reads from snapshots, and fields as they are stored. -/
def Obligations.ControlRegisters : Prop :=
  Claims.RegisterReadsAreFromSnapshots ∧ Claims.StoredFieldsReadBack

/-- BEGIN opens a transaction from the present version; ABORT and the idle limit close it, and its answer is remembered; a
second BEGIN with another number is refused while one is open. Committed registers do not change. -/
def Sys2Proof.Claims.TransactionsOpenAndClose : Prop :=
  ∀ (h : MsgHdr) (id : BitVec 64) (s : State) (slot : Nat) (ses : Session), s.session? slot = some ses →
    s.ctl.sessionById ses.id = some (slot, ses) →
    (Heard s h slot ses → Passes s h → plainHdr h 16 = true → id ≠ 0 → ses.state = .admitted →
      (ses.txn = none → s.ctl.committing slot id = false → ses.closedAs id = none →
        ∃ t : State, exec (.txnBegin h 0 id) s = .next t ∧
          t.session? slot = some { noted ses h with txn := some ⟨id, s.snapVer, []⟩ } ∧ t.ctl.regs = s.ctl.regs ∧
          t.mem = s.mem ∧ t.cores = s.cores) ∧
      (∀ x, ses.txn = some x → x.id ≠ id → s.ctl.committing slot id = false →
        exec (.txnBegin h 0 id) s = .next ((base s h slot ses).nack0 h stTXN_CONFLICT)) ∧
      (∀ x, ses.txn = some x → x.id = id →
        ∃ t : State, exec (.txnAbort h 0 id) s = .next t ∧ t.ctl.regs = s.ctl.regs ∧ t.mem = s.mem ∧ t.cores = s.cores ∧
          t.session? slot = some { noted ses h with txn := none, closed := ((id, stTXN_CONFLICT) :: ses.closed).take 16 })) ∧
    (∀ x, ses.txn = some x → ∃ t : State, exec (.txnIdleTimeout ses.id) s = .next t ∧ t.ctl.regs = s.ctl.regs ∧
      t.mem = s.mem ∧ t.cores = s.cores ∧ t.out = s.out ∧
      t.session? slot = some { ses with txn := none, closed := ((x.id, stTXN_CONFLICT) :: ses.closed).take 16 })

/-- A REG_WRITE of TX fields by an ADMIN session with an open transaction goes into the transaction's shadow: no committed
register changes, and it is acknowledged. -/
def Sys2Proof.Claims.WritesGoToShadow : Prop :=
  ∀ (h : MsgHdr) (addr : BitVec 64) (n : BitVec 16) (vals : List (Word × Word)) (s : State) (slot : Nat) (ses : Session) (x : OpenTxn),
    Heard s h slot ses → Passes s h → s.session? slot = some ses → ses.state = .admitted → ses.admin = true → ses.txn = some x →
    s.ctl.dev.sealed = false → s.ctl.dev.dstate ≠ .retreat → plainHdr h (16 + 16 * n.toNat) = true → 1 ≤ n.toNat → n.toNat ≤ 64 →
    vals.length = n.toNat → addr.toNat % 8 = 0 → (blockOf addr.toNat n.toNat).isSome = true →
    let ws := vals.zipIdx.map fun e => (addr.toNat + 8 * e.2, e.1.1, e.1.2)
    (∀ w ∈ ws, w.2.2.toNat &&& ((access w.1).w1c ||| (access w.1).wo) = 0) →
    let tx := (ws.map txPart).filter fun w => decide (w.2.2 ≠ 0)
    let y := tx.foldl OpenTxn.put x
    y.shadow.length ≤ 4096 → tx ≠ [] →
      exec (.regWrite h addr n 0 vals) s = .next
        (((base s h slot ses).mapCtl fun c => c.setSession slot { noted ses h with txn := some y }).ack0 h)

/-- Configuration transactions until their COMMIT. -/
def Obligations.TransactionsBuildShadow : Prop :=
  Claims.TransactionsOpenAndClose ∧ Claims.WritesGoToShadow

/-- The two-phase commit: COMMIT of a transaction that may commit asks every owning island to prepare, or with none commits at
once; the last PREPARED is the commit point; a refusal or a missing answer ends it without an effect; at an APPLIED the island's
words take effect, and the last one ends the commit. While the Guide is halted, and in SAFE, nothing of it happens. -/
def Sys2Proof.Claims.TwoPhaseCommit : Prop :=
  (∀ (h : MsgHdr) (id : BitVec 64) (s : State) (slot : Nat) (ses : Session) (x : OpenTxn), Heard s h slot ses → Passes s h →
    plainHdr h 16 = true → id ≠ 0 → ses.state = .admitted → ses.txn = some x → x.id = id → s.ctl.txn.running = none →
    s.session? slot = some ses →
    let ses1 : Session := { noted ses h with txn := none }
    let s1 := (base s h slot ses).mapCtl fun c => c.setSession slot ses1
    let m : Commit := ⟨slot, h, x, [], s1.ctl.commitIslands x, false, []⟩
    let m' := m.decide s1.ctl
    s1.commitRefusal slot ses1 x = none →
      (m.waiting = [] → exec (.txnCommit h 0 id) s = .next ((s1.applyPart m' fun _ => true).finishCommit m')) ∧
      (m.waiting ≠ [] → exec (.txnCommit h 0 id) s =
        .next (s1.mapCtl fun c => { c with txn := { c.txn with running := some m } }))) ∧
  (∀ (i : Island) (o : Option (BitVec 16)) (s : State), s.ctl.dev.halted = true ∨ s.ctl.dev.dstate = .safe →
    exec (.islandPrepared i o) s = .next s ∧ exec (.prepareTimeout i) s = .next s ∧ exec (.islandApplied i) s = .next s ∧
    exec (.applyTimeout i) s = .next s) ∧
  (∀ (i : Island) (s : State) (m : Commit), s.ctl.txn.running = some m → i ∈ m.waiting → s.ctl.dev.halted = false →
    s.ctl.dev.dstate ≠ .safe →
    let rest := m.waiting.filter (· ≠ i)
    let own := s.applyPart m fun o => o.contains i && !o.any rest.contains
    let still (t : State) : Out := .next (t.mapCtl fun c => { c with txn := { c.txn with running := some { m with waiting := rest } } })
    (m.applying = false →
      (rest ≠ [] → exec (.islandPrepared i none) s = still s) ∧
      (rest = [] → exec (.islandPrepared i none) s =
        .next ((s.commitPoint m (s.ctl.commitIslands m.txn)).runCommits)) ∧
      (∀ st, exec (.islandPrepared i (some st)) s = .next ((s.endCommit m st).runCommits)) ∧
      exec (.prepareTimeout i) s = .next (((s.endCommit m stTXN_CONFLICT).islandFails i).runCommits)) ∧
    (m.applying = true →
      (rest ≠ [] → exec (.islandApplied i) s = still own) ∧
      (rest = [] → exec (.islandApplied i) s = .next ((own.finishCommit m).runCommits)) ∧
      exec (.applyTimeout i) s = .next ((s.islandFails i).applied m i)))

/-- A commit that ends without its commit point leaves every register, core and byte of memory as it was; one that finishes
stamps the words that it changed, counts in COMMITS and cuts a snapshot. -/
def Sys2Proof.Claims.CommitIsAllOrNothing : Prop :=
  ∀ (s : State) (m : Commit),
    (∀ st, (s.endCommit m st).ctl.regs = s.ctl.regs ∧ (s.endCommit m st).mem = s.mem ∧ (s.endCommit m st).cores = s.cores ∧
      (s.endCommit m st).ctl.txn.running = none ∧ (s.endCommit m st).ctl.txn.stamp = s.ctl.txn.stamp) ∧
    ((s.finishCommit m).ctl.regs = s.ctl.regs ∧ (s.finishCommit m).ctl.txn.commits = s.ctl.txn.commits + 1 ∧
      (s.finishCommit m).snapVer = s.snapVer + 1 ∧ (s.finishCommit m).snap.regs = s.ctl.regs ∧
      (∀ a, a ∈ m.changed → KMap.get 0 (s.finishCommit m).ctl.txn.stamp a = s.snapVer + 1) ∧
      (∀ a, a ∉ m.changed → KMap.get 0 (s.finishCommit m).ctl.txn.stamp a = KMap.get 0 s.ctl.txn.stamp a))

/-- The two-phase commit: its phases, and that it is all or nothing. -/
def Obligations.TwoPhaseCommits : Prop :=
  Claims.TwoPhaseCommit ∧ Claims.CommitIsAllOrNothing

/-! ### Actions -/

namespace Sys2Proof.Claims

/-- The rows that name one WO field: the message, the register, what is written and the bits written (R404, R419, R437, R470,
R478, R492, R505, R508, R509, R512). -/
def actionRow : Instr → Option (MsgHdr × Nat × Nat × Nat)
  | .lmRemoveReq h k => some (h, Addr.lmCtl, 2 ^ k.val, 2 ^ k.val)
  | .eloSessClose h slot => some (h, Addr.eloSessClose, slot.val, 0x3FF)
  | .avClear h => some (h, Addr.avCtl, 1, 1)
  | .relRelease h core => some (h, Addr.relCtl, core.toNat + 512, 0x3FF)
  | .psInstall h => some (h, Addr.relCtl, 1 * 1024, 7 * 1024)
  | .psActivate h => some (h, Addr.relCtl, 2 * 1024, 7 * 1024)
  | .psRollback h => some (h, Addr.relCtl, 3 * 1024, 7 * 1024)
  | .testSlice h n => some (h, Addr.relCtl, n.toNat * 8192, 63 * 8192)
  | .testStack h n => some (h, Addr.relCtl, n.toNat * 524288, 15 * 524288)
  | .sealUnits h => some (h, Addr.secCtl, 1, 1)
  | .fwInstall h => some (h, Addr.secCtl, 2, 6)
  | .fwActivate h => some (h, Addr.secCtl, 4, 6)
  | .svnCommit h => some (h, Addr.secCtl, 6, 6)
  | .rtLoad h k => some (h, Addr.secCtl, 8 + k.val * 64, 0x1F8)
  | .rtDecrypt h k => some (h, Addr.secCtl, 16 + k.val * 64, 0x1F8)
  | .rtEncrypt h k => some (h, Addr.secCtl, 24 + k.val * 64, 0x1F8)
  | .rtDrop h k => some (h, Addr.secCtl, 32 + k.val * 64, 0x1F8)
  | .anchorClear h => some (h, Addr.secCtl, 512, 512)
  | .warmReset h => some (h, Addr.sumCtl, 1, 1)
  | .coldReset h => some (h, Addr.sumCtl, 2, 2)
  | _ => none

end Sys2Proof.Claims

/-- A write of a WO field by an ADMIN session starts the field's action once; a snapshot is cut and the write is acknowledged;
a reset follows the acknowledgement. -/
def Obligations.ActionWritesStartActions : Prop :=
  ∀ (i : Instr) (h : MsgHdr) (a v m : Nat) (s : State) (slot : Nat) (ses : Session), actionRow i = some (h, a, v, m) →
    Heard s h slot ses → Passes s h → plainHdr h 32 = true → ses.state = .admitted → ses.admin = true →
    s.ctl.dev.dstate ≠ .retreat →
    let t := ((base s h slot ses).startAction h a v).cut.ack0 h
    exec i s = .next (if a = Addr.sumCtl then t.resetBy v else t)

/-- What each action does when its field is written: availability counters to 0; a retired slice or stack under test; the sealed
attribute; the operator anchor cleared; a key slot emptied; actions of firmware, probe sets and rope teams begun, with BUSY. -/
def Sys2Proof.Claims.ActionEffects : Prop :=
  ∀ (h : MsgHdr) (s : State),
    ((s.startAction h Addr.avCtl 1).ctl.dev = { s.ctl.dev with svcUs := 0, downUs := 0, exclUs := 0 }) ∧
    (∀ n : Nat, 1 ≤ n → n ≤ 32 → s.ctl.sliceState (n - 1) = 1 → (s.startAction h Addr.relCtl (n * 8192)).ctl.sliceState (n - 1) = 2) ∧
    (∀ n : Nat, 1 ≤ n → n ≤ 12 → s.ctl.stackState (n - 1) = 1 → (s.startAction h Addr.relCtl (n * 524288)).ctl.stackState (n - 1) = 2) ∧
    (s.ctl.sec.anchor ≠ 0 → (∀ p : MPort, (s.ctl.links.ports[p]).state ≠ .up ∨ (s.ctl.links.ports[p]).enc = true) →
      (s.startAction h Addr.secCtl 1).ctl.dev.sealed = true ∧ (s.startAction h Addr.secCtl 1).ctl.dev.dbgLocked = true ∧
      (s.startAction h Addr.secCtl 1).ctl.sec.last = stOK) ∧
    (s.ctl.sec.anchor = 0 → s.ctl.dev.sealed = false → (s.startAction h Addr.secCtl 1).ctl.dev.sealed = false ∧
      (s.startAction h Addr.secCtl 1).ctl.sec.last = stTXN_CONFLICT) ∧
    (s.ctl.dev.sealed = false → (s.startAction h Addr.secCtl 512).ctl.sec.anchor = 0) ∧
    (s.ctl.dev.sealed = true → (s.startAction h Addr.secCtl 512).ctl.sec.anchor = s.ctl.sec.anchor ∧
      (s.startAction h Addr.secCtl 512).ctl.sec.last = stSEALED_REFUSED) ∧
    (∀ k : Fin 8, s.ctl.secBusy = false → (s.startAction h Addr.secCtl (32 + k.val * 64)).ctl.sec.kslots[k] = none) ∧
    (s.ctl.secBusy = false → ((s.startAction h Addr.secCtl 2).ctl.sec.act.map (·.code) = some 1) ∧
      ((s.startAction h Addr.secCtl 6).ctl.sec.act.map (·.code) = some 3)) ∧
    (s.ctl.secBusy = false → s.ctl.sec.trial = false → s.ctl.fwBootable (!s.ctl.sec.fwSlot) = true →
      (s.startAction h Addr.secCtl 4).ctl.sec.next = !s.ctl.sec.fwSlot ∧ (s.startAction h Addr.secCtl 4).ctl.sec.trial = true) ∧
    (∀ n : Nat, 1 ≤ n → n ≤ 3 → s.ctl.rel.psAct = none →
      ((s.startAction h Addr.relCtl (n * 1024)).ctl.rel.psAct.map (·.code)) = some n) ∧
    (s.ctl.secBusy = true → ∀ v, (s.startAction h Addr.secCtl (8 * (v % 64))).ctl = s.ctl)

/-- The ends of actions: a probe set or firmware image that passed its checks takes its slot, a burn raises the version floor,
a rope team's bytes are written; BUSY clears and LAST_STATUS holds the result. A test's end leaves its unit out of service. -/
def Sys2Proof.Claims.ActionsComplete : Prop :=
  ∀ s : State, let img (a : Action) : List Byte := a.bytes.take (leField a.bytes 0x14 4 + 3604)
    (∀ a, s.ctl.sec.act = some a → ∃ t : State, exec .fwActionDone s = .next t ∧ t.ctl.sec.act = none ∧ t.ctl.sec.last = a.status ∧
      t.mem = s.mem ∧ t.cores = s.cores ∧ t.ctl.regs = s.ctl.regs ∧
      (a.status ≠ stOK → t.ctl.sec.fwImg = s.ctl.sec.fwImg ∧ t.ctl.sec.svn = s.ctl.sec.svn) ∧
      (a.status = stOK → a.code = 1 → s.ctl.sec.fwSlot = false → t.ctl.sec.fwImg[1] = some (img a) ∧ t.ctl.sec.fwImg[0] = s.ctl.sec.fwImg[0]) ∧
      (a.status = stOK → a.code = 1 → s.ctl.sec.fwSlot = true → t.ctl.sec.fwImg[0] = some (img a) ∧ t.ctl.sec.fwImg[1] = s.ctl.sec.fwImg[1])) ∧
    (∀ a, s.ctl.sec.rtAct = some a → s.ctl.dev.selfRefresh = false → ∃ t : State, exec .rtActionDone s = .next t ∧ t.ctl.sec.rtAct = none ∧
      t.ctl.sec.last = a.status ∧ t.cores = s.cores ∧ t.ctl.regs = s.ctl.regs ∧
      let cs := s.ctl.copiesOf (a.dst, a.bytes.length)
      ((∀ x ∈ cs, x.2.1 + x.2.2 ≤ a.dst ∨ a.dst + a.bytes.length ≤ x.2.1) →
        ∀ i, i < a.bytes.length → t.mem.read8 (a.dst + i) = a.bytes.getD i 0) ∧
      (∀ x, (x < a.dst ∨ a.dst + a.bytes.length ≤ x) → (∀ y ∈ cs, x < y.2.1 ∨ y.2.1 + y.2.2 ≤ x) → t.mem.read8 x = s.mem.read8 x)) ∧
    (∀ a, s.ctl.rel.psAct = some a → (a.code = 3 → s.ctl.rel.psTrial = true) → ∃ t : State, exec .psActionDone s = .next t ∧ t.ctl.rel.psAct = none ∧
      t.ctl.rel.psLast = a.status ∧ t.mem = s.mem ∧ t.cores = s.cores ∧
      (a.status = stOK → a.code = 2 → t.ctl.rel.psActive = !s.ctl.rel.psActive ∧ t.ctl.rel.psTrial = true) ∧
      (a.status = stOK → a.code = 3 → t.ctl.rel.psActive = !s.ctl.rel.psActive ∧ t.ctl.rel.psTrial = false) ∧
      (a.status ≠ stOK → t.ctl.rel.psActive = s.ctl.rel.psActive ∧ t.ctl.rel.psImg = s.ctl.rel.psImg)) ∧
    (∀ (k : SliceId) (p : Bool), s.ctl.sliceState k.val = 2 → ∃ t : State, exec (.unitTestDone (.slice k) p) s = .next t ∧
      t.ctl.sliceState k.val = 1 ∧ t.mem = s.mem ∧ t.cores = s.cores) ∧
    (∀ (k : StackId) (p : Bool), s.ctl.stackState k.val = 2 → ∃ t : State, exec (.unitTestDone (.stack k) p) s = .next t ∧
      t.ctl.stackState k.val = 1 ∧ t.mem = s.mem ∧ t.cores = s.cores)

/-- The actions of WO fields: what a write does at once, and what their end does. -/
def Obligations.ActionsTakeEffect : Prop :=
  Claims.ActionEffects ∧ Claims.ActionsComplete

/-- Attestation: a repeated nonce gets the held report without a new signature; an ENCAP whose report, signature and anchor
agree admits the session with its keys, and as ADMIN unless its role is 0; a link secret that opens is kept for its port. -/
def Obligations.AttestationAdmits : Prop :=
  ∀ (h : MsgHdr) (s : State) (slot : Nat) (ses : Session), Heard s h slot ses → s.ctl.dev.dstate ≠ .retreat →
    s.session? slot = some ses →
    (∀ (r : HeldReport), plainHdr h 48 = true → ses.report = some r →
      exec (.attestReport h (some r.nonce) 0) s = .next ((base s h slot ses).reportPart h (noted ses h) r 0)) ∧
    (∀ (n : BitVec 256), plainHdr h 48 = true → (∀ r, ses.report = some r → r.nonce ≠ n) → (base s h slot ses).ctl.leavesLeft = 0 →
      exec (.attestReport h (some n) 0) s = .next ((base s h slot ses).reply h fun g =>
        .attestResp g 1 stREJECTED_CAPACITY 0 0 0 [])) ∧
    (∀ (o : EncapObj) (r : HeldReport), h.queue = 0xFFFF → h.eseq = 0 → o.role.toNat ≤ 2 → o.rsvd = 0 → o.ct.length = 1568 →
      o.opkey.length = 60 → o.opsig.length ≤ 16384 → partFits ses (1636 + o.opsig.length) h.length.toNat = true → ses.report = some r →
      r.nonce = o.nonce → ses.state ≠ .closing → (s.ctl.dev.sealed = false ∨ o.role ≠ 2) →
      hssVerify o.opkey (transcript r o ses) o.opsig = true → s.ctl.anchorOk o = true → s.ctl.dev.dstate ≠ .boot →
      ∃ (t : State) (mac : List Byte), exec (.attestEncap h o) s = .next t ∧ t.session? slot = some { noted ses h with
          keys := sessionKeys r (kemDecaps r.boots.toNat o.ct) ses, state := .admitted, admin := o.role != 0 } ∧
        (∃ g, Echoes g h h.port ∧ t.out.head? = some (.attestResp g 2 stOK 0 1 32 mac)) ∧ t.mem = s.mem ∧ t.cores = s.cores ∧ t.ctl.regs = s.ctl.regs ∧
        (o.role = 2 → t.ctl.sec.anchor = BitVec.ofNat 256 (ofLe (sha256 o.opkey)))) ∧
    (∀ (o : LinkSecretObj) (ls : List Byte), h.queue = 0xFFFF → h.eseq = 0 → o.len = 80 → h.length.toNat = 96 → o.rsvd1 = 0 →
      o.rsvd2 = 0 → o.gen ≠ 0 → ∀ hp : o.port.toNat < 16, ses.state = .admitted → ses.admin = true →
      gcmOpen ses.wrapKey (leBytes 12 o.nonce.toNat) (leBytes 1 o.port.toNat ++ [0] ++ leBytes 2 o.devid.toNat ++ leBytes 4 o.gen.toNat)
        (beBytes 32 o.wrap.toNat) (beBytes 16 o.tag.toNat) = some ls →
      ∃ t : State, exec (.attestLinkSecret h o) s = .next t ∧ t.mem = s.mem ∧ t.cores = s.cores ∧
        (t.ctl.links.ports[(⟨o.port.toNat, hp⟩ : MPort)]).secret =
          some ⟨o.devid.extractLsb' 0 15, o.gen, BitVec.ofNat 256 (ofBe ls)⟩)

/-! ### Units that fail, and their return -/

namespace Sys2Proof.Claims

/-- No core and no byte of memory changes. -/
def Quiet (s t : State) : Prop := t.mem = s.mem ∧ t.cores = s.cores

/-- The outcome is a next state that leaves every core and byte of memory as it was, and of which P holds. -/
def Ends (o : Out) (s : State) (P : State → Prop) : Prop := ∃ t : State, o = .next t ∧ Quiet s t ∧ P t

/-- The device state once a unit has left service. -/
def degraded (d : DState) : DState := if d = .service then .degraded else d

/-- Every core halts; one at a stress point of a probe run is reset (R512). -/
def CoresHalt (s t : State) : Prop :=
  (∀ c : CoreId, (∀ r ∈ s.ctl.rel.runs, r.core = c → r.waiting = true) → t.core c = (s.core c).haltNow) ∧
  (∀ r ∈ s.ctl.rel.runs, r.waiting = false → t.core r.core = Core.reset)

/-- Fewer than 16 records of the unit were written in the last second (R482). -/
def Recordable (s : State) (u : UType) (n : Nat) : Prop :=
  ∀ e ∈ s.ctl.rel.written, e.1 = u → e.2.1 = n → (e.2.2.1.filter fun t => decide ((s.ctl.dev.uptime : Int) < t + 1000000)).length < 16

end Sys2Proof.Claims

/-- A unit that leaves service: SERVICE becomes DEGRADED and every other device state stays, RETREAT with a note of it for the
recovery; an OUT_OF_SERVICE record of the unit waits for the next batch, unless 16 of the unit were written in the last second. -/
def Sys2Proof.Claims.UnitLeavesService : Prop :=
  ∀ (s : State) (u : UType) (n reason : Nat), let t := s.unitLeft u n reason
    Quiet s t ∧ t.ctl.dev.dstate = degraded s.ctl.dev.dstate ∧
    (s.ctl.dev.dstate = .retreat → t.ctl.dev.leftRetreat = true) ∧
    (Recordable s u n → ∃ r : Cairn, t.ctl.rel.waiting = s.ctl.rel.waiting ++ [r] ∧ r.kind = 6 ∧ r.utype = u ∧ r.unit = n ∧
      r.data.head? = some (BitVec.ofNat 8 reason) ∧ r.epoch = s.ctl.dev.epoch ∧ r.uptime = s.ctl.dev.uptime)

/-- The entry to SAFE: every session is closed, which a batch of the summit book shows; every core halts, and one at a stress point
is reset; no commit before its commit point and no probe run goes on, HBM enters self-refresh, MOD_ALERT_N is held, and a SAFE record
names the cause. -/
def Sys2Proof.Claims.EntryToSafe : Prop :=
  ∀ (s : State) (cause : Nat) (u : UType) (n : Nat), let t := s.enterSafe cause u n
    s.ctl.dev.dstate ≠ .off → s.ctl.dev.dstate ≠ .safe → s.ctl.dev.stage < 3 →
      t.ctl.dev.dstate = .safe ∧ t.ctl.elo.sessions = [] ∧ t.mem = s.mem ∧
      CoresHalt s t ∧ t.ctl.txn.running = s.ctl.txn.running.filter (fun m => m.applying) ∧ t.ctl.txn.queued = [] ∧
      t.ctl.book.bseq = s.ctl.book.bseq + 1 ∧ t.ctl.rel.runs = [] ∧ t.ctl.pins.alertSafe = true ∧
      t.ctl.dev.selfRefresh = true ∧ ∃ r : Cairn, t.ctl.rel.waiting = s.ctl.rel.waiting ++ [r] ∧ r.kind = 9 ∧ r.utype = u ∧ r.unit = n ∧
        r.data = [BitVec.ofNat 8 cause]

/-- A core, slice or stack that fails a handshake leaves service: a core is reset and quarantined with QCAUSE 4 and its work
restarts elsewhere; a slice marks its regions LOST, a stack the plain regions, with SINGLE in the anchored ones, whose bytes are
served from the other copy, and commands of their jobs end. RECOVERY_BUSY is 0 again when these steps are done, unless a copy or a core is still awaited. -/
def Sys2Proof.Claims.HandshakeFailures : Prop :=
  ∀ s : State, s.ctl.powered = true →
    (∀ (c : CoreId) (repl : Option CoreId), s.ctl.coreOut c.val = false → ∃ s1 : State,
      exec (.coreHandshakeFail c repl) s = .next (((((s1.restartWork c repl).unitLeft .core c.val 4)).mapCtl fun x =>
        { x with dev := { x.dev with relocate := true } }).endRecovery) ∧ s1.core c = Core.reset ∧ s1.ctl.recovering = true ∧
      s1.ctl.qstate c.val = 2 ∧ s1.ctl.fld (Addr.relCore c.val) 9 3 = 4 ∧ (∀ d, d ≠ c → s1.core d = s.core d) ∧
      s1.mem = s.mem ∧ (∀ r ∈ s1.ctl.rel.runs, r.core ≠ c)) ∧
    (∀ (c : CoreId) (repl : Option CoreId), s.ctl.coreOut c.val = true →
      exec (.coreHandshakeFail c repl) s = only s c Core.reset) ∧
    (∀ k : SliceId, s.ctl.sliceState k.val = 0 → ∃ s1 : State,
      exec (.sliceHandshakeFail k) s = .next (((s1.moveJournal k).loseJobs ((s.ctl.sliceRegions k).map fun i =>
        (s1.moveJournal k).ctl.fld (Addr.bcRgnLo i) 38 16)).unitLeft .slice k.val 0).endRecovery ∧ Quiet s s1 ∧
      s1.ctl.recovering = true ∧
      s1.ctl.sliceState k.val = 1 ∧ (∀ i ∈ s.ctl.sliceRegions k, s1.ctl.bit (Addr.bcRgnHi i) 19 = true) ∧
      KMap.get 0 s1.ctl.rel.sliceRet k.val = KMap.get 0 s.ctl.rel.sliceRet k.val + 1 ∧ s1.ctl.jnl = s.ctl.jnl) ∧
    (∀ k : StackId, s.ctl.stackState k.val = 0 → ∃ (s1 : State) (jobs : List Nat),
      exec (.stackHandshakeFail k) s = .next ((s1.loseJobs jobs).unitLeft .stack k.val 0).endRecovery ∧ s1.cores = s.cores ∧
      (s.mem.wf = true → s1.mem.wf = true) ∧
      (∀ a, (∀ i ∈ s.ctl.hbmUsed, s.ctl.anchored i = true →
        a / 4096 < s.ctl.hbmBase i ∨ s.ctl.hbmBase i + s.ctl.hbmPages i ≤ a / 4096) → s1.mem.read8 a = s.mem.read8 a) ∧
      s1.ctl.stackState k.val = 1 ∧
      (∀ i ∈ s.ctl.hbmUsed, s.ctl.anchored i = false →
        s1.ctl.bit (Addr.hbmRgnHi i) 17 = true ∧ s.ctl.fld (Addr.hbmRgnHi i) 0 16 ∈ jobs) ∧
      (∀ i ∈ s.ctl.hbmUsed, s.ctl.anchored i = true → s1.ctl.pageLost i = false →
        s1.ctl.bit (Addr.hbmRgnHi i) 17 = s.ctl.bit (Addr.hbmRgnHi i) 17 ∧
        s1.ctl.bit (Addr.hbmRgnHi i) 16 = true)) ∧
    (∀ t : State, t.endRecovery.ctl.recovering = (t.ctl.jnl.remirror || (t.ctl.dev.relocate && t.ctl.lostIndex)))

/-- The journal moves with its mirrors: a lost mirror is replaced by the standby slice, which is filled again; without a standby
the other mirror goes on alone, with its records; the loss of the last one is SAFE. A command under check goes on with its second
copy where one waits. Two choices of the model: which copy that is (log 159), and that a slice still being filled goes on alone
where the other mirror is lost (log 160). -/
def Sys2Proof.Claims.JournalMoves : Prop :=
  ∀ (s : State) (k : SliceId), let j := s.ctl.jnl
    let t := s.moveJournal k
    let second (m : Cmd) : Cmd := match m.phase, m.dups with
      | .journaling, h :: hs => { m with hdr := h, dups := hs }
      | _, _ => m
    (j.mirror0 = k → j.mirror1 ≠ k → j.single = false → j.standbyValid = true →
      Quiet s t ∧ t.ctl.jnl = { j with mirror0 := j.standby, ring0 := [], standbyValid := false, remirror := true
                                       cmds := j.cmds.map second }) ∧
    (j.mirror0 = k → j.mirror1 ≠ k → j.single = false → j.standbyValid = false →
      Quiet s t ∧ t.ctl.jnl = { j with mirror0 := j.mirror1, ring0 := j.ring1, single := true, remirror := false
                                       cmds := j.cmds.map second }) ∧
    (j.mirror0 ≠ k → j.mirror1 ≠ k → (j.standbyValid = false ∨ j.standby ≠ k) → t = s) ∧
    (j.mirror0 = k → j.single = true → s.ctl.dev.dstate ≠ .off → s.ctl.dev.stage < 3 → t.ctl.dev.dstate = .safe)

/-- Copies that complete: the journal's standby is whole again, of the valid copies (R285), and a new standby region is made where a slice can hold it; the
pages of an anchored region that had one copy have their spare one, which holds the region's bytes. -/
def Sys2Proof.Claims.CopiesComplete : Prop :=
  ∀ s : State,
    (s.ctl.jnl.remirror = true → s.ctl.dev.jnlLost = false →
      (s.ctl.jnl.rebuild (fun n => s.ctl.slotBad s.ctl.jnl.mirror0 n) (fun n => s.ctl.slotBad s.ctl.jnl.mirror1 n)).isSome = true → Ends (exec .remirrorDone s) s fun t => t.ctl.jnl.remirror = false ∧
      t.ctl.jnl.mirror0 = s.ctl.jnl.mirror0 ∧ t.ctl.jnl.mirror1 = s.ctl.jnl.mirror1 ∧ t.ctl.jnl.ring0 = t.ctl.jnl.ring1 ∧
      (s.ctl.jnl.standbyValid = false → ∀ n : SliceId, s.ctl.standbySlice = some n → t.ctl.jnl.standby = n ∧
        t.ctl.jnl.standbyValid = true ∧ t.ctl.fld (Addr.bcSliceCfg n.val) 0 6 = s.ctl.fld (Addr.bcSliceCfg n.val) 0 6 - 8)) ∧
    (∀ r : Fin 256, s.ctl.bit (Addr.hbmRgnHi r.val) 18 = true → s.ctl.dev.selfRefresh = false →
      let c := s.ctl
      let from_ := c.hbmBase r.val
      let to_ := c.hbmSpare r.val
      let copied (p : Nat) : Prop := to_ ≤ p ∧ p < to_ + c.hbmPages r.val ∧ (c.spareFor r.val ((p - to_) % 12)).isSome = true
      ∃ t : State, exec (.spareRestoreDone r) s = .next t ∧ t.cores = s.cores ∧ t.ctl.jnl = s.ctl.jnl ∧
        t.ctl.bit (Addr.hbmRgnHi r.val) 16 = t.ctl.pageSingle r.val ∧ t.ctl.bit (Addr.hbmRgnHi r.val) 18 = t.ctl.canRestore r.val ∧
        (s.mem.wf = true → t.mem.wf = true ∧ (∀ a, ¬ copied (a / 4096) → t.mem.read8 a = s.mem.read8 a) ∧
          ∀ p o, copied p → o < 4096 → t.mem.read8 (p * 4096 + o) = s.mem.read8 ((from_ + (p - to_)) * 4096 + o)))

/-- Readings of the stacks: scrub counts add to CE_CNT, which saturates; a temperature is shown, and at 105 C the S4 enters
SAFE. -/
def Sys2Proof.Claims.StackReadings : Prop :=
  ∀ (k : StackId) (s : State), s.ctl.powered = true →
    (∀ count : Nat, s.ctl.stackState k.val = 0 → Ends (exec (.ecsReadTick k count) s) s fun t =>
      t.ctl.fld (Addr.hbmEcc k.val) 0 32 = min (2 ^ 32 - 1) (s.ctl.fld (Addr.hbmEcc k.val) 0 32 + count) ∧
      (∀ a, a ≠ Addr.hbmEcc k.val → t.ctl.reg a = s.ctl.reg a)) ∧
    (∀ (c : BitVec 8) (hot : Bool), c.toNat < 105 → Ends (exec (.hbmTempTick k c hot) s) s fun t =>
      t.ctl.fld (Addr.hbmStat k.val) 3 8 = c.toNat ∧ t.ctl.bit (Addr.hbmStat k.val) 11 = hot ∧
      t.ctl.stackState k.val = s.ctl.stackState k.val ∧ t.ctl.dev = s.ctl.dev ∧
      (∀ a, a ≠ Addr.hbmStat k.val → t.ctl.reg a = s.ctl.reg a)) ∧
    (∀ (c : BitVec 8) (hot : Bool), 105 ≤ c.toNat → s.ctl.dev.dstate ≠ .safe → s.ctl.dev.stage < 3 →
      ∃ t : State, exec (.hbmTempTick k c hot) s = .next t ∧ t.ctl.dev.dstate = .safe ∧ t.ctl.elo.sessions = [] ∧
        CoresHalt s t ∧ t.mem = s.mem)

/-- Units fail and return: what leaving service records, the journal's moves, the handshakes, the copies that complete and the
readings of the stacks. -/
def Obligations.UnitsLeaveAndReturn : Prop :=
  Claims.UnitLeavesService ∧ Claims.JournalMoves ∧ Claims.HandshakeFailures ∧ Claims.CopiesComplete ∧ Claims.StackReadings

/-! ### Laser modules -/

/-- Laser modules: LMk feeds the two ports of OEk, and taking it away takes down exactly those; a drained module is turned off with REMOVE_OK and its ports go DOWN with LASER_REMOVED; an inserted one is
turned on outside OFF and its ports train; a pulled one is absent and its ports have NO_LIGHT; a fault shows in STATE. -/
def Obligations.LaserModules : Prop :=
  (∀ (k : LaserId) (p : MPort), p ∈ mportsOf k ↔ p.val / 2 = k.val) ∧
  (∀ (k : LaserId) (p : HPort), p ∈ hportsOf k ↔ 8 + p.val / 2 = k.val) ∧
  ∀ (k : LaserId) (s : State),
    let others (t : State) : Prop := (∀ p, p ∉ mportsOf k → (t.ctl.port p).state = (s.ctl.port p).state) ∧
      ∀ p, p ∉ hportsOf k → SamePort (t.ctl.hport p) (s.ctl.hport p)
    (k.val < 8 → (s.ctl.laser k).draining = true → (∀ p ∈ mportsOf k, (s.ctl.port p).retry = []) →
      Ends (exec (.mlkDrainComplete k) s) s fun t =>
        (t.ctl.laser k).state = .presentOff ∧ (t.ctl.laser k).removeOk = true ∧ (t.ctl.laser k).draining = false ∧
        (∀ p ∈ mportsOf k, (t.ctl.port p).state = .down ∧ (t.ctl.port p).reason = 10) ∧ others t ∧
        t.ctl.dev.dstate = degraded s.ctl.dev.dstate) ∧
    (8 ≤ k.val → (s.ctl.laser k).draining = true → Ends (exec (.hostDrainComplete k) s) s fun t =>
        (t.ctl.laser k).state = .presentOff ∧ (t.ctl.laser k).removeOk = true ∧ (t.ctl.laser k).draining = false ∧
        (∀ p ∈ hportsOf k, (t.ctl.hport p).state = .down ∧ (t.ctl.hport p).reason = 10 ∧
          (t.ctl.hport p).peers = []) ∧ others t ∧
        t.ctl.dev.dstate = degraded s.ctl.dev.dstate) ∧
    (∀ serial : BitVec 32, (s.ctl.laser k).state ≠ .on →
      (s.ctl.dev.dstate ≠ .off → s.ctl.dev.dstate ≠ .boot → Ends (exec (.lmInserted k serial) s) s fun t =>
        t.ctl.laser k = ⟨true, .on, false, false, serial⟩ ∧ (∀ a, a ≠ Addr.relCnt → t.ctl.reg a = s.ctl.reg a) ∧
        (∀ p ∈ mportsOf k, s.ctl.pEn p = true → (s.ctl.axisOf p).isSome = true → (s.ctl.port p).state ≠ .up →
          (t.ctl.port p).state = .training) ∧
        (∀ p ∈ hportsOf k, s.ctl.bit (Addr.eloPcfg p.val) 0 = true → (s.ctl.hport p).state ≠ .up →
          (t.ctl.hport p).state = .training)) ∧
      (s.ctl.dev.dstate = .off → exec (.lmInserted k serial) s =
        .next (s.mapCtl fun c => c.setLaser k ⟨true, .presentOff, false, false, serial⟩))) ∧
    ((s.ctl.laser k).state = .on → Ends (exec (.lmPulled k) s) s fun t =>
        (t.ctl.laser k).state = .absent ∧ (t.ctl.laser k).present = false ∧
        (∀ p ∈ mportsOf k, (t.ctl.port p).state = .down ∧ (t.ctl.port p).reason = 2) ∧
        (∀ p ∈ hportsOf k, (t.ctl.hport p).state = .down ∧ (t.ctl.hport p).reason = 2) ∧ others t ∧
        t.ctl.dev.dstate = degraded s.ctl.dev.dstate) ∧
    ((s.ctl.laser k).state = .on → Ends (exec (.laserModuleFault k) s) s fun t =>
        (t.ctl.laser k).state = .fault ∧ t.ctl.links.ports = s.ctl.links.ports ∧
        (∀ p, SamePort (t.ctl.hport p) (s.ctl.hport p)) ∧
        t.ctl.dev.dstate = degraded s.ctl.dev.dstate)

/-! ### Resets, start-up and power -/

namespace Sys2Proof.Claims

/-- BOOT at step 3, in a new epoch, after a reset of a class and a cause (R512). -/
def BootsAt (t : State) (b : BootClass) (cause : Nat) : Prop :=
  t.ctl.dev.dstate = .boot ∧ t.ctl.dev.bootStep = 3 ∧ t.ctl.dev.boot = b ∧ t.ctl.dev.lastReset = cause ∧
  t.ctl.dev.stage = 0 ∧ t.ctl.dev.sinceT0 = 0 ∧ t.ctl.pins.alertSafe = false

/-- The pins become those of f; nothing else changes. -/
def pinsOnly (s : State) (f : Pins → Pins) : Out := .next { s with ctl := { s.ctl with pins := f s.ctl.pins } }

/-- What power-on needs of the pins (R528, R531). -/
def PowerGood (p : Pins) : Prop :=
  p.aux = true ∧ p.pwrEn = true ∧ p.pwrOk = true ∧ p.vinRange = true ∧ p.over60 = false ∧ p.offHold = false

/-- A pin event in OFF with everything power-on needs: the S4 powers on and start-up runs with the units that fail. -/
def PowersOn (o : Out) (s : State) (f : Pins → Pins) (failing : List UnitRef) : Prop :=
  (s.ctl.dev.dstate = .off → PowerGood (f s.ctl.pins) → ∃ s1 : State, o = .next (s1.bootAll failing) ∧ BootsAt s1 .powerOn 0 ∧
    Quiet s s1 ∧ s1.ctl.dev.sealed = false ∧ s1.ctl.dev.powerOns = s.ctl.dev.powerOns + 1 ∧ s1.ctl.dev.epoch = s.ctl.dev.epoch + 1 ∧
    s1.ctl.sec = s.ctl.sec ∧ s1.ctl.pow.ledger = s.ctl.book.readBack.ledger) ∧
  ((s.ctl.dev.dstate ≠ .off ∨ ¬ PowerGood (f s.ctl.pins)) → o = pinsOnly s f)

end Sys2Proof.Claims

/-- MOD_RESET_N held low causes one cold reset, until the pin has been high: BOOT at step 3, every core at reset, memory empty;
quarantine and retirement are kept. Where no reset may be taken, and until the reset of an earlier pulse has run, only the pins
change. -/
def Sys2Proof.Claims.ColdResetByPin : Prop :=
  ∀ s : State,
    (s.ctl.pins.armed = true → s.ctl.mayReset = true → s.ctl.pinResetRuns = false → ∃ t : State, exec .modResetNAssert s = .next t ∧ BootsAt t .cold 1 ∧
      (∀ c, t.core c = Core.reset) ∧ t.mem = [] ∧ t.ctl.elo.images = [] ∧ t.ctl.jnl.cmds = [] ∧ t.ctl.txn.running = none ∧
      t.ctl.pins.armed = false ∧ t.ctl.pins.resetLow = true ∧
      (s.ctl.coll.ops = [] → s.ctl.rel.runs = [] → (∀ e ∈ s.ctl.elo.sessions, e.1 < 1024) →
        (∀ e ∈ s.ctl.book.items.sessions, e.1 < 1024) → t.ctl.jnl.jseq = s.ctl.jnl.jseq ∧
        (∀ n, n < 384 → t.ctl.reg (Addr.relCore n) = s.ctl.reg (Addr.relCore n)) ∧
        (∀ n, n < 32 → t.ctl.sliceState n = (if s.ctl.sliceState n = 0 then 0 else 1)) ∧
        (∀ n, n < 12 → t.ctl.stackState n = (if s.ctl.stackState n = 0 then 0 else 1)))) ∧
    (s.ctl.pins.armed = false ∨ s.ctl.mayReset = false ∨ s.ctl.pinResetRuns = true →
      exec .modResetNAssert s = pinsOnly s fun p => { p with resetLow := true, armed := false }) ∧
    exec .modResetNDeassert s = pinsOnly s fun p => { p with resetLow := false, armed := true }

/-- The watchdog causes a warm reset: BOOT at step 3; device memory, the configuration of jobs, Base Camp and HBM, and each
core's registers are kept, its ledge is lost; no session stays admitted. -/
def Sys2Proof.Claims.WarmResetByWatchdog : Prop :=
  ∀ s : State,
    (s.ctl.mayReset = true → ∃ t : State, exec .watchdogExpiry s = .next t ∧ BootsAt t .warm 4 ∧
      ((∀ m, s.ctl.txn.running = some m → m.applying = false) → s.ctl.coll.ops = [] →
        t.mem = s.mem ∧ ∀ a, a < Addr.mlk → t.ctl.reg a = s.ctl.reg a) ∧
      (∀ c : CoreId, (t.core c).run = .idle ∧ (t.core c).ledge = [] ∧ (t.core c).prog = none ∧
        ((∀ r ∈ s.ctl.rel.runs, r.core = c → r.waiting = true) → (t.core c).g = (s.core c).g ∧
          (t.core c).flags = (s.core c).flags ∧ (t.core c).qs = (s.core c).qs ∧ (t.core c).cb = (s.core c).cb)) ∧
      (∀ e ∈ t.ctl.elo.sessions, e.2.admin = false ∧ e.2.state ≠ .admitted ∧ e.2.txn = none) ∧
      t.ctl.txn.running = none ∧ t.ctl.txn.queued = [] ∧ t.ctl.elo.images = s.ctl.elo.images) ∧
    (s.ctl.mayReset = false → exec .watchdogExpiry s = .next s)

/-- The pins and supplies: power-on from OFF, only pins otherwise; MOD_ALERT_N above 60 V; the management port stops with
3V3_AUX; the loss of input power is OFF, with everything volatile and the key of HBM lost, the summit book as it stood and the
sealed attribute kept until the next power-on. -/
def Sys2Proof.Claims.PinsAndSupplies : Prop :=
  ∀ s : State,
    (∀ fs, PowersOn (exec (.modPwrEnAssert fs) s) s (fun p => { p with pwrEn := true }) fs) ∧
    (∀ fs, PowersOn (exec (.modPwrOkAssert fs) s) s (fun p => { p with pwrEn := true, pwrOk := true, vinRange := true }) fs) ∧
    PowersOn (exec .offHoldExpiry s) s (fun p => { p with offHold := false }) [] ∧
    PowersOn (exec .auxPowerPresent s) s (fun p => { p with aux := true }) [] ∧
    (Ends (exec .auxPowerLost s) s fun t => t.ctl.pins = { s.ctl.pins with aux := false } ∧ t.ctl.mgmt = ⟨none, none⟩ ∧
      t.ctl.dev = s.ctl.dev ∧ t.ctl.regs = s.ctl.regs ∧ t.ctl.alert = false) ∧
    (exec .vinOvervoltage s = pinsOnly s fun p => { p with over60 := true }) ∧
    (exec .vinOvervoltageClear s = pinsOnly s fun p => { p with over60 := false }) ∧
    (s.ctl.dev.dstate ≠ .off → ∃ t : State, exec .inputPowerLost s = .next t ∧ t.ctl.dev.dstate = .off ∧ t.mem = [] ∧
      (∀ c, t.core c = Core.reset) ∧ t.ctl.elo.sessions = [] ∧ t.ctl.dev.sealed = s.ctl.dev.sealed ∧
      t.ctl.book = { s.ctl.book with lastVer := [] } ∧
      t.ctl.sec.hbmKey = none ∧
      t.ctl.sec.anchor = s.ctl.sec.anchor ∧ t.ctl.rel.ring = s.ctl.rel.ring ∧ t.ctl.pins.vinRange = false) ∧
    (s.ctl.dev.dstate = .off → exec .inputPowerLost s = pinsOnly s fun p => { p with vinRange := false })

/-- The steps of BOOT: each ends at the next one while BOOT lasts; a Guide with no core in service is SAFE; at step 6 the
enabled, lit host ports come UP; a unit that misses step 7 is SAFE. -/
def Sys2Proof.Claims.BootSteps : Prop :=
  ∀ (fs : List UnitRef) (s : State), s.ctl.dev.dstate = .boot →
    (s.ctl.dev.bootStep < 7 → (s.ctl.dev.bootStep = 6 → fs = []) → ∃ t : State, exec (.bootStepDeadline fs) s = .next t ∧
      (t.ctl.dev.dstate = .boot → t.ctl.dev.bootStep = s.ctl.dev.bootStep + 1)) ∧
    (s.ctl.dev.bootStep = 3 → s.ctl.dev.boot ≠ .warm → .guide 0 ∈ fs → .guide 1 ∈ fs → s.ctl.dev.stage = 0 →
      ∃ t : State, exec (.bootStepDeadline fs) s = .next t ∧ t.ctl.dev.dstate = .safe ∧ t.ctl.dev.guideA = false ∧
        t.ctl.dev.guideB = false) ∧
    (s.ctl.dev.bootStep = 5 → ∀ p : HPort, s.ctl.bit (Addr.eloPcfg p.val) 0 = true → (s.ctl.laser (laserOfH p)).present = true →
      .laser (laserOfH p) ∉ fs → .hport p ∉ fs → ∃ t : State, exec (.bootStepDeadline fs) s = .next t ∧
        (t.ctl.hport p).state = .up ∧ (t.ctl.hport p).reason = 0 ∧ t.ctl.dev.bootStep = 6) ∧
    (s.ctl.dev.bootStep = 6 → fs = [] →
      (s.ctl.dev.boot = .warm → s.ctl.jnl.cmds = [] ∧ ∀ j, j < 16 → s.ctl.bit (Addr.jobF j) 0 = false) → ∃ t : State, exec (.bootStepDeadline fs) s = .next t ∧ Quiet s t ∧
      t.ctl.dev.dstate = .boot ∧ t.ctl.dev.bootStep = 7 ∧ t.ctl.dev.bootMs = s.ctl.dev.sinceT0 / 1000) ∧
    (s.ctl.dev.bootStep = 6 → fs ≠ [] → s.ctl.dev.stage < 3 → ∃ t : State, exec (.bootStepDeadline fs) s = .next t ∧
      t.ctl.dev.dstate = .safe)

/-- Resets and start-up: the classes by pin and by watchdog, the pins and supplies, and the steps of BOOT. -/
def Obligations.ResetsAndStartUp : Prop :=
  Claims.ColdResetByPin ∧ Claims.WarmResetByWatchdog ∧ Claims.PinsAndSupplies ∧ Claims.BootSteps

/-- The retreat ladder: stage A moves an admitting S4 to RETREAT and counts; stage B halves the clocks and ends probe runs;
recovery before stage C returns to the state held before, or to DEGRADED where a unit left service meanwhile; from stage C the S4
goes to OFF with a valid tail. -/
def Obligations.RetreatLadder : Prop :=
  ∀ (v : BitVec 12) (s : State),
    (admitting s.ctl.dev.dstate = true → s.ctl.dev.stage = 0 → Ends (exec (.retreatStageA v) s) s fun t =>
      t.ctl.dev.dstate = .retreat ∧ t.ctl.dev.prev = s.ctl.dev.dstate ∧ t.ctl.dev.stage = 1 ∧ t.ctl.pow.vin = v ∧
      t.ctl.fld Addr.pwrVin 12 16 = min 65535 (s.ctl.fld Addr.pwrVin 12 16 + 1)) ∧
    (s.ctl.dev.dstate = .boot → s.ctl.dev.stage = 0 → Ends (exec (.retreatStageA v) s) s fun t =>
      t.ctl.dev.dstate = .boot ∧ t.ctl.dev.stage = 1 ∧ t.ctl.pow.vin = v) ∧
    ((admitting s.ctl.dev.dstate = true ∧ s.ctl.dev.stage = 0) ∨ s.ctl.dev.stage = 1 →
      ∃ t : State, exec (.retreatStageB v) s = .next t ∧ t.mem = s.mem ∧ t.ctl.dev.stage = 2 ∧ t.ctl.rel.runs = [] ∧
        (∀ n, t.ctl.coreKhz n ≤ 350000) ∧ (admitting s.ctl.dev.dstate = true → s.ctl.dev.stage = 0 → t.ctl.dev.dstate = .retreat)) ∧
    (s.ctl.dev.stage = 2 → Ends (exec (.retreatLeaveB v) s) s fun t =>
      t.ctl.dev.stage = 1 ∧ t.ctl.dev.dstate = s.ctl.dev.dstate ∧ t.ctl.pow.vin = v ∧ t.ctl.regs = s.ctl.regs) ∧
    (s.ctl.dev.stage = 1 ∨ s.ctl.dev.stage = 2 → s.ctl.dev.dstate = .retreat → Ends (exec (.retreatRecover v) s) s fun t =>
      t.ctl.dev.stage = 0 ∧
      (s.ctl.dev.leftRetreat = true → t.ctl.dev.dstate = .degraded) ∧
      (s.ctl.dev.leftRetreat = false →
        (s.ctl.dev.prev = .admitted → t.ctl.dev.dstate = .admitted) ∧
        (s.ctl.dev.prev = .service → t.ctl.dev.dstate = if s.ctl.unitsOut then .degraded else .service) ∧
        (s.ctl.dev.prev = .degraded → t.ctl.dev.dstate = .degraded))) ∧
    (s.ctl.dev.dstate ≠ .off → ∃ t : State, exec (.retreatStageC v) s = .next t ∧ t.ctl.dev.dstate = .off ∧ t.mem = [] ∧
      (∀ c, t.core c = Core.reset) ∧ t.ctl.book.tail = true ∧ t.ctl.rel.waiting = [] ∧ t.ctl.elo.sessions = [] ∧
      t.ctl.dev.sealed = s.ctl.dev.sealed ∧ t.ctl.pins.offHold = true) ∧
    (s.ctl.dev.dstate = .off → exec (.retreatStageC v) s = .next s)

/-- The Guide in lockstep: a mismatch halts both cores; a self-test that both pass is a transient and ends the commit in
progress; one core that fails leaves, and the S4 goes on; with none left it enters SAFE, as when the last one fails. -/
def Sys2Proof.Claims.LockstepOutcomes : Prop :=
  ∀ s : State,
    (s.ctl.powered = true → s.ctl.dev.guideA = true → s.ctl.dev.guideB = true →
      exec .guideLockstepMismatch s = .next (s.mapCtl fun c => { c with dev := { c.dev with halted := true } })) ∧
    (s.ctl.dev.halted = true →
      ((∀ m, s.ctl.txn.running = some m → m.applying = false) → Ends (exec (.guideSelfTestDone true true) s) s fun t => t.ctl.dev.halted = false ∧ t.ctl.dev.guideA = true ∧
        t.ctl.dev.guideB = true ∧ t.ctl.dev.dstate = s.ctl.dev.dstate ∧ t.ctl.txn.running = none ∧
        t.ctl.fld Addr.relCnt 0 16 = min 65535 (s.ctl.fld Addr.relCnt 0 16 + 1)) ∧
      (∀ a : Bool, Ends (exec (.guideSelfTestDone a (!a)) s) s fun t => t.ctl.dev.halted = false ∧ t.ctl.dev.guideA = a ∧
        t.ctl.dev.guideB = !a ∧ t.ctl.dev.dstate = degraded s.ctl.dev.dstate) ∧
      (s.ctl.dev.dstate ≠ .off → s.ctl.dev.stage < 3 → ∃ t : State, exec (.guideSelfTestDone false false) s = .next t ∧
        t.ctl.dev.dstate = .safe ∧ t.ctl.dev.guideA = false ∧ t.ctl.dev.guideB = false)) ∧
    (s.ctl.powered = true → s.ctl.dev.guideA ≠ s.ctl.dev.guideB → s.ctl.dev.stage < 3 →
      ∃ t : State, exec .guideCoreFail s = .next t ∧ t.ctl.dev.dstate = .safe ∧ t.ctl.dev.guideA = false ∧
        t.ctl.dev.guideB = false)

/-- The entry to SAFE, and what the Guide's lockstep leads to. -/
def Obligations.GuideAndSafe : Prop := Claims.EntryToSafe ∧ Claims.LockstepOutcomes

/-! ### The summit book and the management port -/

/-- A batch holds the items as they stand and at most 8 waiting records, which enter the ring with rising numbers; at most 200
completions are then reported. A checkpoint is of the latest batch, in the older copy, and the log keeps what follows it; what a later
start reads back is the tail, else the newest batch. -/
def Sys2Proof.Claims.BatchesAndCheckpoints : Prop :=
  ∀ s : State,
    (s.ctl.writesBook = true → Ends (exec .summitBatch s) s fun t =>
      t.ctl.book.items = s.capture ∧ t.ctl.rel.waiting = s.ctl.rel.waiting.drop 8 ∧
      t.ctl.rel.nextNum = s.ctl.rel.nextNum + min 8 s.ctl.rel.waiting.length ∧
      t.ctl.jnl.reports = s.ctl.jnl.reports.drop 200 ∧ t.ctl.regs = s.ctl.regs ∧
      (∀ r, s.ctl.rel.waiting.head? = some r → t.ctl.book.bseq = s.ctl.book.bseq + 1 ∧
        { r with num := s.ctl.rel.nextNum, snap := s.snapVer + 1 } ∈ t.ctl.rel.ring)) ∧
    (s.ctl.writesBook = false → exec .summitBatch s = .next s) ∧
    (s.ctl.writesBook = true → s.ctl.book.writing = none → exec .summitCheckpoint s = .next (s.mapCtl fun c =>
      { c with book := { c.book with
        writing := some (decide (c.book.ckptB.bseq < c.book.ckptA.bseq), ⟨c.book.bseq, c.book.items⟩) } })) ∧
    (∀ b k, s.ctl.book.writing = some (b, k) → Ends (exec .checkpointComplete s) s fun t =>
      t.ctl.book = { s.ctl.book with writing := none, log := s.ctl.book.log.filter (fun e => decide (k.bseq < e.bseq))
                                     ckptA := if b then s.ctl.book.ckptA else k
                                     ckptB := if b then k else s.ctl.book.ckptB } ∧ t.ctl.regs = s.ctl.regs) ∧
    -- what is read back: the tail, else the newest batch of the log after the newest checkpoint, else that checkpoint
    (let b := s.ctl.book
     let k := if b.ckptA.bseq < b.ckptB.bseq then b.ckptB else b.ckptA
     (b.tail = true → b.readBack = b.items) ∧
     (b.tail = false → (∀ e ∈ b.log, e.bseq ≤ k.bseq) → b.readBack = k.items) ∧
     (∀ e es, b.tail = false → b.log = e :: es → k.bseq < e.bseq → b.readBack = e.items))

/-- The management port with 3V3_AUX: a named read is pending, then ready with the words of a snapshot; BUSY until then. It opens
GLB, CAP, SUM, the ring, REL_CRNUM and REL_STAT; in OFF fewer, and the rest is UNAVAILABLE. -/
def Sys2Proof.Claims.ManagementReads : Prop :=
  ∀ s : State, s.ctl.pins.aux = true →
    (∀ a n, exec (.mgmtSetRead a n) s = .next (s.mapCtl fun c => { c with mgmt := ⟨some (a, n), none⟩ })) ∧
    (∀ a n, s.ctl.mgmt.pending = some (a, n) →
      exec .mgmtReadReady s = .next (s.mapCtl fun c => { c with mgmt := ⟨none, some (s.mgmtRead a.toNat n.toNat)⟩ }) ∧
      exec .mgmtGetRead s = .next (s.send (.mgmt mBUSY 0 []))) ∧
    (∀ v ws, s.ctl.mgmt.pending = none → s.ctl.mgmt.ready = some (mOK, v, ws) →
      exec .mgmtGetRead s = .next (s.send (.mgmt mOK v ws))) ∧
    (∀ a n : Nat, a % 8 = 0 → 1 ≤ n → n ≤ 30 → (blockOf a n).isSome = true →
      (mgmtOpen a n = false → s.mgmtRead a n = (mDENIED, 0, [])) ∧
      (mgmtOpen a n = true → s.ctl.dev.dstate ≠ .off → s.mgmtRead a n =
        (mOK, s.snapVer, (List.range n).map fun i => s.snap.read s.snapVer (a + 8 * i))) ∧
      (mgmtOpen a n = true → mgmtOff a n = false → s.ctl.dev.dstate = .off → s.mgmtRead a n = (mUNAVAIL, 0, []))) ∧
    (∀ a n : Nat, (a % 8 ≠ 0 ∨ n = 0 ∨ 30 < n) → s.mgmtRead a n = (mBAD, 0, []))

/-- The next bottom tree is ready, its key signed with the next top-level leaf, once half of the current one's leaves are used, and
not before. -/
def Sys2Proof.Claims.BottomTree : Prop :=
  ∀ s : State, s.ctl.powered = true →
    (2 ^ 19 ≤ s.ctl.sec.q % 2 ^ 20 → s.ctl.sec.tree ≤ s.ctl.sec.q / 2 ^ 20 → Ends (exec .bottomTreeDone s) s fun t =>
      (∃ m, t.ctl.sec = { s.ctl.sec with tree := s.ctl.sec.q / 2 ^ 20 + 1, treeSigs := m } ∧
        KMap.get none m (s.ctl.sec.q / 2 ^ 20 + 1) = some (treeSign (s.ctl.sec.q / 2 ^ 20 + 1))) ∧ t.ctl.regs = s.ctl.regs) ∧
    (s.ctl.sec.q % 2 ^ 20 < 2 ^ 19 → exec .bottomTreeDone s = .next s)

/-- The summit book's batches and checkpoints, the management port and the signature trees. -/
def Obligations.BookAndManagement : Prop := Claims.BatchesAndCheckpoints ∧ Claims.ManagementReads ∧ Claims.BottomTree

/-! ### Probe runs -/

/-- A run starts: the release probe that the Guide owes a quarantined core, which begins at once with the core reset and under probe;
or a routine run on the core in service with the most hours since its last, under the set that is active, which waits for a hot
window and leaves its core alone until then. -/
def Sys2Proof.Claims.ProbeRunsStart : Prop :=
  ∀ (c : CoreId) (s : State), s.ctl.rel.runs.length < 2 →
    (s.ctl.mayRelease = true → s.ctl.rel.owed.contains c = true → s.ctl.coreOut c.val = true → ∃ (t : State) (r : ProbeRun),
      exec (.probeRunStart c) s = .next t ∧ t.ctl.rel.runs.length = s.ctl.rel.runs.length + 1 ∧ r ∈ t.ctl.rel.runs ∧
      r.core = c ∧ r.release = true ∧ t.ctl.qstate c.val = 1 ∧ (t.core c).run = .running ∧ t.ctl.rel.owed.contains c = false ∧
      t.ctl.rel.runNo = s.ctl.rel.runNo + 1 ∧ t.mem = s.mem ∧ ∀ d, d ≠ c → t.core d = s.core d) ∧
    (s.ctl.mayProbe = true → s.ctl.rel.owed.contains c = false → s.ctl.bit Addr.relCfg 0 = true → s.routineCore c = true →
      (∀ d : CoreId, s.routineCore d = true → s.ctl.hoursSince d.val ≤ s.ctl.hoursSince c.val) →
      Ends (exec (.probeRunStart c) s) s fun t => ∃ r : ProbeRun, t.ctl.rel.runs = s.ctl.rel.runs ++ [r] ∧ r.core = c ∧
        r.release = false ∧ r.waiting = true ∧ r.number = s.ctl.rel.runNo ∧ r.slot = s.ctl.rel.psActive ∧
        r.set = s.ctl.psBytes s.ctl.rel.psActive ∧ t.ctl.rel.runNo = s.ctl.rel.runNo + 1 ∧ t.ctl.regs = s.ctl.regs)

/-- The course of a run: a hot wait that ends puts the core under probe and loads the first program, but in RETREAT and during a
recovery; a point that passes, is skipped or lies beyond a limit leads to the next; the last one ends a clean routine run with QSTATE 0
and HOURS_SINCE 0; a class 0 point that fails, outside a trial, quarantines the core with QCAUSE 2; a run that is abandoned leaves
HOURS_SINCE alone, and its core as it was where the run had not begun. -/
def Sys2Proof.Claims.ProbeRunsCourse : Prop :=
  ∀ (c : CoreId) (s : State),
    (∀ r, (s.ctl.rel.runs.find? fun r => r.core = c ∧ r.waiting = true) = some r → s.ctl.mayProbe = true → ∃ t : State,
      exec (.hotWaitExpiry c) s = .next t ∧ (t.core c).run = .running ∧ ((t.core c).prog.bind (·.probe)) = some r.number ∧
      t.ctl.qstate c.val = 1 ∧ t.mem = s.mem ∧ (∀ d, d ≠ c → t.core d = s.core d) ∧
      ∀ x ∈ t.ctl.rel.runs, x.core = c → x.waiting = false) ∧
    (s.ctl.mayProbe = false → exec (.hotWaitExpiry c) s = .next s) ∧
    (∀ r, (s.ctl.rel.runs.find? fun r => r.core = c) = some r → ∃ t : State, exec (.probeRunAbandon c) s = .next t ∧
      t.ctl.rel.runs = s.ctl.rel.runs.filter (fun r => r.core ≠ c) ∧
      (r.waiting = false → t.core c = Core.reset) ∧ (r.waiting = true → t.core c = s.core c) ∧
      (r.release = true → t.ctl.qstate c.val = 2) ∧ (r.release = false → t.ctl.qstate c.val = 0) ∧
      t.ctl.hoursSince c.val = s.ctl.hoursSince c.val ∧ t.mem = s.mem ∧ ∀ d, d ≠ c → t.core d = s.core d) ∧
    (∀ (skipped : Bool) (res prev : List ProbeProg) (r : ProbeRun),
      (s.ctl.rel.runs.find? fun r => r.core = c ∧ r.waiting = false) = some r →
      (∀ x ∈ s.ctl.rel.runs, x.core = c → x = r) →
      let b := r.set
      let seen := observed r.res res
      let goesOn : Prop := skipped = true ∨ s.ctl.pointLimited c.val (psPoint b r.point) = true ∨ pointPass b seen = true
      let out := exec (.probePointDone c skipped res prev) s
      (goesOn → r.point + 1 < psNpoint b → ∃ t : State, out = .next t ∧
        (∀ x ∈ t.ctl.rel.runs, x.core = c → x.point = r.point + 1 ∧ x.fails = r.fails) ∧ (t.core c).run = .running ∧
        t.mem = s.mem ∧ ∀ d, d ≠ c → t.core d = s.core d) ∧
      (goesOn → psNpoint b ≤ r.point + 1 → r.release = false → r.due = 0 → r.first = none → s.ctl.rel.psTrial = false → ∃ t : State, out = .next t ∧ t.ctl.qstate c.val = 0 ∧
        t.ctl.hoursSince c.val = 0 ∧ (∀ x ∈ t.ctl.rel.runs, x.core ≠ c) ∧ t.core c = Core.reset ∧ t.mem = s.mem) ∧
      (skipped = false → s.ctl.pointLimited c.val (psPoint b r.point) = false → pointPass b seen = false →
        psClass (psPoint b r.point) = 0 → detectorFails b seen = false → s.ctl.rel.psTrial = false →
        (r.trial = false ∨ r.slot = s.ctl.rel.psActive) → r.release = false → ∃ s1 : State, out = .next (s1.quarantine c 2 none) ∧ Quiet s s1 ∧
        s1.ctl.hoursSince c.val = 0))

/-- The service counters of a core in service: 720 h without an escalation clear ESC_CNT; an overdue core's hours are at least
PERIOD_H. No other register changes. -/
def Sys2Proof.Claims.ServiceCounters : Prop :=
  ∀ (c : CoreId) (s : State), s.ctl.coreOut c.val = false →
    (Ends (exec (.escCntDecay c) s) s fun t => t.ctl.fld (Addr.relCore c.val) 7 2 = 0 ∧ t.ctl.hoursSince c.val = s.ctl.hoursSince c.val ∧
      ∀ a, a ≠ Addr.relCore c.val → t.ctl.reg a = s.ctl.reg a) ∧
    (Ends (exec (.probeOverdue c) s) s fun t => t.ctl.hoursSince c.val = max (s.ctl.hoursSince c.val) (s.ctl.fld Addr.relCfg 1 14) ∧
      t.ctl.fld (Addr.relCore c.val) 7 2 = s.ctl.fld (Addr.relCore c.val) 7 2 ∧
      ∀ a, a ≠ Addr.relCore c.val → t.ctl.reg a = s.ctl.reg a)

/-- Probe runs, from their start to their end, and the service counters of a core. -/
def Obligations.ProbeRuns : Prop := Claims.ProbeRunsStart ∧ Claims.ProbeRunsCourse ∧ Claims.ServiceCounters

/-! ### Power and temperature -/

/-- The allocation by priority stays under the cap: ports first, then memory, vector and array from what is left, each at most
its demand and, where there is one, the most that R17 gives its class; the clock lies between 175 and 700 MHz and the duty between 1 and 64. The lines
of R17 add up to 2,400 W. -/
def Sys2Proof.Claims.AllocationKeepsTheCap : Prop :=
  (TdpTable.total {} = 2400 ∧ tdpMost = ⟨250, 490, 120, 970⟩) ∧
  ∀ (most : Option Demand) (cap k fixed : Rat) (d : Demand), 0 ≤ d.ports → 0 ≤ d.mem → 0 ≤ d.vec → 0 ≤ d.arr →
    (∀ m, most = some m → 0 ≤ m.mem ∧ 0 ≤ m.vec ∧ 0 ≤ m.arr) →
    let a := allocatePriority most cap k fixed d
    let left := cap / k - fixed - d.ports
    let mem := atMost (most.map (·.mem)) d.mem
    let arr := atMost (most.map (·.arr)) d.arr
    0 ≤ a.mem ∧ a.mem ≤ d.mem ∧ 0 ≤ a.arr ∧ a.arr ≤ d.arr ∧ (∀ m, most = some m → a.mem ≤ m.mem ∧ a.arr ≤ m.arr) ∧
    10 ≤ a.clock ∧ a.clock ≤ 40 ∧ 1 ≤ a.duty ∧ a.duty ≤ 64 ∧
    (0 ≤ left → a.mem + a.arr ≤ left) ∧
    (left ≤ 0 → a.mem = 0 ∧ a.arr = 0) ∧
    (mem + atMost (most.map (·.vec)) d.vec + arr ≤ left → a.mem = mem ∧ a.arr = arr)

/-- A 2 us tick completes in every state: it takes the temperatures read, estimates K times the fixed and dynamic power, keeps it
for the measurement, adds the dynamic energy, counts the ticks below the floor or at it, and passes 2 us of Guide time. In OFF it
changes nothing. -/
def Sys2Proof.Claims.EstimateTicks : Prop :=
  ∀ (r : EstReading) (s : State),
    (s.ctl.dev.dstate = .off → exec (.estimateTick r) s = .next s) ∧
    (s.ctl.dev.dstate ≠ .off → ∃ t : State, exec (.estimateTick r) s = .next t ∧ t.mem = s.mem ∧ t.cores = s.cores ∧
      let read : Ctl := { s.ctl with pow := { s.ctl.pow with
        temps := r.temps.foldl (fun m e => KMap.set 100 m (islandIdx e.1) e.2) s.ctl.pow.temps } }
      let est := s.ctl.pow.k * (read.fixedWatts + dynWatts r.counts)
      t.ctl.pow.temps = read.pow.temps ∧
      t.ctl.pow.pEst = est ∧ t.ctl.pow.recent = est :: s.ctl.pow.recent ∧
      t.ctl.pow.dynUj = s.ctl.pow.dynUj + dynWatts r.counts * 2 ∧ t.ctl.pow.k = s.ctl.pow.k ∧
      t.ctl.dev.uptime = s.ctl.dev.uptime + 2 ∧ t.ctl.dev.dstate = s.ctl.dev.dstate ∧
      ((t.ctl.pow.missed = s.ctl.pow.missed + 1 ∧ t.ctl.pow.kept = 0) ∨
        (t.ctl.pow.missed = 0 ∧ t.ctl.pow.kept = s.ctl.pow.kept + 1)) ∧
      (∀ c, s.governed.contains c = false → (KMap.get CoreClk.reset t.ctl.pow.clk c.val).cap = 0))

/-- The time of a tick counts once: as in service in SERVICE and DEGRADED whatever excludes, else as excluded or as downtime. -/
def Sys2Proof.Claims.TickCountsTimeOnce : Prop :=
  ∀ (c : Ctl) (us : Nat), c.dev.dstate ≠ .off →
    let d := (c.passTime us).dev
    let e := c.dev
    (e.dstate = .service ∨ e.dstate = .degraded → d.svcUs = e.svcUs + us ∧ d.exclUs = e.exclUs ∧ d.downUs = e.downUs) ∧
    (e.dstate ≠ .service → e.dstate ≠ .degraded → d.svcUs = e.svcUs ∧
      ((d.exclUs = e.exclUs + us ∧ d.downUs = e.downUs) ∨ (d.exclUs = e.exclUs ∧ d.downUs = e.downUs + us))) ∧
    (e.dstate = .retreat → d.exclUs = e.exclUs + us)

/-- A measurement completes in every state and for every reading: a good reading is shown, counted and compared, enters the sums of the
calibration, and its energy, where no job draws, goes to IDLE; one without a reading counts as not valid; a current out of range is
MEAS_FAULT. The estimates and the dynamic energy start again. In OFF nothing changes. -/
def Sys2Proof.Claims.MeasureSamples : Prop :=
  ∀ (r : PwrReading) (s : State),
    (s.ctl.dev.dstate = .off → exec (.measureSample r) s = .next s) ∧
    (s.ctl.dev.dstate ≠ .off → ∃ t : State, exec (.measureSample r) s = .next t ∧ t.mem = s.mem ∧ t.cores = s.cores ∧
      t.ctl.pow.recent = [] ∧ t.ctl.pow.dynUj = 0 ∧ t.ctl.pow.coreUj = [] ∧ t.ctl.pow.pEst = s.ctl.pow.pEst ∧
      t.ctl.pow.eLast = s.ctl.pow.meanEst ∧
      (r.present = false → t.ctl.pow.valid = 0 ∧ t.ctl.pow.measFault = s.ctl.pow.measFault ∧ t.ctl.pow.pMeas = s.ctl.pow.pMeas ∧
        t.ctl.pow.vin = s.ctl.pow.vin ∧ t.ctl.pow.samples = s.ctl.pow.samples) ∧
      (r.present = true → t.ctl.pow.pMeas = r.powerMw / 1000 ∧ t.ctl.pow.vin = r.vin20mv ∧
        t.ctl.pow.samples = s.ctl.pow.samples + 1 ∧ t.ctl.pow.sumM = s.ctl.pow.sumM + (r.powerMw : Rat) / 1000 ∧
        t.ctl.pow.sumLoad = s.ctl.pow.sumLoad + s.ctl.pow.meanEst / s.ctl.pow.k) ∧
      (r.present = true → (r.currMa < 0 ∨ 75000 < r.currMa) → t.ctl.pow.valid = 0 ∧ t.ctl.pow.measFault = true) ∧
      (r.present = true → 0 ≤ r.currMa → r.currMa ≤ 75000 → t.ctl.pow.valid = s.ctl.pow.valid + 1 ∧
        t.ctl.pow.measFault = s.ctl.pow.measFault ∧
        (s.ctl.pow.measFault = false →
          t.ctl.pow.disagree = (if disagrees s.ctl.pow.meanEst ((r.powerMw : Rat) / 1000) then s.ctl.pow.disagree + 1 else 0) ∧
          t.ctl.pow.agree = (if agrees6 s.ctl.pow.meanEst ((r.powerMw : Rat) / 1000) then s.ctl.pow.agree + 1 else 0) ∧
          (r.shares = [] → s.ctl.pow.coreUj = [] → s.held = [] → t.ctl.pow.idleUj = s.ctl.pow.idleUj + r.powerMw / 20 ∧
            t.ctl.pow.ledger = s.ctl.pow.ledger))))

/-- No reading for 200 us sets MEAS_FAULT, and under it starts the run of valid readings again; 100 of them clear it, and nothing else
does. K follows the samples since the last calibration and stays in 1 to 1.25; it does not move under MEAS_FAULT or where their
mean is below 300 W. -/
def Sys2Proof.Claims.Measurements : Prop :=
  ∀ s : State, let p := s.ctl.pow
    (s.ctl.dev.dstate = .off → exec .measAbsentTimeout s = .next s) ∧
    (s.ctl.dev.dstate ≠ .off → ∃ t : State, exec .measAbsentTimeout s = .next t ∧ t.mem = s.mem ∧ t.cores = s.cores ∧
      t.ctl.pow.measFault = true ∧ t.ctl.pow.valid = 0) ∧
    (p.measFault = true → 100 ≤ p.valid → ∃ t : State, exec .measFaultClear s = .next t ∧ t.mem = s.mem ∧ t.cores = s.cores ∧
      t.ctl.pow.measFault = false ∧ t.ctl.regs = s.ctl.regs) ∧
    (p.measFault = false ∨ p.valid < 100 → exec .measFaultClear s = .next s) ∧
    (∀ m l : Rat, ∃ t : State, exec (.calibrationTick m l) s = .next t ∧ t.mem = s.mem ∧ t.cores = s.cores ∧
      t.ctl.regs = s.ctl.regs ∧ t.ctl.pow.samples = 0 ∧ t.ctl.pow.sumM = 0 ∧ t.ctl.pow.sumLoad = 0 ∧
      (p.measFault = false → 0 < p.samples → 300 * (p.samples : Rat) ≤ p.sumM →
        1 ≤ t.ctl.pow.k ∧ t.ctl.pow.k ≤ 5 / 4 ∧
        (p.sumLoad ≠ 0 → ∀ k, k = p.k + (p.sumM / p.sumLoad - p.k) / (if p.untrusted then 2 else 8) → 1 ≤ k → k ≤ 5 / 4 →
          t.ctl.pow.k = k)) ∧
      (p.measFault = true ∨ p.samples = 0 ∨ p.sumM < 300 * (p.samples : Rat) → t.ctl.pow.k = p.k))

/-- Trust in the estimator and the fallback path: 20 samples that disagree and 2,000 that agree; 5 ms below the floor and 50 ms
above it. Short of that nothing happens. -/
def Sys2Proof.Claims.TrustAndFallback : Prop :=
  ∀ s : State, let p := s.ctl.pow
    (p.untrusted = false → p.measFault = false → 20 ≤ p.disagree → ∃ t : State, exec .estimatorUntrusted s = .next t ∧
      t.mem = s.mem ∧ t.cores = s.cores ∧ t.ctl.pow.untrusted = true ∧
      t.ctl.fld Addr.pwrCal 32 16 = min 65535 (s.ctl.fld Addr.pwrCal 32 16 + 1)) ∧
    (p.untrusted = true ∨ p.measFault = true ∨ p.disagree < 20 → exec .estimatorUntrusted s = .next s) ∧
    (p.untrusted = true → 2000 ≤ p.agree → ∃ t : State, exec .estimatorTrusted s = .next t ∧ t.mem = s.mem ∧ t.cores = s.cores ∧
      t.ctl.pow.untrusted = false) ∧
    (p.untrusted = false ∨ p.agree < 2000 → exec .estimatorTrusted s = .next s) ∧
    (2500 ≤ p.missed → p.fallback = false → ∃ t : State, exec .fallbackEnter s = .next t ∧ t.mem = s.mem ∧ t.cores = s.cores ∧
      t.ctl.pow.fallback = true ∧ t.ctl.pow.kept = 0 ∧ t.ctl.regs = s.ctl.regs) ∧
    (p.missed < 2500 ∨ p.fallback = true → exec .fallbackEnter s = .next s) ∧
    (25000 ≤ p.kept → p.fallback = true → ∃ t : State, exec .fallbackExit s = .next t ∧ t.mem = s.mem ∧ t.cores = s.cores ∧
      t.ctl.pow.fallback = false ∧ t.ctl.pow.missed = 0 ∧ t.ctl.regs = s.ctl.regs) ∧
    (p.kept < 25000 ∨ p.fallback = false → exec .fallbackExit s = .next s)

/-- The power governor: the allocation under the cap, the tick of 2 us, the measurement of 50 us, and trust. ESTIMATE_TICK,
MEASURE_SAMPLE, CALIBRATION_TICK, MEAS_ABSENT_TIMEOUT, MEAS_FAULT_CLEAR, ESTIMATOR_UNTRUSTED, ESTIMATOR_TRUSTED, FALLBACK_ENTER and
FALLBACK_EXIT complete in every state. -/
def Obligations.PowerGovernor : Prop :=
  Claims.AllocationKeepsTheCap ∧ Claims.EstimateTicks ∧ Claims.TickCountsTimeOnce ∧ Claims.MeasureSamples ∧ Claims.Measurements ∧
  Claims.TrustAndFallback

/-- Droop: stretched cycles are counted; a droop limit lowers the clock of a core by one step from where it stands, or of the Guide,
until it expires, and leaves slices, HBM controllers and ports alone. ISLAND_DROOP, DROOP_LIMIT and DROOP_STEP_EXPIRE complete in every state, for every island. -/
def Sys2Proof.Claims.Droop : Prop :=
  ∀ s : State,
    (∀ i n, s.ctl.dev.dstate = .off → exec (.islandDroop i n) s = .next s) ∧
    (∀ i n, s.ctl.dev.dstate ≠ .off → ∃ t : State, exec (.islandDroop i n) s = .next t ∧ t.mem = s.mem ∧ t.cores = s.cores ∧
      t.ctl.fld Addr.pwrDroop 0 32 = min (2 ^ 32 - 1) (s.ctl.fld Addr.pwrDroop 0 32 + n) ∧
      (∀ a, a ≠ Addr.pwrDroop → t.ctl.reg a = s.ctl.reg a)) ∧
    (∀ c : CoreId, ∃ t : State, exec (.droopLimit (.core c)) s = .next t ∧ t.mem = s.mem ∧ t.cores = s.cores ∧
      t.ctl.clkSteps c.val = s.ctl.clkSteps c.val + 1 ∧
      (s.ctl.atPoint c.val = none → t.ctl.coreKhz c.val = 700000 - 17500 * min 30 (s.ctl.clkSteps c.val + 1)) ∧
      t.ctl.fld Addr.pwrDroop 32 16 = min 65535 (s.ctl.fld Addr.pwrDroop 32 16 + 1) ∧
      (∀ d, d ≠ c.val → t.ctl.coreKhz d = s.ctl.coreKhz d)) ∧
    (∃ t : State, exec (.droopLimit .guide) s = .next t ∧ t.mem = s.mem ∧ t.cores = s.cores ∧
      t.ctl.fld Addr.pwrDroop 32 16 = min 65535 (s.ctl.fld Addr.pwrDroop 32 16 + 1) ∧
      t.ctl.pow = { s.ctl.pow with guideSlow := true }) ∧
    (∀ i : Island, (∀ c, i ≠ .core c) → i ≠ .guide → exec (.droopLimit i) s = .next s) ∧
    (∀ c : CoreId, ∃ t : State, exec (.droopStepExpire (.core c)) s = .next t ∧ t.mem = s.mem ∧ t.cores = s.cores ∧
      KMap.get CoreClk.reset t.ctl.pow.clk c.val = { KMap.get CoreClk.reset s.ctl.pow.clk c.val with droop := 0 } ∧
      (∀ d, d ≠ c.val → KMap.get CoreClk.reset t.ctl.pow.clk d = KMap.get CoreClk.reset s.ctl.pow.clk d) ∧ t.ctl.regs = s.ctl.regs) ∧
    (∃ t : State, exec (.droopStepExpire .guide) s = .next t ∧ t.mem = s.mem ∧ t.cores = s.cores ∧ t.ctl.regs = s.ctl.regs ∧
      t.ctl.pow = { s.ctl.pow with guideSlow := false }) ∧
    (∀ i : Island, (∀ c, i ≠ .core c) → i ≠ .guide → exec (.droopStepExpire i) s = .next s)

/-- Temperature: a core at SLOW_C or above goes one step down, 3 C below it one step up; an island at its limit is SAFE.
THERMAL_SAMPLE completes in every state, for every list of readings; in OFF it changes nothing. -/
def Sys2Proof.Claims.Temperature : Prop :=
  ∀ s : State,
    (∀ temps, s.ctl.dev.dstate = .off → exec (.thermalSample temps) s = .next s) ∧
    (∀ temps, s.ctl.dev.dstate ≠ .off → ∃ t : State, exec (.thermalSample temps) s = .next t ∧ t.mem = s.mem ∧
      (temps.find? tooHot = none → t.ctl.dev = s.ctl.dev) ∧
      ((temps.find? tooHot).isSome = true → s.ctl.dev.stage < 3 → t.ctl.dev.dstate = .safe)) ∧
    (∀ (c : CoreId) (x : Int), s.ctl.dev.dstate ≠ .off → x < 380 →
      (∀ r ∈ s.ctl.rel.runs, r.core ≠ c → r.waiting = true → s.ctl.temp r.core.val < 380) →
      ∃ t : State, exec (.thermalSample [(.core c, x)]) s = .next t ∧ t.mem = s.mem ∧ t.cores = s.cores ∧
        let slow : Int := s.ctl.fld Addr.pwrTherm 8 8
        let n := (KMap.get CoreClk.reset s.ctl.pow.clk c.val).therm
        t.ctl.temp c.val = x ∧ (KMap.get CoreClk.reset t.ctl.pow.clk c.val).therm =
          (if 4 * slow ≤ x then min 30 (n + 1) else if x < 4 * (slow - 3) then n - 1 else n) ∧ t.ctl.dev = s.ctl.dev)

/-- Droop and temperature of the islands. -/
def Obligations.DroopAndTemperature : Prop := Claims.Droop ∧ Claims.Temperature

/-! ### Meloend ports -/

namespace Sys2Proof.Claims

/-- The rows that a port receives as sequenced flits: its port, its flits, and the message or packet that they complete. -/
def seqRow : Instr → Option (MPort × RxFlit × (Lctl ⊕ CollPkt))
  | .linkHello p f m => some (p, f, .inl m)
  | .keyMsg p f m => some (p, f, .inl m)
  | .keyUpdate p f m => some (p, f, .inl m)
  | .ringState p f m => some (p, f, .inl m)
  | .wState p f m => some (p, f, .inl m)
  | .credit p f => some (p, f.toRxFlit, .inl f.body)
  | .echo p f m => some (p, f, .inl m)
  | .echoReply p f m _ => some (p, f, .inl m)
  | .collOpen p f k _ => some (p, f, .inr k)
  | .collData p f k _ => match k.body with
    | .data _ => some (p, f, .inr k)
    | _ => none
  | .collReady p f k _ => some (p, f, .inr k)
  | .collCommit p f k _ => some (p, f, .inr k)
  | .collEnd p f k _ => match k.body with
    | .finish .. => some (p, f, .inr k)
    | _ => none
  | .collReport p f k => match k.body with
    | .report .. => some (p, f, .inr k)
    | _ => none
  | .collRetry p f k _ => some (p, f, .inr k)
  | .collProbe p f k => some (p, f, .inr k)
  | .collProbeReply p f k => match k.body with
    | .probeReply .. => some (p, f, .inr k)
    | _ => none
  | .collLength p f k _ => match k.body with
    | .length .. => some (p, f, .inr k)
    | _ => none
  | _ => none

/-- FTYPE of what flits complete (R331): COLL 1, LCTL 2. -/
def ftypeOf : Lctl ⊕ CollPkt → BitVec 4
  | .inr _ => 1
  | .inl _ => 2

/-- What the flits complete is a protocol error on a port (R334, R336): a COLL packet that does not end as it must, or a reserved value in
an LCTL payload. -/
def contentBad (v : Port) (f : RxFlit) : Lctl ⊕ CollPkt → Bool
  | .inr k => v.endBad f k
  | .inl m => lctlBad m

/-- The header of a message of training (R345 step 6): a flit of its own, not sequenced. -/
abbrev trainHdr : FlitHdr := { FlitHdr.plain 2 with sop := true, eop := true }

/-- The port is DOWN with a REASON of R356. -/
def IsDown (t : State) (p : MPort) (reason : BitVec 4) : Prop := (t.ctl.port p).state = .down ∧ (t.ctl.port p).reason = reason

/-- The port is UP, with the credits of MLK_VC_CFG granted (R345 step 7). -/
def IsUp (s t : State) (p : MPort) : Prop :=
  (t.ctl.port p).state = .up ∧ (t.ctl.port p).reason = 0 ∧ (t.ctl.port p).aack = 0 ∧
  (t.ctl.port p).grant[0] = s.ctl.fld Addr.mlkVc 0 13 ∧ (t.ctl.port p).grant[1] = s.ctl.fld Addr.mlkVc 13 13 ∧
  (t.ctl.port p).grant[2] = s.ctl.fld Addr.mlkVc 26 13 ∧ (t.ctl.port p).grant[3] = s.ctl.fld Addr.mlkVc 39 7

end Sys2Proof.Claims

/-- Training, step by step: lane lock and the error ratio, LINK_HELLO with version and wiring, the round trip of at most 5.5 us,
the key message where the link must encrypt, and UP; each failure is DOWN with its REASON, and a flit that is none of training a
protocol error. -/
def Obligations.PortTraining : Prop :=
  ∀ (p : MPort) (f : RxFlit) (s : State), let v := s.ctl.port p
    (∀ (i : Instr) (m : Lctl), seqRow i = some (p, f, .inl m) → v.state = .training →
      (trainingBad f.toFlitHdr m || lctlBad m) = true →
      Ends (exec i s) s fun t => IsDown t p 9) ∧
    (∀ errors bits : Nat, v.state = .training → v.train.lock = false → 10 ^ 10 ≤ bits →
      (errors * 100000 ≤ 24 * bits → Ends (exec (.laneLock p errors bits) s) s fun t =>
        (t.ctl.port p).state = .training ∧ (t.ctl.port p).train = { v.train with lock := true } ∧
        t.out = .flit p trainHdr (some (s.ctl.hello p)) :: s.out) ∧
      (24 * bits < errors * 100000 → Ends (exec (.laneLock p errors bits) s) s fun t => IsDown t p 4)) ∧
    (v.state = .down → s.ctl.pEn p = true → (s.ctl.axisOf p).isSome = true → Ends (exec (.trainingRetry p) s) s fun t =>
      (t.ctl.port p).state = .training ∧ (t.ctl.port p).reason = v.reason ∧ (t.ctl.port p).secret = v.secret ∧
      (t.ctl.port p).train = ⟨false, false, false, false, false⟩ ∧ ∀ q, q ≠ p → t.ctl.port q = s.ctl.port q) ∧
    (v.state = .training → trainingBad f.toFlitHdr .credit = false →
      (∀ (vmin vmax : BitVec 8) (d : BitVec 15) (port : BitVec 4) (axis : BitVec 3) (role : BitVec 2) (widx : BitVec 3) (e sl : Bool),
        v.train.lock = true → v.train.hello = false → axis.toNat ≤ 4 → role ≠ 3 →
        let o := exec (.linkHello p f (.linkHello vmin vmax d port axis role widx e sl)) s
        let wired := ∃ r, s.ctl.neighbour p = some (d, r) ∧ axis.toNat = s.ctl.pAxis p ∧
          (if axis = 1 then widx.toNat = r ∧ role = 0 else role.toNat = r)
        (1 < vmin.toNat ∨ vmax.toNat < 1 → Ends o s fun t => IsDown t p 5) ∧
        (vmin.toNat ≤ 1 → 1 ≤ vmax.toNat → ¬ wired → Ends o s fun t => IsDown t p 6) ∧
        (vmin.toNat ≤ 1 → 1 ≤ vmax.toNat → wired → Ends o s fun t =>
          (t.ctl.port p).state = .training ∧ (t.ctl.port p).train.hello = true ∧ (t.ctl.port p).peer = d ∧
          (t.ctl.port p).peerPort = port ∧ (t.ctl.port p).ver = 1 ∧ (t.ctl.port p).peerEnc = (e || sl) ∧
          t.freeCtr = s.freeCtr + 1 ∧ ∃ token, t.out = .flit p trainHdr (some (.echo token)) :: s.out ∧
            (t.ctl.port p).echoTok = some token)) ∧
      (∀ token : BitVec 64, v.train.lock = true →
        (v.train.rtt = false → Ends (exec (.echo p f (.echo token)) s) s fun t => (t.ctl.port p).state = .training ∧
          (t.ctl.port p).train.echoed = true ∧ t.out = .flit p trainHdr (some (.echoReply token)) :: s.out) ∧
        (v.train.rtt = true → s.ctl.mustEncrypt p = false → Ends (exec (.echo p f (.echo token)) s) s fun t => IsUp s t p ∧
          (t.ctl.port p).enc = false) ∧
        (v.train.rtt = true → s.ctl.mustEncrypt p = true → v.secret = none →
          Ends (exec (.echo p f (.echo token)) s) s fun t => IsDown t p 7)) ∧
      (∀ (token : BitVec 64) (ns : Nat), v.train.hello = true → v.train.rtt = false → v.echoTok = some token →
        (5500 < ns → Ends (exec (.echoReply p f (.echoReply token) ns) s) s fun t => IsDown t p 11) ∧
        (ns ≤ 5500 → v.train.echoed = false → Ends (exec (.echoReply p f (.echoReply token) ns) s) s fun t =>
          (t.ctl.port p).state = .training ∧ (t.ctl.port p).train.rtt = true ∧ (t.ctl.port p).rtt10ns.toNat = ns / 10 ∧
          (t.ctl.port p).echoTok = none) ∧
        (ns ≤ 5500 → v.train.echoed = true → s.ctl.mustEncrypt p = false →
          Ends (exec (.echoReply p f (.echoReply token) ns) s) s fun t => IsUp s t p ∧ (t.ctl.port p).rtt10ns.toNat = ns / 10)) ∧
      (∀ (gen : BitVec 32) (nonce tag : BitVec 256), v.train.hello = true → s.ctl.mustEncrypt p = true →
        let o := exec (.keyMsg p f (.keyMsg gen nonce tag)) s
        let good (ls : LinkSecret) : Prop := gen = ls.gen ∧
          tag.toNat = ofBe (hmac (beBytes 32 ls.key.toNat) (keyMsgBytes gen nonce v.peer v.peerPort.toNat s.ctl.devid p.val)) % 2 ^ 256
        (v.secret = none → Ends o s fun t => IsDown t p 7) ∧
        (∀ ls, v.secret = some ls → ¬ good ls → Ends o s fun t => IsDown t p 7) ∧
        (∀ ls, v.secret = some ls → good ls → v.train.rtt = false → Ends o s fun t =>
          (t.ctl.port p).peerNonce = some nonce ∧ (t.ctl.port p).state = .training) ∧
        (∀ ls n, v.secret = some ls → good ls → v.train.rtt = true → v.train.echoed = true → v.myNonce = some n →
          Ends o s fun t => IsUp s t p ∧ (t.ctl.port p).enc = true ∧ (t.ctl.port p).txKey.isSome = true ∧
            (t.ctl.port p).rxKey.isSome = true)))

/-- Sequenced flits on a link that is UP: a protocol error takes the port DOWN; one after a missing flit gets a single NAK that
names the awaited LSEQ; a second copy is discarded; an LCTL in order is accepted and acknowledged. -/
def Sys2Proof.Claims.SequencedReception : Prop :=
  (∀ (i : Instr) (p : MPort) (f : RxFlit) (l : Lctl ⊕ CollPkt) (s : State), seqRow i = some (p, f, l) →
    let v := s.ctl.port p
    v.carries = true → ∀ (v' : Port) (r : RxEnd), v.rx f (ftypeOf l) = (v', r) →
      (r = .bad ∨ (r = .ok ∧ contentBad v f l = true) → Ends (exec i s) s fun t => IsDown t p 9 ∧
        t.ctl.dev.dstate = degraded s.ctl.dev.dstate) ∧
      (v.queue = [] → r = .gap → Ends (exec i s) s fun t => t.ctl.port p = { v' with nakSent := true } ∧
        t.ctl.regs = s.ctl.regs ∧ t.ctl.coll = s.ctl.coll ∧
        (v'.nakSent = false → t.out = .flit p { FlitHdr.plain 3 with aack := v'.aack } none :: s.out) ∧
        (v'.nakSent = true → t.out = s.out)) ∧
      (v.queue = [] → r = .copy → Ends (exec i s) s fun t => t.ctl.port p = v' ∧ t.ctl.regs = s.ctl.regs ∧
        t.ctl.coll = s.ctl.coll ∧ t.out = s.out) ∧
      (r = .ok → contentBad v f l = false → ∀ m, l = .inl m → Ends (exec i s) s fun t => (t.ctl.port p).state = v.state ∧
        (t.ctl.port p).aack = v'.aack ∧ (t.ctl.port p).oldest = v'.oldest ∧ (t.ctl.port p).nakSent = false ∧
        t.ctl.coll = s.ctl.coll ∧ t.ctl.dev = s.ctl.dev)) ∧
  (∀ (v : Port) (f : FlitHdr) (ft : BitVec 4), v.flitBad f ft = false → ∀ (v' : Port) (r : RxEnd), v.rxFlit f ft = (v', r) →
    v'.state = v.state ∧ v'.queue = v.queue ∧ v'.lseq = v.lseq ∧
    v'.oldest = (if (f.aack - v.oldest).toNat ≤ v.inflight then f.aack else v.oldest) ∧ v'.inflight ≤ v.inflight ∧
    (f.lseq ≠ v.aack → v'.aack = v.aack ∧ v'.credits = v.credits ∧ v'.owed = v.owed ∧ v'.part = v.part ∧
      r = (if (f.lseq - v.aack).toNat < 0x2000 then .gap else .copy)) ∧
    (f.lseq = v.aack → r = .bad ∨ (r = .ok ∧ v'.aack = v.aack + 1 ∧ v'.nakSent = false ∧
      (f.eop = true → v'.part[f.vc.toFin] = none) ∧ (f.eop = false → v'.part[f.vc.toFin].isSome = true) ∧
      v'.owed[f.vc.toFin] = v.owed[f.vc.toFin] + 1 ∧
      v'.credits[f.cvc.toFin] = v.credits[f.cvc.toFin] + f.ccnt.toNat ∧ v'.credits[f.cvc.toFin] ≤ v.grant[f.cvc.toFin])))

/-- What an LCTL in order does: KEY_UPDATE announces the next key's counter; RING_STATE and W_STATE of another S4 enter their maps
when newer; ECHO is answered with its token, sealed where the link encrypts; CREDIT needs no more than its header, and with nothing
else to send an IDLE flit shows what is acknowledged. -/
def Sys2Proof.Claims.ControlFlits : Prop :=
  ∀ (p : MPort) (f : RxFlit) (s : State) (v' : Port), let v := s.ctl.port p
    v.carries = true → v.rx f 2 = (v', .ok) →
      (∀ ctr : BitVec 64, Ends (exec (.keyUpdate p f (.keyUpdate ctr)) s) s fun t =>
        (t.ctl.port p).rxKey = v'.rxKey.map fun k => { k with nextAt := some ctr }) ∧
      (∀ (axis : BitVec 8) (o : BitVec 15) (r : BitVec 16) (b : BitVec 3), axis.toNat ≤ 4 →
        let here := s.ctl.links.ring.find? fun x => x.origin = o ∧ x.axis = axis
        (o ≠ s.ctl.devid → here = none → Ends (exec (.ringState p f (.ringState axis o r b)) s) s fun t =>
            t.ctl.links.ring = ⟨o, axis, r, b.zeroExtend 8⟩ :: s.ctl.links.ring) ∧
        (∀ x, o ≠ s.ctl.devid → here = some x → newer r x.rseq = true →
          Ends (exec (.ringState p f (.ringState axis o r b)) s) s fun t =>
            (t.ctl.links.ring.find? fun x => x.origin = o ∧ x.axis = axis) = some ⟨o, axis, r, b.zeroExtend 8⟩ ∧
            t.ctl.links.ring.length = s.ctl.links.ring.length) ∧
        (o = s.ctl.devid ∨ (∃ x, here = some x ∧ newer r x.rseq = false) →
          Ends (exec (.ringState p f (.ringState axis o r b)) s) s fun t => t.ctl.links.ring = s.ctl.links.ring)) ∧
      (∀ (o : BitVec 15) (r : BitVec 16) (b : BitVec 7),
        (o ≠ s.ctl.devid → (s.ctl.links.wmap.find? fun x => x.origin = o ∧ x.axis = 0) = none →
          Ends (exec (.wState p f (.wState o r b)) s) s fun t =>
            t.ctl.links.wmap = ⟨o, 0, r, b.zeroExtend 8⟩ :: s.ctl.links.wmap) ∧
        (o = s.ctl.devid → Ends (exec (.wState p f (.wState o r b)) s) s fun t => t.ctl.links.wmap = s.ctl.links.wmap)) ∧
      (∀ token : BitVec 64, v.queue = [] → 1 ≤ v'.credits[3] → v'.inflight < 4096 →
        (v.enc = false → Ends (exec (.echo p f (.echo token)) s) s fun t =>
          ∃ h : FlitHdr, t.out = .flit p h (some (.echoReply token)) :: s.out ∧ h.ftype = 2 ∧ h.lseq = v.lseq ∧ h.aack = v'.aack) ∧
        (∀ k, v.enc = true → v.txKey = some k → k.room = true → Ends (exec (.echo p f (.echo token)) s) s fun t =>
          ∃ h : FlitHdr, h.ftype = 2 ∧ h.lseq = v.lseq ∧ h.aack = v'.aack ∧
            let x := gcmSeal (k.key.take 32) k.nonce [] (flitBytes h (Lctl.payload (.echoReply token)))
            t.out = .sealed p 1 x.1 x.2 :: s.out ∧ (t.ctl.port p).txKey = some k.advance ∧
            (t.ctl.port p).sealed = v'.sealed ++ [⟨v.lseq, 1, x.1, x.2⟩])) ∧
      (v.queue = [] → v.maySend = true → Ends (exec (.credit p ⟨f, .credit⟩) s) s fun t =>
        t.ctl.port p = v' ∧ t.out = .flit p { FlitHdr.plain 0 with aack := v'.aack } none :: s.out)

/-- Flits that are not sequenced, and the timers of a link: NAK and IDLE acknowledge, NAK and RETRY_TMO resend, and the eighth
resend in a row is DOWN; an errored flit is counted by its cause and answered with one NAK, one that is good after all is none;
credits return in a CREDIT; a key limit announces the next key, once; light, lock or error ratio lost is DOWN. -/
def Sys2Proof.Claims.LinkMaintenance : Prop :=
  ∀ (p : MPort) (f : FlitHdr) (s : State), let v := s.ctl.port p
    (v.carries = true →
      (v.flitBad f 3 = false → (∀ e ∈ v.retry, e.resent < 7) → Ends (exec (.nak p f) s) s fun t =>
        (t.ctl.port p).state = v.state ∧ (t.ctl.port p).oldest = f.aack ∧ (t.ctl.port p).aack = v.aack ∧
        (t.ctl.port p).retry = (v.ack f.aack).resent f.aack ∧
        t.out = ((v.ack f.aack).resendOut p f.aack).1.reverse ++ s.out) ∧
      (v.flitBad f 3 = true → Ends (exec (.nak p f) s) s fun t => IsDown t p 9) ∧
      (v.flitBad f 0 = false → Ends (exec (.idleFlit p f) s) s fun t =>
        (t.ctl.port p).state = v.state ∧ (t.ctl.port p).aack = v.aack ∧ t.ctl.regs = s.ctl.regs ∧
        (t.ctl.port p).oldest = (if (f.aack - v.oldest).toNat ≤ v.inflight then f.aack else v.oldest)) ∧
      (v.flitBad f 0 = true → Ends (exec (.idleFlit p f) s) s fun t => IsDown t p 9) ∧
      (v.nakSent = false →
        let nak (t : State) (unc tag : Nat) : Prop := t.ctl.port p = { v with nakSent := true } ∧
          t.out = .flit p { FlitHdr.plain 3 with aack := v.aack } none :: s.out ∧
          t.ctl.fld (Addr.mlkPerr p.val) 16 16 = min 65535 (s.ctl.fld (Addr.mlkPerr p.val) 16 16 + unc) ∧
          t.ctl.fld (Addr.mlkPerr p.val) 32 16 = min 65535 (s.ctl.fld (Addr.mlkPerr p.val) 32 16 + tag)
        Ends (exec (.flitErrored p ⟨[], .codeword⟩) s) s (fun t => nak t 1 0) ∧
        (∀ b, parseFlit b = none → Ends (exec (.flitErrored p ⟨[], .flit b⟩) s) s fun t => nak t 0 0) ∧
        (∀ b x, parseFlit b = some x → exec (.flitErrored p ⟨[], .flit b⟩) s = .next s) ∧
        (∀ c tag, (∀ k, v.rxKey = some k → gcmOpen (k.key.take 32) k.nonce [] c tag = none) →
          Ends (exec (.flitErrored p ⟨[], .sealed c tag⟩) s) s fun t => nak t 0 1) ∧
        (∀ c tag k x, v.rxKey = some k → gcmOpen (k.key.take 32) k.nonce [] c tag = some x →
          exec (.flitErrored p ⟨[], .sealed c tag⟩) s = .next s)) ∧
      (v.inflight ≠ 0 → (∀ e ∈ v.retry, seqBefore e.hdr.lseq (v.resendAt v.oldest) = false ∧ e.resent < 7) →
        Ends (exec (.retryTmo p) s) s fun t =>
          (t.ctl.port p).retry = v.retry.map (fun e => { e with resent := e.resent + 1 }) ∧ (t.ctl.port p).state = v.state) ∧
      (v.inflight ≠ 0 → (∃ e ∈ v.retry, seqBefore e.hdr.lseq (v.resendAt v.oldest) = false ∧ 7 ≤ e.resent) →
        Ends (exec (.retryTmo p) s) s fun t => IsDown t p 8) ∧
      (v.owed.any (· != 0) = true → v.queue = [] → 1 ≤ v.credits[3] → v.inflight < 4096 → v.enc = false →
        Ends (exec (.creditReturnTimer p) s) s fun t => ∃ h, t.out = .flit p h (some .credit) :: s.out ∧ h.ccnt ≠ 0 ∧
          (t.ctl.port p).owed[h.cvc.toFin] + h.ccnt.toNat = v.owed[h.cvc.toFin]) ∧
      (∀ k, v.enc = true → v.txKey = some k →
        (k.nextAt = none → v.queue = [] → k.groups + 4096 ≤ 2 ^ 32 → Ends (exec (.linkKeyLimit p) s) s fun t =>
          t.freeCtr = s.freeCtr + 1 ∧ ∃ ctr : Word, k.groups + 4096 ≤ ctr.toNat ∧ ctr.toNat ≤ 2 ^ 32 ∧
            (t.ctl.port p).txKey = some { k with
              groups := k.groups + (if 1 ≤ v.credits[3] ∧ v.inflight < 4096 then 1 else 0), nextAt := some ctr }) ∧
        (k.nextAt ≠ none → exec (.linkKeyLimit p) s = .next s)) ∧
      (∀ errors bits : Nat, (bits < errors * 1000 → Ends (exec (.berInterval p errors bits) s) s fun t => IsDown t p 4) ∧
        (errors * 1000 ≤ bits → exec (.berInterval p errors bits) s = .next s))) ∧
    (∀ light : Bool, v.carries = true ∨ v.state = .training → Ends (exec (.portLossOfLight p light) s) s fun t =>
      IsDown t p (if light then 2 else 3) ∧ (t.ctl.port p).secret = v.secret ∧
      t.ctl.fld (Addr.mlkPerr p.val) 48 16 = min 65535 (s.ctl.fld (Addr.mlkPerr p.val) 48 16 + if v.state = .up then 1 else 0))

/-- Flits on the wire: the 12 header bytes say every field, a flit of 256 payload bytes is 272 bytes that read back as it was sent,
an LCTL payload has its LTYPE first and 256 bytes, and no two seal groups of a key have one nonce. -/
def Sys2Proof.Claims.FlitsOnTheWire : Prop :=
  (∀ h : FlitHdr, FlitHdr.ofWord h.word = h) ∧
  (∀ (h : FlitHdr) (b : List Byte), b.length = 256 → (flitBytes h b).length = 272 ∧ parseFlit (flitBytes h b) = some (h, b)) ∧
  (∀ m : Lctl, (∀ b, m = .other b → b.length = 256) → m.payload.length = 256 ∧ m.payload.head? = some (BitVec.ofNat 8 m.ltype)) ∧
  (∀ k k' : DirKey, k.key = k'.key → k.groups < 2 ^ 64 → k'.groups < 2 ^ 64 → k.nonce = k'.nonce → k.groups = k'.groups)

/-- A Meloend link that is UP: sequenced flits, control flits, what keeps the link, and the bytes on it. -/
def Obligations.LinkTraffic : Prop :=
  Claims.SequencedReception ∧ Claims.ControlFlits ∧ Claims.LinkMaintenance ∧ Claims.FlitsOnTheWire

/-! ### Collectives -/

namespace Sys2Proof.Claims

/-- The flits of a packet end in order, and where R334 ends it, on a link that is UP, which leaves the port as v. -/
def InOrder (s : State) (p : MPort) (f : RxFlit) (k : CollPkt) (v : Port) : Prop :=
  (s.ctl.port p).carries = true ∧ (s.ctl.port p).rx f 1 = (v, .ok) ∧ (s.ctl.port p).endBad f k = false

/-- The state once the link layer has accepted flits that leave the port as v: what waited on the port is sent. -/
def accepted (s : State) (p : MPort) (v : Port) : State := (s.mapCtl fun c => c.setPort p v).pump p

/-- The neighbour learns that flits were accepted: from what was sent since, else from an IDLE flit. -/
def acked (s : State) (p : MPort) (t : State) : State :=
  if (t.ctl.port p).maySend && (t.ctl.port p).lseq == (s.ctl.port p).lseq then t.sendIdle p else t

/-- A packet that is for this S4 and of a job with an enabled entry arrives in order, and is served. -/
def Arrives (s : State) (p : MPort) (f : RxFlit) (k : CollPkt) (v : Port) : Prop :=
  InOrder s p f k v ∧ k.dst = s.ctl.devid ∧ s.ctl.dev.selfRefresh = false ∧ (s.ctl.collJob k.job.toNat).isSome = true

def srcOf (k : CollPkt) : Nat := k.hdr.srcRank.toNat

/-- No page of HBM has a second copy. -/
def NoCopies (s : State) : Prop := s.ctl.hbmUsed.filter s.ctl.anchored = []

/-- No running command has been pre-empted. -/
def NonePreempted (s : State) : Prop := ∀ m ∈ s.ctl.jnl.cmds, m.phase = .running → m.doom ≠ some stPREEMPTED

/-- A packet that arrives on a port completes: the next state is one of which P holds, in which the neighbour has learned of the flits;
pre-empted commands whose step has ended with it stop there (R384), and where none is pre-empted nothing else happens. -/
def Leads (o : Out) (s : State) (p : MPort) (P : State → Prop) : Prop :=
  ∃ t : State, o = .next (acked s p t.stopDue) ∧ (NonePreempted s → t.stopDue = t) ∧ P t

/-- The same where memory and cores stay as they were but for the cores that stop. -/
def Served (o : Out) (s : State) (p : MPort) (P : State → Prop) : Prop := Leads o s p fun t => Quiet s t ∧ P t

end Sys2Proof.Claims

/-- A COLL packet in order: one for another S4 is routed on; one for this S4 is not served while HBM refreshes itself; one of a job
without an entry is dropped and counted. A route that finds no link, or a packet that has made 63 hops, is dropped and counted; else
it goes out with one more hop, in flits of consecutive LSEQ with SOP on the first and EOP on the last. -/
def Sys2Proof.Claims.PacketsForwardOrDrop : Prop :=
  (∀ (i : Instr) (p : MPort) (f : RxFlit) (k : CollPkt) (s : State) (v : Port), seqRow i = some (p, f, .inr k) → InOrder s p f k v →
    let s1 := accepted s p v
    Quiet s s1 ∧ s1.ctl.coll = s.ctl.coll ∧
    (k.dst ≠ s.ctl.devid → exec i s = .next (acked s p (s1.route k (s1.ctl.axisOf p)))) ∧
    (k.dst = s.ctl.devid → s.ctl.dev.selfRefresh = true → exec i s = .next (acked s p s1)) ∧
    (k.dst = s.ctl.devid → s.ctl.dev.selfRefresh = false → s.ctl.collJob k.job.toNat = none →
      exec i s = .next (acked s p (s1.mapCtl fun c => c.bump Addr.collDrop 48 16 1)))) ∧
  (∀ (p : MPort) (f : RxFlit) (k : CollPkt) (s : State) (v : Port),
    (k.dst = s.ctl.devid → exec (.collPacketForward p f k) s = .next s) ∧
    (k.dst ≠ s.ctl.devid → InOrder s p f k v → exec (.collPacketForward p f k) s =
      .next (acked s p ((accepted s p v).route k ((accepted s p v).ctl.axisOf p))))) ∧
  (∀ (s : State) (k : CollPkt) (a : Option Axis), Quiet s (s.route k a) ∧ (s.route k a).ctl.coll = s.ctl.coll ∧
    (s.ctl.forward k a = .unreach →
      (s.route k a).ctl.fld Addr.mlkDrop 0 32 = min (2 ^ 32 - 1) (s.ctl.fld Addr.mlkDrop 0 32 + 1) ∧ (s.route k a).out = s.out) ∧
    (∀ p k', s.ctl.forward k a = .out p k' → k'.hops = 63 →
      (s.route k a).ctl.fld Addr.mlkDrop 32 32 = min (2 ^ 32 - 1) (s.ctl.fld Addr.mlkDrop 32 32 + 1) ∧ (s.route k a).out = s.out) ∧
    (∀ p k', s.ctl.forward k a = .out p k' → k'.hops ≠ 63 → (s.ctl.port p).queue = [] → (s.ctl.port p).enc = false →
      let k1 := { k' with hops := k'.hops + 1 }
      (s.ctl.port p).canSend (.coll k1 k a) = true →
      ∃ hs : List FlitHdr, hs.length = collFlits k1 ∧
        (s.route k a).out = (hs.zipIdx.map fun x => Output.coll p x.1 k1 x.2).reverse ++ s.out ∧
        ∀ i h, hs[i]? = some h → h.dst = k1.dst ∧ h.job = k1.job ∧ h.hops = k1.hops ∧ h.vc = k1.vc ∧
          h.lseq = (s.ctl.port p).lseq + BitVec.ofNat 14 i ∧ h.sop = (i == 0) ∧ h.eop = (i + 1 == collFlits k1)))

/-- COLL_OPEN, COLL_DATA, COLL_READY and COLL_LENGTH complete. An OPEN that agrees lets its sender have data, one that comes early is
held, one that does not agree is reported, at a later attempt too; gathered data is written at its place and noted; a second copy of data
is counted, and so is data beyond the map; a child's READY is noted; a LENGTH is stored beside the data. -/
def Sys2Proof.Claims.DataPackets : Prop :=
  ∀ (p : MPort) (f : RxFlit) (k : CollPkt) (w : Nat) (s : State) (v : Port), Arrives s p f k v →
    let s1 := accepted s p v
    let key := keyOf k
    let src := srcOf k
    (∀ o, s.op? key = some o → o.decided = none → k.hdr.attempt.toNat = o.attempt → o.agrees k = true → o.leaving = none →
      o.opens.contains src = false → o.dataTo.contains src = true → (∀ x ∈ o.outq, x.peer ≠ src) →
      Served (exec (.collOpen p f k w) s) s p fun t => ∃ o', t.op? key = some o' ∧ o'.opens = src :: o.opens ∧ o'.outq = o.outq ∧
        o'.waitNs = o.waitNs + w ∧ o'.written = o.written) ∧
    (s.op? key = none → s.ctl.opPassed key = false → Served (exec (.collOpen p f k w) s) s p fun t =>
      t.ctl.coll.held = s.ctl.coll.held ++ [k] ∧ t.ctl.coll.ops = s.ctl.coll.ops) ∧
    (∀ o, s.op? key = some o → o.decided = none → o.attempt ≤ k.hdr.attempt.toNat → o.agrees k = false → o.grp.rank ≠ 0 →
      exec (.collOpen p f k w) s = .next (acked s p
        ((s1.updOp key fun o => { o with told := true }).reportAway o kMISMATCH src).stopDue)) ∧
    (∀ o bs, k.body = .data bs → s.opFor k = some o → o.agrees k = true →
      ((o.pidxFrom src).look k.hdr.pidx.toNat = 0 → o.dataFits k.hdr bs = true → o.opc = 5 → o.leaving = none →
        Leads (exec (.collData p f k w) s) s p fun t => t.cores = s.cores ∧
          t.mem = (s.putRanges (o.whole o.dst k.hdr.origin.toNat) k.hdr.offset.toNat bs).mem ∧
          (NoCopies s → t.mem = writeRanges s.mem (o.whole o.dst k.hdr.origin.toNat) k.hdr.offset.toNat bs) ∧
          ∃ o', t.op? key = some o' ∧ o'.written = (k.hdr.origin.toNat, k.hdr.offset.toNat, k.hdr.nunits.toNat) :: o.written) ∧
      ((o.pidxFrom src).look k.hdr.pidx.toNat = 1 →
        exec (.collData p f k w) s = .next (acked s p (s1.mapCtl fun c => c.bump Addr.collDrop 0 32 1).stopDue)) ∧
      ((o.pidxFrom src).look k.hdr.pidx.toNat = 2 →
        exec (.collData p f k w) s = .next (acked s p (s1.mapCtl fun c => c.bump Addr.collDrop 32 16 1).stopDue))) ∧
    (∀ o, s.opFor k = some o → o.grp.children.contains src = true → o.ready.contains src = false →
      Served (exec (.collReady p f k w) s) s p fun t => ∃ o', t.op? key = some o' ∧ o'.ready = src :: o.ready ∧
        o'.readySent = o.readySent ∧ o'.waitNs = o.waitNs + w) ∧
    (∀ o n d, k.body = .length n d → s.opFor k = some o → o.opc = 6 → o.dataFrom.contains src = true → o.rlen src = none →
      n.toNat ≤ o.cap → Leads (exec (.collLength p f k w) s) s p fun t => t.cores = s.cores ∧
        (NoCopies s → t.mem.readLe (o.lensAt + 4 * o.grp.size + 4 * src) 4 = n.toNat) ∧
        ∃ o', t.op? key = some o' ∧ o'.rlen src = some n.toNat ∧ o'.ndrop = o.ndrop + d.toNat)

/-- COLL_COMMIT, COLL_END, COLL_REPORT, COLL_RETRY, COLL_PROBE and COLL_PROBE_REPLY complete. A COMMIT decides OK at a member that has
sent READY; END decides its status and overrides a retry; rank 0 ends an operation on a report, or tries again on a stall; RETRY repeats
the part; what reaches a member that has not opened the operation is kept for it; a probe is answered with the state of the operation,
and its reply clears or reports the stall. -/
def Sys2Proof.Claims.ControlPackets : Prop :=
  ∀ (p : MPort) (f : RxFlit) (k : CollPkt) (w : Nat) (s : State) (v : Port), Arrives s p f k v →
    let s1 := accepted s p v
    let key := keyOf k
    let src := srcOf k
    let early := s.ctl.coll.early? key
    let limit := s.ctl.fld Addr.collCfg 14 3
    -- the packet changes nothing at this member
    let unmoved (o : Out) : Prop := o = .next (acked s p s1.stopDue)
    -- what is kept of an operation that is not open here
    let keeps (o : Out) (attempt : Nat) (d : Option (Status × BitVec 32)) : Prop := Served o s p fun t =>
      t.ctl.coll.early? key = ⟨key, attempt, d⟩ ∧ t.ctl.coll.ops = s.ctl.coll.ops ∧ t.ctl.coll.past = s.ctl.coll.past
    -- the operation is acted on once the wait is charged to it, and what goes to the children is sent
    let acts (out : Out) (o : GroupOp) (act : State → State) : Prop := ∃ s2 : State,
      out = .next (acked s p (act s2).stopDue) ∧ Quiet s s2 ∧ s2.ctl.coll.past = s.ctl.coll.past ∧
      ∃ o', s2.op? key = some o' ∧ o'.waitNs = o.waitNs + w ∧ o'.attempt = o.attempt ∧ o'.decided = none
    (∀ o, s.opFor k = some o →
      (o.readySent = true → acts (exec (.collCommit p f k w) s) o fun t => t.decideHere key stOK noRank) ∧
      (o.readySent = false → unmoved (exec (.collCommit p f k w) s))) ∧
    (∀ st rank, k.body = .finish st rank →
      (∀ o, s.op? key = some o → o.decided = none → o.attempt ≤ k.hdr.attempt.toNat → s.ctl.opPassed key = false →
        acts (exec (.collEnd p f k w) s) o fun t => t.decideHere key st rank) ∧
      (s.op? key = none → s.ctl.opPassed key = false → early.decided = none →
        keeps (exec (.collEnd p f k w) s) early.attempt (some (st, rank))) ∧
      (s.ctl.opPassed key = true → unmoved (exec (.collEnd p f k w) s))) ∧
    (∀ kind rank g, k.body = .report kind rank → s.ctl.group k.job.toNat k.hdr.group = some g → src < g.size →
      (g.rank ≠ 0 → unmoved (exec (.collReport p f k) s)) ∧
      (∀ o, g.rank = 0 → s.op? key = some o → o.decided = none → o.attempt ≤ k.hdr.attempt.toNat →
        (kind = kPREEMPT → exec (.collReport p f k) s = .next (acked s p (s1.sendEnd o stPREEMPTED noRank).stopDue)) ∧
        (kind = kMISMATCH → exec (.collReport p f k) s =
          .next (acked s p (s1.sendEnd o stABORTED_MISMATCH (rank32 rank.toNat)).stopDue)) ∧
        (kind = kLEFT ∨ (kind = kSTALL ∧ limit ≤ o.retries) →
          exec (.collReport p f k) s = .next (acked s p (s1.sendEnd o stABORTED_STALL (rank32 rank.toNat)).stopDue)) ∧
        (kind = kSTALL → o.retries < limit → ∃ s2 : State,
          exec (.collReport p f k) s = .next (acked s p (s2.retryHere o.key (o.attempt + 1)).stopDue) ∧ Quiet s s2 ∧
          s2.ctl.coll = s.ctl.coll)) ∧
      (g.rank = 0 → s.op? key = none → s.ctl.coll.past? key = none → s.ctl.opPassed key = false → early.decided = none →
        early.attempt ≤ k.hdr.attempt.toNat →
        (kind = kMISMATCH → keeps (exec (.collReport p f k) s) early.attempt (some (stABORTED_MISMATCH, rank32 rank.toNat))) ∧
        (kind = kPREEMPT → keeps (exec (.collReport p f k) s) early.attempt (some (stPREEMPTED, noRank))) ∧
        (kind = kLEFT ∨ (kind = kSTALL ∧ limit ≤ early.attempt) →
          keeps (exec (.collReport p f k) s) early.attempt (some (stABORTED_STALL, rank32 rank.toNat))) ∧
        (kind = kSTALL → early.attempt < limit → keeps (exec (.collReport p f k) s) (early.attempt + 1) none))) ∧
    (∀ o, s.op? key = some o → o.decided = none →
      (o.attempt < k.hdr.attempt.toNat → acts (exec (.collRetry p f k w) s) o fun t => t.retryHere key k.hdr.attempt.toNat) ∧
      (k.hdr.attempt.toNat ≤ o.attempt → unmoved (exec (.collRetry p f k w) s))) ∧
    (s.op? key = none → s.ctl.opPassed key = false → early.decided = none → early.attempt < k.hdr.attempt.toNat →
      keeps (exec (.collRetry p f k w) s) k.hdr.attempt.toNat none) ∧
    (∀ g, s.ctl.group k.job.toNat k.hdr.group = some g → src < g.size →
      (∀ o, s.op? key = some o → k.hdr.attempt.toNat < o.attempt → unmoved (exec (.collProbe p f k) s)) ∧
      ((∀ o, s.op? key = some o → o.attempt ≤ k.hdr.attempt.toNat) → ∃ (s2 : State) (q : CollPkt) (st : BitVec 8) (dh : BitVec 32),
        exec (.collProbe p f k) s = .next (acked s p (s2.route q none).stopDue) ∧ Quiet s s2 ∧ s2.ctl.coll.ops = s.ctl.coll.ops ∧
        q.dst = s.ctl.devOf g src ∧ q.body = .probeReply st (s.ctl.coll.next g) dh ∧
        (∀ o, s.op? key = some o → st = (if o.owes src then 2 else 3) ∧ dh = o.dhash ∧ q.hdr.dhash = o.dhash ∧
          q.hdr.dtype = BitVec.ofNat 4 o.dtype) ∧
        (s.op? key = none → s.ctl.opPassed key = true → st = 0))) ∧
    (∀ o st n dh, k.body = .probeReply st n dh → s.opFor k = some o →
      (st = 1 ∨ (st = 2 ∧ dh = o.dhash) → Served (exec (.collProbeReply p f k) s) s p fun t =>
        t.op? key = some { o with probed := o.probed.filter (· ≠ src) }) ∧
      (st = 0 ∨ (st = 3 ∧ dh = o.dhash) → ∃ s2 : State,
        exec (.collProbeReply p f k) s = .next (acked s p (s2.report key kSTALL src).stopDue) ∧ Quiet s s2) ∧
      ((st = 2 ∨ st = 3) → dh ≠ o.dhash → ∃ s2 : State,
        exec (.collProbeReply p f k) s = .next (acked s p (s2.report key kMISMATCH src).stopDue) ∧ Quiet s s2))

/-- COLL_READY_CONDITIONS and COLL_STALL_TIMER complete: a member whose part is done sends READY once, and rank 0 then commits; a stall
probes the awaited member first, and reports it, or ends without rank 0, when no reply came. Neither acts while HBM refreshes
itself. -/
def Sys2Proof.Claims.ReadyAndStall : Prop :=
  ∀ (group job : BitVec 16) (seq : BitVec 32) (s : State) (o : GroupOp), s.op? ⟨group, job, seq⟩ = some o →
    (s.ctl.dev.selfRefresh = true → exec (.collReadyConditions group job seq) s = .next s ∧
      ∀ rank : BitVec 16, exec (.collStallTimer group job seq rank) s = .next s) ∧
    (s.ctl.dev.selfRefresh = false → s.readyNow o = true → o.readySent = false →
      (o.grp.rank ≠ 0 → Ends (exec (.collReadyConditions group job seq) s) s fun t =>
        t.op? ⟨group, job, seq⟩ = some { o with readySent := true }) ∧
      (o.grp.rank = 0 → ∃ s2 : State, exec (.collReadyConditions group job seq) s = .next (s2.decideHere o.key stOK noRank).stopDue ∧
        Quiet s s2 ∧ s2.ctl.coll = s.ctl.coll)) ∧
    (s.readyNow o = false ∨ o.readySent = true → exec (.collReadyConditions group job seq) s = .next s) ∧
    (s.ctl.dev.selfRefresh = false → ∀ rank : BitVec 16,
      (o.awaited rank.toNat = none → exec (.collStallTimer group job seq rank) s = .next s) ∧
      (∀ r, o.awaited rank.toNat = some r →
        (o.probed.contains r = false → Ends (exec (.collStallTimer group job seq rank) s) s fun t =>
          t.op? ⟨group, job, seq⟩ = some { o with probed := r :: o.probed }) ∧
        (o.probed.contains r = true → r = 0 →
          exec (.collStallTimer group job seq rank) s = .next (s.decideHere o.key stABORTED_STALL 0).stopDue) ∧
        (o.probed.contains r = true → r ≠ 0 → ∃ s2 : State,
          exec (.collStallTimer group job seq rank) s = .next (s2.report o.key kSTALL r).stopDue ∧ Quiet s s2)))

/-- A decided operation ends in its group's order: its completion record is written at DONE, CINC is added to its counter word, it leaves
the open operations, its outcome is kept, and NEXT_SEQ moves on; one decided before its turn waits. One that opens after its decision has arrived takes it. -/
def Sys2Proof.Claims.DecisionsEndInOrder : Prop :=
  (∀ (s : State) (o : GroupOp) (st : Status) (rank : BitVec 32), let t := s.endOp o st rank
    t.cores = s.cores ∧ t.op? o.key = none ∧ t.ctl.coll.next o.grp = o.key.seq + 1 ∧
    (NoCopies s → (∀ c, o.counter = some c → c + 8 ≤ o.doneAt ∨ o.doneAt + 32 ≤ c) →
      (∀ i, i < 32 → t.mem.read8 (o.doneAt + i) = (o.record st rank).getD i 0) ∧
      (s.ctl.collJob o.key.job.toNat = none →
        (∀ c, o.counter = some c → t.mem.readLe c 8 = (s.mem.readLe c 8 + o.cinc) % 2 ^ 64) ∧
        ∀ a, a < o.doneAt ∨ o.doneAt + 32 ≤ a → (∀ c, o.counter = some c → a < c ∨ c + 8 ≤ a) →
          t.mem.read8 a = s.mem.read8 a))) ∧
  (∀ (s : State) (key : OpKey) (st : Status) (rank : BitVec 32) (o : GroupOp), s.op? key = some o → o.decided = none →
    (∀ q ∈ s.ctl.coll.ops, q.key = key → q = o) →
    (∀ q ∈ s.ctl.coll.ops, q.grp.qkey = o.grp.qkey → q.key.seq = key.seq → q.key = key) →
    let t := s.decideHere key st rank
    t.cores = s.cores ∧
    (key.seq = s.ctl.coll.next o.grp → t.op? key = none ∧ (t.ctl.coll.past? key).map PastOp.status = some st ∧
      (t.ctl.coll.past? key).map PastOp.rank = some rank) ∧
    (key.seq ≠ s.ctl.coll.next o.grp → (∀ q ∈ s.ctl.coll.ops, q.grp.qkey = o.grp.qkey → q.decided = none) →
      t.op? key = some { o with decided := some (st, rank), outq := [] } ∧ t.mem = s.mem)) ∧
  (∀ (s : State) (o : GroupOp) (reason : Nat) (st : Status) (rank : BitVec 32), (s.ctl.coll.early? o.key).decided = some (st, rank) →
    s.op? o.key = none → ∃ s2 : State, s.openOp o reason = s2.decideHere o.key st rank ∧ Quiet s s2 ∧ s2.out = s.out ∧
      s2.op? o.key = some { o with attempt := (s.ctl.coll.early? o.key).attempt, retries := (s.ctl.coll.early? o.key).attempt })

/-- Chunks and collective steps: a chunk is no longer than STEP_KIB and what the group's share moves in 200 us; the packets of a
path follow each other through its units, none across the end of a chunk; a member that the host pre-empts begins no further
chunk, and reports once none is begun and not finished. -/
def Sys2Proof.Claims.ChunksAndSteps : Prop :=
  (∀ (c : Ctl) (g : Group), c.chunkBytes g ≤ c.fld Addr.collCfg 17 15 * 1024 ∧
    c.chunkBytes g * max 1 c.weights ≤ c.weightOf g * 37640000) ∧
  (∀ chunk per n : Nat, 0 < chunk → 0 < per → let l := packetsOf chunk per n
    (l.map (·.2)).sum = n ∧ (∀ x ∈ l, 0 < x.2 ∧ x.2 ≤ per ∧ x.1 / chunk = (x.1 + x.2 - 1) / chunk) ∧
    ∀ i x y, l[i]? = some x → l[i + 1]? = some y → y.1 = x.1 + x.2) ∧
  (∀ (s : State) (o : GroupOp) (i : OutItem), o.leaving = some kPREEMPT → o.beginsChunk (s.ctl.chunkUnits o) i = true →
    s.maySend o i = false) ∧
  (∀ (s : State) (o : GroupOp), s.op? o.key = some o → o.leaving = some kPREEMPT → o.told = false → o.decided = none →
    (o.inStep (s.ctl.chunkUnits o) = true → s.stepDone o.key = s) ∧
    (o.inStep (s.ctl.chunkUnits o) = false → s.stepDone o.key = s.tell o kPREEMPT o.grp.rank))

/-- The 32 bytes of a collective header say every field. -/
def Sys2Proof.Claims.CollectiveHeader : Prop := ∀ h : CollHdr, h.bytes.length = 32 ∧ CollHdr.ofBytes h.bytes = h

/-- Collectives at a member: packets that pass through, the packets that carry an operation forward, and their header. -/
def Obligations.CollectivePackets : Prop := Claims.PacketsForwardOrDrop ∧ Claims.DataPackets ∧ Claims.CollectiveHeader

/-- Collectives at a member: the packets that decide, the READY conditions and the stall timer, chunks and steps, and the end of an
operation. -/
def Obligations.CollectiveDecisions : Prop :=
  Claims.ControlPackets ∧ Claims.ReadyAndStall ∧ Claims.DecisionsEndInOrder ∧ Claims.ChunksAndSteps

/-! ### The whole machine -/

/-- Every command answers a next state from every state, and so does every step: no ordinary data ends a run. -/
def Obligations.EveryStepAnswers : Prop :=
  (∀ (c : Instr) (s : State), ∃ t : State, exec c s = .next t) ∧ (∀ s : State, Safety.Runs s)

/-- Every step keeps device memory in its one canonical form: addresses rise strictly and no cell holds 0x00. -/
def Obligations.MemoryStaysCanonical : Prop :=
  ∀ s t : State, s.mem.wf = true → step s = .next t → t.mem.wf = true

/-- The state after reset: memory lists nothing and is canonical, no command waits, BOOT at step 3, every core idle with its
general registers zero, no session, and the configuration registers at the reset values of their maps. -/
def Obligations.ResetState : Prop :=
  State.reset.mem.wf = true ∧ State.reset.mem = [] ∧ State.reset.pending = [] ∧ State.reset.ctl.dev.dstate = .boot ∧
  State.reset.ctl.dev.bootStep = 3 ∧ State.reset.ctl.elo.sessions = [] ∧
  (∀ (c : CoreId) (r : BitVec 5), (State.reset.core c).run = .idle ∧ (State.reset.core c).rg r = 0) ∧
  State.reset.ctl.fld Addr.pwrCap 0 8 = 240 ∧ State.reset.ctl.fld Addr.relCfg 1 14 = 168 ∧
  State.reset.ctl.fld Addr.collCfg 14 3 = 3 ∧ State.reset.ctl.fld Addr.eloCfg 0 16 = 56820 ∧
  State.reset.ctl.fld Addr.pwrTherm 8 8 = 100
end

