-- ==== Sys2Proof/Laws/State.lean ====
section
/-! SUPPORT. What each update of the state and of a core does to each field, so that no proof unfolds a record update. -/
namespace Sys2Proof.Machine


/-! ### The state -/

@[simp] theorem State.setCore_cores (s : State) (c : CoreId) (k : Core) : (s.setCore c k).cores = s.cores.set c k := rfl
@[simp] theorem State.setCore_mem (s : State) (c : CoreId) (k : Core) : (s.setCore c k).mem = s.mem := rfl
@[simp] theorem State.setCore_ctl (s : State) (c : CoreId) (k : Core) : (s.setCore c k).ctl = s.ctl := rfl
@[simp] theorem State.setCore_snap (s : State) (c : CoreId) (k : Core) : (s.setCore c k).snap = s.snap := rfl
@[simp] theorem State.setCore_snapVer (s : State) (c : CoreId) (k : Core) : (s.setCore c k).snapVer = s.snapVer := rfl
@[simp] theorem State.setCore_prev (s : State) (c : CoreId) (k : Core) : (s.setCore c k).prev = s.prev := rfl
@[simp] theorem State.setCore_out (s : State) (c : CoreId) (k : Core) : (s.setCore c k).out = s.out := rfl
@[simp] theorem State.setCore_freeCtr (s : State) (c : CoreId) (k : Core) : (s.setCore c k).freeCtr = s.freeCtr := rfl
@[simp] theorem State.setCore_pending (s : State) (c : CoreId) (k : Core) : (s.setCore c k).pending = s.pending := rfl
@[simp] theorem State.mapCtl_cores (s : State) (f : Ctl → Ctl) : (s.mapCtl f).cores = s.cores := rfl
@[simp] theorem State.mapCtl_mem (s : State) (f : Ctl → Ctl) : (s.mapCtl f).mem = s.mem := rfl
@[simp] theorem State.mapCtl_ctl (s : State) (f : Ctl → Ctl) : (s.mapCtl f).ctl = f s.ctl := rfl
@[simp] theorem State.mapCtl_snap (s : State) (f : Ctl → Ctl) : (s.mapCtl f).snap = s.snap := rfl
@[simp] theorem State.mapCtl_snapVer (s : State) (f : Ctl → Ctl) : (s.mapCtl f).snapVer = s.snapVer := rfl
@[simp] theorem State.mapCtl_prev (s : State) (f : Ctl → Ctl) : (s.mapCtl f).prev = s.prev := rfl
@[simp] theorem State.mapCtl_out (s : State) (f : Ctl → Ctl) : (s.mapCtl f).out = s.out := rfl
@[simp] theorem State.mapCtl_freeCtr (s : State) (f : Ctl → Ctl) : (s.mapCtl f).freeCtr = s.freeCtr := rfl
@[simp] theorem State.mapCtl_pending (s : State) (f : Ctl → Ctl) : (s.mapCtl f).pending = s.pending := rfl
@[simp] theorem State.send_cores (s : State) (o : Output) : (s.send o).cores = s.cores := rfl
@[simp] theorem State.send_mem (s : State) (o : Output) : (s.send o).mem = s.mem := rfl
@[simp] theorem State.send_ctl (s : State) (o : Output) : (s.send o).ctl = s.ctl := rfl
@[simp] theorem State.send_snap (s : State) (o : Output) : (s.send o).snap = s.snap := rfl
@[simp] theorem State.send_snapVer (s : State) (o : Output) : (s.send o).snapVer = s.snapVer := rfl
@[simp] theorem State.send_prev (s : State) (o : Output) : (s.send o).prev = s.prev := rfl
@[simp] theorem State.send_out (s : State) (o : Output) : (s.send o).out = o :: s.out := rfl
@[simp] theorem State.send_freeCtr (s : State) (o : Output) : (s.send o).freeCtr = s.freeCtr := rfl
@[simp] theorem State.send_pending (s : State) (o : Output) : (s.send o).pending = s.pending := rfl
@[simp] theorem State.tick_cores (s : State)  : (s.tick).cores = s.cores := rfl
@[simp] theorem State.tick_mem (s : State)  : (s.tick).mem = s.mem := rfl
@[simp] theorem State.tick_ctl (s : State)  : (s.tick).ctl = s.ctl := rfl
@[simp] theorem State.tick_snap (s : State)  : (s.tick).snap = s.snap := rfl
@[simp] theorem State.tick_snapVer (s : State)  : (s.tick).snapVer = s.snapVer := rfl
@[simp] theorem State.tick_prev (s : State)  : (s.tick).prev = s.prev := rfl
@[simp] theorem State.tick_out (s : State)  : (s.tick).out = s.out := rfl
@[simp] theorem State.tick_freeCtr (s : State)  : (s.tick).freeCtr = s.freeCtr + 1 := rfl
@[simp] theorem State.tick_pending (s : State)  : (s.tick).pending = s.pending := rfl
@[simp] theorem State.cut_cores (s : State)  : (s.cut).cores = s.cores := rfl
@[simp] theorem State.cut_mem (s : State)  : (s.cut).mem = s.mem := rfl
@[simp] theorem State.cut_ctl (s : State)  : (s.cut).ctl = s.ctl := rfl
@[simp] theorem State.cut_snap (s : State)  : (s.cut).snap = s.ctl := rfl
@[simp] theorem State.cut_snapVer (s : State)  : (s.cut).snapVer = s.snapVer + 1 := rfl
@[simp] theorem State.cut_prev (s : State)  : (s.cut).prev = some s.snap := rfl
@[simp] theorem State.cut_out (s : State)  : (s.cut).out = s.out := rfl
@[simp] theorem State.cut_freeCtr (s : State)  : (s.cut).freeCtr = s.freeCtr := rfl
@[simp] theorem State.cut_pending (s : State)  : (s.cut).pending = s.pending := rfl
@[simp] theorem State.mapJnl_cores (s : State) (f : Journal → Journal) : (s.mapJnl f).cores = s.cores := rfl
@[simp] theorem State.mapJnl_mem (s : State) (f : Journal → Journal) : (s.mapJnl f).mem = s.mem := rfl
@[simp] theorem State.mapJnl_ctl (s : State) (f : Journal → Journal) : (s.mapJnl f).ctl = { s.ctl with jnl := f s.ctl.jnl } := rfl
@[simp] theorem State.mapJnl_snap (s : State) (f : Journal → Journal) : (s.mapJnl f).snap = s.snap := rfl
@[simp] theorem State.mapJnl_snapVer (s : State) (f : Journal → Journal) : (s.mapJnl f).snapVer = s.snapVer := rfl
@[simp] theorem State.mapJnl_prev (s : State) (f : Journal → Journal) : (s.mapJnl f).prev = s.prev := rfl
@[simp] theorem State.mapJnl_out (s : State) (f : Journal → Journal) : (s.mapJnl f).out = s.out := rfl
@[simp] theorem State.mapJnl_freeCtr (s : State) (f : Journal → Journal) : (s.mapJnl f).freeCtr = s.freeCtr := rfl
@[simp] theorem State.mapJnl_pending (s : State) (f : Journal → Journal) : (s.mapJnl f).pending = s.pending := rfl

@[simp] theorem State.core_setCore (s : State) (c : CoreId) (k : Core) : (s.setCore c k).core c = k := by
  simp [State.core, State.setCore]
theorem State.core_setCore_ne (s : State) (c d : CoreId) (k : Core) (h : d ≠ c) : (s.setCore c k).core d = s.core d := by
  have h' : (c : Nat) ≠ d := fun e => h (Fin.ext e.symm)
  simp [State.core, State.setCore, h']
@[simp] theorem State.setCore_setCore (s : State) (c : CoreId) (k k' : Core) : (s.setCore c k).setCore c k' = s.setCore c k' := by
  simp [State.setCore, Vector.set_set]
@[simp] theorem State.core_mapCtl (s : State) (f : Ctl → Ctl) (c : CoreId) : (s.mapCtl f).core c = s.core c := rfl
@[simp] theorem State.core_send (s : State) (o : Output) (c : CoreId) : (s.send o).core c = s.core c := rfl

/-! ### A core that issues -/

@[simp] theorem Core.next_g (k : Core) : (k.next).g = k.g := rfl
@[simp] theorem Core.next_p (k : Core) : (k.next).p = k.p := rfl
@[simp] theorem Core.next_d (k : Core) : (k.next).d = k.d := rfl
@[simp] theorem Core.next_sem (k : Core) : (k.next).sem = k.sem := rfl
@[simp] theorem Core.next_ledge (k : Core) : (k.next).ledge = k.ledge := rfl
@[simp] theorem Core.next_tiles (k : Core) : (k.next).tiles = k.tiles := rfl
@[simp] theorem Core.next_spills (k : Core) : (k.next).spills = k.spills := rfl
@[simp] theorem Core.next_wb (k : Core) : (k.next).wb = k.wb := rfl
@[simp] theorem Core.next_vb (k : Core) : (k.next).vb = k.vb := rfl
@[simp] theorem Core.next_cb (k : Core) : (k.next).cb = k.cb := rfl
@[simp] theorem Core.next_queues (k : Core) : (k.next).queues = k.queues := rfl
@[simp] theorem Core.next_iseq (k : Core) : (k.next).iseq = k.iseq + 1 := rfl
@[simp] theorem Core.next_stall (k : Core) : (k.next).stall = k.stall := rfl
@[simp] theorem Core.next_trapping (k : Core) : (k.next).trapping = k.trapping := rfl
@[simp] theorem Core.next_run (k : Core) : (k.next).run = k.run := rfl
@[simp] theorem Core.next_pc (k : Core) : (k.next).pc = k.pc + 8 := rfl
@[simp] theorem Core.next_trapInfo (k : Core) : (k.next).trapInfo = k.trapInfo := rfl
@[simp] theorem Core.next_trapPc (k : Core) : (k.next).trapPc = k.trapPc := rfl
@[simp] theorem Core.next_trapSeq (k : Core) : (k.next).trapSeq = k.trapSeq := rfl
@[simp] theorem Core.next_phase (k : Core) : (k.next).phase = k.phase := rfl
@[simp] theorem Core.next_waitLimit (k : Core) : (k.next).waitLimit = k.waitLimit := rfl
@[simp] theorem Core.next_flags (k : Core) : (k.next).flags = k.flags := rfl
@[simp] theorem Core.next_nonfinPos (k : Core) : (k.next).nonfinPos = k.nonfinPos := rfl
@[simp] theorem Core.next_fpctl (k : Core) : (k.next).fpctl = k.fpctl := rfl
@[simp] theorem Core.next_fpq (k : Core) : (k.next).fpq = k.fpq := rfl
@[simp] theorem Core.next_seed (k : Core) : (k.next).seed = k.seed := rfl
@[simp] theorem Core.next_srStream (k : Core) : (k.next).srStream = k.srStream := rfl
@[simp] theorem Core.next_qs (k : Core) : (k.next).qs = k.qs := rfl
@[simp] theorem Core.next_accCtl (k : Core) : (k.next).accCtl = k.accCtl := rfl
@[simp] theorem Core.next_vecLast (k : Core) : (k.next).vecLast = k.vecLast := rfl
@[simp] theorem Core.next_chkResidue (k : Core) : (k.next).chkResidue = k.chkResidue := rfl
@[simp] theorem Core.next_armed (k : Core) : (k.next).armed = k.armed := rfl
@[simp] theorem Core.next_prog (k : Core) : (k.next).prog = k.prog := rfl
@[simp] theorem Core.next_haltStatus (k : Core) : (k.next).haltStatus = k.haltStatus := rfl

/-! ### Registers -/

@[simp] theorem Core.wg_p (k : Core) (r : BitVec 5) (v : Word) : (k.wg r v).p = k.p := by
  unfold Core.wg; split <;> rfl
@[simp] theorem Core.wg_d (k : Core) (r : BitVec 5) (v : Word) : (k.wg r v).d = k.d := by
  unfold Core.wg; split <;> rfl
@[simp] theorem Core.wg_sem (k : Core) (r : BitVec 5) (v : Word) : (k.wg r v).sem = k.sem := by
  unfold Core.wg; split <;> rfl
@[simp] theorem Core.wg_ledge (k : Core) (r : BitVec 5) (v : Word) : (k.wg r v).ledge = k.ledge := by
  unfold Core.wg; split <;> rfl
@[simp] theorem Core.wg_tiles (k : Core) (r : BitVec 5) (v : Word) : (k.wg r v).tiles = k.tiles := by
  unfold Core.wg; split <;> rfl
@[simp] theorem Core.wg_spills (k : Core) (r : BitVec 5) (v : Word) : (k.wg r v).spills = k.spills := by
  unfold Core.wg; split <;> rfl
@[simp] theorem Core.wg_wb (k : Core) (r : BitVec 5) (v : Word) : (k.wg r v).wb = k.wb := by
  unfold Core.wg; split <;> rfl
@[simp] theorem Core.wg_vb (k : Core) (r : BitVec 5) (v : Word) : (k.wg r v).vb = k.vb := by
  unfold Core.wg; split <;> rfl
@[simp] theorem Core.wg_cb (k : Core) (r : BitVec 5) (v : Word) : (k.wg r v).cb = k.cb := by
  unfold Core.wg; split <;> rfl
@[simp] theorem Core.wg_queues (k : Core) (r : BitVec 5) (v : Word) : (k.wg r v).queues = k.queues := by
  unfold Core.wg; split <;> rfl
@[simp] theorem Core.wg_iseq (k : Core) (r : BitVec 5) (v : Word) : (k.wg r v).iseq = k.iseq := by
  unfold Core.wg; split <;> rfl
@[simp] theorem Core.wg_stall (k : Core) (r : BitVec 5) (v : Word) : (k.wg r v).stall = k.stall := by
  unfold Core.wg; split <;> rfl
@[simp] theorem Core.wg_trapping (k : Core) (r : BitVec 5) (v : Word) : (k.wg r v).trapping = k.trapping := by
  unfold Core.wg; split <;> rfl
@[simp] theorem Core.wg_run (k : Core) (r : BitVec 5) (v : Word) : (k.wg r v).run = k.run := by
  unfold Core.wg; split <;> rfl
@[simp] theorem Core.wg_pc (k : Core) (r : BitVec 5) (v : Word) : (k.wg r v).pc = k.pc := by
  unfold Core.wg; split <;> rfl
@[simp] theorem Core.wg_trapInfo (k : Core) (r : BitVec 5) (v : Word) : (k.wg r v).trapInfo = k.trapInfo := by
  unfold Core.wg; split <;> rfl
@[simp] theorem Core.wg_trapPc (k : Core) (r : BitVec 5) (v : Word) : (k.wg r v).trapPc = k.trapPc := by
  unfold Core.wg; split <;> rfl
@[simp] theorem Core.wg_trapSeq (k : Core) (r : BitVec 5) (v : Word) : (k.wg r v).trapSeq = k.trapSeq := by
  unfold Core.wg; split <;> rfl
@[simp] theorem Core.wg_phase (k : Core) (r : BitVec 5) (v : Word) : (k.wg r v).phase = k.phase := by
  unfold Core.wg; split <;> rfl
@[simp] theorem Core.wg_waitLimit (k : Core) (r : BitVec 5) (v : Word) : (k.wg r v).waitLimit = k.waitLimit := by
  unfold Core.wg; split <;> rfl
@[simp] theorem Core.wg_flags (k : Core) (r : BitVec 5) (v : Word) : (k.wg r v).flags = k.flags := by
  unfold Core.wg; split <;> rfl
@[simp] theorem Core.wg_nonfinPos (k : Core) (r : BitVec 5) (v : Word) : (k.wg r v).nonfinPos = k.nonfinPos := by
  unfold Core.wg; split <;> rfl
@[simp] theorem Core.wg_fpctl (k : Core) (r : BitVec 5) (v : Word) : (k.wg r v).fpctl = k.fpctl := by
  unfold Core.wg; split <;> rfl
@[simp] theorem Core.wg_fpq (k : Core) (r : BitVec 5) (v : Word) : (k.wg r v).fpq = k.fpq := by
  unfold Core.wg; split <;> rfl
@[simp] theorem Core.wg_seed (k : Core) (r : BitVec 5) (v : Word) : (k.wg r v).seed = k.seed := by
  unfold Core.wg; split <;> rfl
@[simp] theorem Core.wg_srStream (k : Core) (r : BitVec 5) (v : Word) : (k.wg r v).srStream = k.srStream := by
  unfold Core.wg; split <;> rfl
@[simp] theorem Core.wg_qs (k : Core) (r : BitVec 5) (v : Word) : (k.wg r v).qs = k.qs := by
  unfold Core.wg; split <;> rfl
@[simp] theorem Core.wg_accCtl (k : Core) (r : BitVec 5) (v : Word) : (k.wg r v).accCtl = k.accCtl := by
  unfold Core.wg; split <;> rfl
@[simp] theorem Core.wg_vecLast (k : Core) (r : BitVec 5) (v : Word) : (k.wg r v).vecLast = k.vecLast := by
  unfold Core.wg; split <;> rfl
@[simp] theorem Core.wg_chkResidue (k : Core) (r : BitVec 5) (v : Word) : (k.wg r v).chkResidue = k.chkResidue := by
  unfold Core.wg; split <;> rfl
@[simp] theorem Core.wg_armed (k : Core) (r : BitVec 5) (v : Word) : (k.wg r v).armed = k.armed := by
  unfold Core.wg; split <;> rfl
@[simp] theorem Core.wg_prog (k : Core) (r : BitVec 5) (v : Word) : (k.wg r v).prog = k.prog := by
  unfold Core.wg; split <;> rfl
@[simp] theorem Core.wg_haltStatus (k : Core) (r : BitVec 5) (v : Word) : (k.wg r v).haltStatus = k.haltStatus := by
  unfold Core.wg; split <;> rfl
@[simp] theorem Core.wp_g (k : Core) (r : BitVec 3) (v : Bool) : (k.wp r v).g = k.g := by
  unfold Core.wp; split <;> rfl
@[simp] theorem Core.wp_d (k : Core) (r : BitVec 3) (v : Bool) : (k.wp r v).d = k.d := by
  unfold Core.wp; split <;> rfl
@[simp] theorem Core.wp_sem (k : Core) (r : BitVec 3) (v : Bool) : (k.wp r v).sem = k.sem := by
  unfold Core.wp; split <;> rfl
@[simp] theorem Core.wp_ledge (k : Core) (r : BitVec 3) (v : Bool) : (k.wp r v).ledge = k.ledge := by
  unfold Core.wp; split <;> rfl
@[simp] theorem Core.wp_tiles (k : Core) (r : BitVec 3) (v : Bool) : (k.wp r v).tiles = k.tiles := by
  unfold Core.wp; split <;> rfl
@[simp] theorem Core.wp_spills (k : Core) (r : BitVec 3) (v : Bool) : (k.wp r v).spills = k.spills := by
  unfold Core.wp; split <;> rfl
@[simp] theorem Core.wp_wb (k : Core) (r : BitVec 3) (v : Bool) : (k.wp r v).wb = k.wb := by
  unfold Core.wp; split <;> rfl
@[simp] theorem Core.wp_vb (k : Core) (r : BitVec 3) (v : Bool) : (k.wp r v).vb = k.vb := by
  unfold Core.wp; split <;> rfl
@[simp] theorem Core.wp_cb (k : Core) (r : BitVec 3) (v : Bool) : (k.wp r v).cb = k.cb := by
  unfold Core.wp; split <;> rfl
@[simp] theorem Core.wp_queues (k : Core) (r : BitVec 3) (v : Bool) : (k.wp r v).queues = k.queues := by
  unfold Core.wp; split <;> rfl
@[simp] theorem Core.wp_iseq (k : Core) (r : BitVec 3) (v : Bool) : (k.wp r v).iseq = k.iseq := by
  unfold Core.wp; split <;> rfl
@[simp] theorem Core.wp_stall (k : Core) (r : BitVec 3) (v : Bool) : (k.wp r v).stall = k.stall := by
  unfold Core.wp; split <;> rfl
@[simp] theorem Core.wp_trapping (k : Core) (r : BitVec 3) (v : Bool) : (k.wp r v).trapping = k.trapping := by
  unfold Core.wp; split <;> rfl
@[simp] theorem Core.wp_run (k : Core) (r : BitVec 3) (v : Bool) : (k.wp r v).run = k.run := by
  unfold Core.wp; split <;> rfl
@[simp] theorem Core.wp_pc (k : Core) (r : BitVec 3) (v : Bool) : (k.wp r v).pc = k.pc := by
  unfold Core.wp; split <;> rfl
@[simp] theorem Core.wp_trapInfo (k : Core) (r : BitVec 3) (v : Bool) : (k.wp r v).trapInfo = k.trapInfo := by
  unfold Core.wp; split <;> rfl
@[simp] theorem Core.wp_trapPc (k : Core) (r : BitVec 3) (v : Bool) : (k.wp r v).trapPc = k.trapPc := by
  unfold Core.wp; split <;> rfl
@[simp] theorem Core.wp_trapSeq (k : Core) (r : BitVec 3) (v : Bool) : (k.wp r v).trapSeq = k.trapSeq := by
  unfold Core.wp; split <;> rfl
@[simp] theorem Core.wp_phase (k : Core) (r : BitVec 3) (v : Bool) : (k.wp r v).phase = k.phase := by
  unfold Core.wp; split <;> rfl
@[simp] theorem Core.wp_waitLimit (k : Core) (r : BitVec 3) (v : Bool) : (k.wp r v).waitLimit = k.waitLimit := by
  unfold Core.wp; split <;> rfl
@[simp] theorem Core.wp_flags (k : Core) (r : BitVec 3) (v : Bool) : (k.wp r v).flags = k.flags := by
  unfold Core.wp; split <;> rfl
@[simp] theorem Core.wp_nonfinPos (k : Core) (r : BitVec 3) (v : Bool) : (k.wp r v).nonfinPos = k.nonfinPos := by
  unfold Core.wp; split <;> rfl
@[simp] theorem Core.wp_fpctl (k : Core) (r : BitVec 3) (v : Bool) : (k.wp r v).fpctl = k.fpctl := by
  unfold Core.wp; split <;> rfl
@[simp] theorem Core.wp_fpq (k : Core) (r : BitVec 3) (v : Bool) : (k.wp r v).fpq = k.fpq := by
  unfold Core.wp; split <;> rfl
@[simp] theorem Core.wp_seed (k : Core) (r : BitVec 3) (v : Bool) : (k.wp r v).seed = k.seed := by
  unfold Core.wp; split <;> rfl
@[simp] theorem Core.wp_srStream (k : Core) (r : BitVec 3) (v : Bool) : (k.wp r v).srStream = k.srStream := by
  unfold Core.wp; split <;> rfl
@[simp] theorem Core.wp_qs (k : Core) (r : BitVec 3) (v : Bool) : (k.wp r v).qs = k.qs := by
  unfold Core.wp; split <;> rfl
@[simp] theorem Core.wp_accCtl (k : Core) (r : BitVec 3) (v : Bool) : (k.wp r v).accCtl = k.accCtl := by
  unfold Core.wp; split <;> rfl
@[simp] theorem Core.wp_vecLast (k : Core) (r : BitVec 3) (v : Bool) : (k.wp r v).vecLast = k.vecLast := by
  unfold Core.wp; split <;> rfl
@[simp] theorem Core.wp_chkResidue (k : Core) (r : BitVec 3) (v : Bool) : (k.wp r v).chkResidue = k.chkResidue := by
  unfold Core.wp; split <;> rfl
@[simp] theorem Core.wp_armed (k : Core) (r : BitVec 3) (v : Bool) : (k.wp r v).armed = k.armed := by
  unfold Core.wp; split <;> rfl
@[simp] theorem Core.wp_prog (k : Core) (r : BitVec 3) (v : Bool) : (k.wp r v).prog = k.prog := by
  unfold Core.wp; split <;> rfl
@[simp] theorem Core.wp_haltStatus (k : Core) (r : BitVec 3) (v : Bool) : (k.wp r v).haltStatus = k.haltStatus := by
  unfold Core.wp; split <;> rfl
@[simp] theorem Core.wd_g (k : Core) (r : BitVec 4) (v : Desc) : (k.wd r v).g = k.g := rfl
@[simp] theorem Core.wd_p (k : Core) (r : BitVec 4) (v : Desc) : (k.wd r v).p = k.p := rfl
@[simp] theorem Core.wd_d (k : Core) (r : BitVec 4) (v : Desc) : (k.wd r v).d = k.d.set r.toNat v r.isLt := rfl
@[simp] theorem Core.wd_sem (k : Core) (r : BitVec 4) (v : Desc) : (k.wd r v).sem = k.sem := rfl
@[simp] theorem Core.wd_ledge (k : Core) (r : BitVec 4) (v : Desc) : (k.wd r v).ledge = k.ledge := rfl
@[simp] theorem Core.wd_tiles (k : Core) (r : BitVec 4) (v : Desc) : (k.wd r v).tiles = k.tiles := rfl
@[simp] theorem Core.wd_spills (k : Core) (r : BitVec 4) (v : Desc) : (k.wd r v).spills = k.spills := rfl
@[simp] theorem Core.wd_wb (k : Core) (r : BitVec 4) (v : Desc) : (k.wd r v).wb = k.wb := rfl
@[simp] theorem Core.wd_vb (k : Core) (r : BitVec 4) (v : Desc) : (k.wd r v).vb = k.vb := rfl
@[simp] theorem Core.wd_cb (k : Core) (r : BitVec 4) (v : Desc) : (k.wd r v).cb = k.cb := rfl
@[simp] theorem Core.wd_queues (k : Core) (r : BitVec 4) (v : Desc) : (k.wd r v).queues = k.queues := rfl
@[simp] theorem Core.wd_iseq (k : Core) (r : BitVec 4) (v : Desc) : (k.wd r v).iseq = k.iseq := rfl
@[simp] theorem Core.wd_stall (k : Core) (r : BitVec 4) (v : Desc) : (k.wd r v).stall = k.stall := rfl
@[simp] theorem Core.wd_trapping (k : Core) (r : BitVec 4) (v : Desc) : (k.wd r v).trapping = k.trapping := rfl
@[simp] theorem Core.wd_run (k : Core) (r : BitVec 4) (v : Desc) : (k.wd r v).run = k.run := rfl
@[simp] theorem Core.wd_pc (k : Core) (r : BitVec 4) (v : Desc) : (k.wd r v).pc = k.pc := rfl
@[simp] theorem Core.wd_trapInfo (k : Core) (r : BitVec 4) (v : Desc) : (k.wd r v).trapInfo = k.trapInfo := rfl
@[simp] theorem Core.wd_trapPc (k : Core) (r : BitVec 4) (v : Desc) : (k.wd r v).trapPc = k.trapPc := rfl
@[simp] theorem Core.wd_trapSeq (k : Core) (r : BitVec 4) (v : Desc) : (k.wd r v).trapSeq = k.trapSeq := rfl
@[simp] theorem Core.wd_phase (k : Core) (r : BitVec 4) (v : Desc) : (k.wd r v).phase = k.phase := rfl
@[simp] theorem Core.wd_waitLimit (k : Core) (r : BitVec 4) (v : Desc) : (k.wd r v).waitLimit = k.waitLimit := rfl
@[simp] theorem Core.wd_flags (k : Core) (r : BitVec 4) (v : Desc) : (k.wd r v).flags = k.flags := rfl
@[simp] theorem Core.wd_nonfinPos (k : Core) (r : BitVec 4) (v : Desc) : (k.wd r v).nonfinPos = k.nonfinPos := rfl
@[simp] theorem Core.wd_fpctl (k : Core) (r : BitVec 4) (v : Desc) : (k.wd r v).fpctl = k.fpctl := rfl
@[simp] theorem Core.wd_fpq (k : Core) (r : BitVec 4) (v : Desc) : (k.wd r v).fpq = k.fpq := rfl
@[simp] theorem Core.wd_seed (k : Core) (r : BitVec 4) (v : Desc) : (k.wd r v).seed = k.seed := rfl
@[simp] theorem Core.wd_srStream (k : Core) (r : BitVec 4) (v : Desc) : (k.wd r v).srStream = k.srStream := rfl
@[simp] theorem Core.wd_qs (k : Core) (r : BitVec 4) (v : Desc) : (k.wd r v).qs = k.qs := rfl
@[simp] theorem Core.wd_accCtl (k : Core) (r : BitVec 4) (v : Desc) : (k.wd r v).accCtl = k.accCtl := rfl
@[simp] theorem Core.wd_vecLast (k : Core) (r : BitVec 4) (v : Desc) : (k.wd r v).vecLast = k.vecLast := rfl
@[simp] theorem Core.wd_chkResidue (k : Core) (r : BitVec 4) (v : Desc) : (k.wd r v).chkResidue = k.chkResidue := rfl
@[simp] theorem Core.wd_armed (k : Core) (r : BitVec 4) (v : Desc) : (k.wd r v).armed = k.armed := rfl
@[simp] theorem Core.wd_prog (k : Core) (r : BitVec 4) (v : Desc) : (k.wd r v).prog = k.prog := rfl
@[simp] theorem Core.wd_haltStatus (k : Core) (r : BitVec 4) (v : Desc) : (k.wd r v).haltStatus = k.haltStatus := rfl
@[simp] theorem Core.setSem_g (k : Core) (i : Fin 32) (v : BitVec 16) : (k.setSem i v).g = k.g := rfl
@[simp] theorem Core.setSem_p (k : Core) (i : Fin 32) (v : BitVec 16) : (k.setSem i v).p = k.p := rfl
@[simp] theorem Core.setSem_d (k : Core) (i : Fin 32) (v : BitVec 16) : (k.setSem i v).d = k.d := rfl
@[simp] theorem Core.setSem_sem (k : Core) (i : Fin 32) (v : BitVec 16) : (k.setSem i v).sem = k.sem.set i v := rfl
@[simp] theorem Core.setSem_ledge (k : Core) (i : Fin 32) (v : BitVec 16) : (k.setSem i v).ledge = k.ledge := rfl
@[simp] theorem Core.setSem_tiles (k : Core) (i : Fin 32) (v : BitVec 16) : (k.setSem i v).tiles = k.tiles := rfl
@[simp] theorem Core.setSem_spills (k : Core) (i : Fin 32) (v : BitVec 16) : (k.setSem i v).spills = k.spills := rfl
@[simp] theorem Core.setSem_wb (k : Core) (i : Fin 32) (v : BitVec 16) : (k.setSem i v).wb = k.wb := rfl
@[simp] theorem Core.setSem_vb (k : Core) (i : Fin 32) (v : BitVec 16) : (k.setSem i v).vb = k.vb := rfl
@[simp] theorem Core.setSem_cb (k : Core) (i : Fin 32) (v : BitVec 16) : (k.setSem i v).cb = k.cb := rfl
@[simp] theorem Core.setSem_queues (k : Core) (i : Fin 32) (v : BitVec 16) : (k.setSem i v).queues = k.queues := rfl
@[simp] theorem Core.setSem_iseq (k : Core) (i : Fin 32) (v : BitVec 16) : (k.setSem i v).iseq = k.iseq := rfl
@[simp] theorem Core.setSem_stall (k : Core) (i : Fin 32) (v : BitVec 16) : (k.setSem i v).stall = k.stall := rfl
@[simp] theorem Core.setSem_trapping (k : Core) (i : Fin 32) (v : BitVec 16) : (k.setSem i v).trapping = k.trapping := rfl
@[simp] theorem Core.setSem_run (k : Core) (i : Fin 32) (v : BitVec 16) : (k.setSem i v).run = k.run := rfl
@[simp] theorem Core.setSem_pc (k : Core) (i : Fin 32) (v : BitVec 16) : (k.setSem i v).pc = k.pc := rfl
@[simp] theorem Core.setSem_trapInfo (k : Core) (i : Fin 32) (v : BitVec 16) : (k.setSem i v).trapInfo = k.trapInfo := rfl
@[simp] theorem Core.setSem_trapPc (k : Core) (i : Fin 32) (v : BitVec 16) : (k.setSem i v).trapPc = k.trapPc := rfl
@[simp] theorem Core.setSem_trapSeq (k : Core) (i : Fin 32) (v : BitVec 16) : (k.setSem i v).trapSeq = k.trapSeq := rfl
@[simp] theorem Core.setSem_phase (k : Core) (i : Fin 32) (v : BitVec 16) : (k.setSem i v).phase = k.phase := rfl
@[simp] theorem Core.setSem_waitLimit (k : Core) (i : Fin 32) (v : BitVec 16) : (k.setSem i v).waitLimit = k.waitLimit := rfl
@[simp] theorem Core.setSem_flags (k : Core) (i : Fin 32) (v : BitVec 16) : (k.setSem i v).flags = k.flags := rfl
@[simp] theorem Core.setSem_nonfinPos (k : Core) (i : Fin 32) (v : BitVec 16) : (k.setSem i v).nonfinPos = k.nonfinPos := rfl
@[simp] theorem Core.setSem_fpctl (k : Core) (i : Fin 32) (v : BitVec 16) : (k.setSem i v).fpctl = k.fpctl := rfl
@[simp] theorem Core.setSem_fpq (k : Core) (i : Fin 32) (v : BitVec 16) : (k.setSem i v).fpq = k.fpq := rfl
@[simp] theorem Core.setSem_seed (k : Core) (i : Fin 32) (v : BitVec 16) : (k.setSem i v).seed = k.seed := rfl
@[simp] theorem Core.setSem_srStream (k : Core) (i : Fin 32) (v : BitVec 16) : (k.setSem i v).srStream = k.srStream := rfl
@[simp] theorem Core.setSem_qs (k : Core) (i : Fin 32) (v : BitVec 16) : (k.setSem i v).qs = k.qs := rfl
@[simp] theorem Core.setSem_accCtl (k : Core) (i : Fin 32) (v : BitVec 16) : (k.setSem i v).accCtl = k.accCtl := rfl
@[simp] theorem Core.setSem_vecLast (k : Core) (i : Fin 32) (v : BitVec 16) : (k.setSem i v).vecLast = k.vecLast := rfl
@[simp] theorem Core.setSem_chkResidue (k : Core) (i : Fin 32) (v : BitVec 16) : (k.setSem i v).chkResidue = k.chkResidue := rfl
@[simp] theorem Core.setSem_armed (k : Core) (i : Fin 32) (v : BitVec 16) : (k.setSem i v).armed = k.armed := rfl
@[simp] theorem Core.setSem_prog (k : Core) (i : Fin 32) (v : BitVec 16) : (k.setSem i v).prog = k.prog := rfl
@[simp] theorem Core.setSem_haltStatus (k : Core) (i : Fin 32) (v : BitVec 16) : (k.setSem i v).haltStatus = k.haltStatus := rfl
@[simp] theorem Core.setQueue_g (k : Core) (q : QueueId) (v : List QEntry) : (k.setQueue q v).g = k.g := rfl
@[simp] theorem Core.setQueue_p (k : Core) (q : QueueId) (v : List QEntry) : (k.setQueue q v).p = k.p := rfl
@[simp] theorem Core.setQueue_d (k : Core) (q : QueueId) (v : List QEntry) : (k.setQueue q v).d = k.d := rfl
@[simp] theorem Core.setQueue_sem (k : Core) (q : QueueId) (v : List QEntry) : (k.setQueue q v).sem = k.sem := rfl
@[simp] theorem Core.setQueue_ledge (k : Core) (q : QueueId) (v : List QEntry) : (k.setQueue q v).ledge = k.ledge := rfl
@[simp] theorem Core.setQueue_tiles (k : Core) (q : QueueId) (v : List QEntry) : (k.setQueue q v).tiles = k.tiles := rfl
@[simp] theorem Core.setQueue_spills (k : Core) (q : QueueId) (v : List QEntry) : (k.setQueue q v).spills = k.spills := rfl
@[simp] theorem Core.setQueue_wb (k : Core) (q : QueueId) (v : List QEntry) : (k.setQueue q v).wb = k.wb := rfl
@[simp] theorem Core.setQueue_vb (k : Core) (q : QueueId) (v : List QEntry) : (k.setQueue q v).vb = k.vb := rfl
@[simp] theorem Core.setQueue_cb (k : Core) (q : QueueId) (v : List QEntry) : (k.setQueue q v).cb = k.cb := rfl
@[simp] theorem Core.setQueue_queues (k : Core) (q : QueueId) (v : List QEntry) : (k.setQueue q v).queues = k.queues.set (qIdx q) v := rfl
@[simp] theorem Core.setQueue_iseq (k : Core) (q : QueueId) (v : List QEntry) : (k.setQueue q v).iseq = k.iseq := rfl
@[simp] theorem Core.setQueue_stall (k : Core) (q : QueueId) (v : List QEntry) : (k.setQueue q v).stall = k.stall := rfl
@[simp] theorem Core.setQueue_trapping (k : Core) (q : QueueId) (v : List QEntry) : (k.setQueue q v).trapping = k.trapping := rfl
@[simp] theorem Core.setQueue_run (k : Core) (q : QueueId) (v : List QEntry) : (k.setQueue q v).run = k.run := rfl
@[simp] theorem Core.setQueue_pc (k : Core) (q : QueueId) (v : List QEntry) : (k.setQueue q v).pc = k.pc := rfl
@[simp] theorem Core.setQueue_trapInfo (k : Core) (q : QueueId) (v : List QEntry) : (k.setQueue q v).trapInfo = k.trapInfo := rfl
@[simp] theorem Core.setQueue_trapPc (k : Core) (q : QueueId) (v : List QEntry) : (k.setQueue q v).trapPc = k.trapPc := rfl
@[simp] theorem Core.setQueue_trapSeq (k : Core) (q : QueueId) (v : List QEntry) : (k.setQueue q v).trapSeq = k.trapSeq := rfl
@[simp] theorem Core.setQueue_phase (k : Core) (q : QueueId) (v : List QEntry) : (k.setQueue q v).phase = k.phase := rfl
@[simp] theorem Core.setQueue_waitLimit (k : Core) (q : QueueId) (v : List QEntry) : (k.setQueue q v).waitLimit = k.waitLimit := rfl
@[simp] theorem Core.setQueue_flags (k : Core) (q : QueueId) (v : List QEntry) : (k.setQueue q v).flags = k.flags := rfl
@[simp] theorem Core.setQueue_nonfinPos (k : Core) (q : QueueId) (v : List QEntry) : (k.setQueue q v).nonfinPos = k.nonfinPos := rfl
@[simp] theorem Core.setQueue_fpctl (k : Core) (q : QueueId) (v : List QEntry) : (k.setQueue q v).fpctl = k.fpctl := rfl
@[simp] theorem Core.setQueue_fpq (k : Core) (q : QueueId) (v : List QEntry) : (k.setQueue q v).fpq = k.fpq := rfl
@[simp] theorem Core.setQueue_seed (k : Core) (q : QueueId) (v : List QEntry) : (k.setQueue q v).seed = k.seed := rfl
@[simp] theorem Core.setQueue_srStream (k : Core) (q : QueueId) (v : List QEntry) : (k.setQueue q v).srStream = k.srStream := rfl
@[simp] theorem Core.setQueue_qs (k : Core) (q : QueueId) (v : List QEntry) : (k.setQueue q v).qs = k.qs := rfl
@[simp] theorem Core.setQueue_accCtl (k : Core) (q : QueueId) (v : List QEntry) : (k.setQueue q v).accCtl = k.accCtl := rfl
@[simp] theorem Core.setQueue_vecLast (k : Core) (q : QueueId) (v : List QEntry) : (k.setQueue q v).vecLast = k.vecLast := rfl
@[simp] theorem Core.setQueue_chkResidue (k : Core) (q : QueueId) (v : List QEntry) : (k.setQueue q v).chkResidue = k.chkResidue := rfl
@[simp] theorem Core.setQueue_armed (k : Core) (q : QueueId) (v : List QEntry) : (k.setQueue q v).armed = k.armed := rfl
@[simp] theorem Core.setQueue_prog (k : Core) (q : QueueId) (v : List QEntry) : (k.setQueue q v).prog = k.prog := rfl
@[simp] theorem Core.setQueue_haltStatus (k : Core) (q : QueueId) (v : List QEntry) : (k.setQueue q v).haltStatus = k.haltStatus := rfl

@[simp] theorem Core.next_rg (k : Core) (r : BitVec 5) : k.next.rg r = k.rg r := rfl
@[simp] theorem Core.next_rp (k : Core) (r : BitVec 3) : k.next.rp r = k.rp r := rfl
@[simp] theorem Core.next_rd (k : Core) (r : BitVec 4) : k.next.rd r = k.rd r := rfl
@[simp] theorem Core.next_queue (k : Core) (q : QueueId) : k.next.queue q = k.queue q := rfl
@[simp] theorem Core.next_room (k : Core) (q : QueueId) : k.next.room q = k.room q := rfl
@[simp] theorem Core.next_job (k : Core) : k.next.job = k.job := rfl
@[simp] theorem Core.rg_zero (k : Core) : k.rg 0#5 = 0 := rfl
@[simp] theorem Core.rp_zero (k : Core) : k.rp 0#3 = true := rfl
@[simp] theorem Core.wg_zero (k : Core) (v : Word) : k.wg 0#5 v = k := rfl
@[simp] theorem Core.wp_zero (k : Core) (v : Bool) : k.wp 0#3 v = k := rfl

theorem Core.rg_wg_self (k : Core) (r : BitVec 5) (v : Word) (h : r ≠ 0) : (k.wg r v).rg r = v := by
  unfold Core.rg Core.wg; rw [if_neg h, if_neg h]; simp
theorem Core.rg_wg_ne (k : Core) (r q : BitVec 5) (v : Word) (h : q ≠ r) : (k.wg r v).rg q = k.rg q := by
  have h' : r.toNat ≠ q.toNat := fun e => h (BitVec.eq_of_toNat_eq e.symm)
  by_cases hr : r = 0
  · subst hr; rfl
  · unfold Core.rg Core.wg; rw [if_neg hr]; simp [h']
theorem Core.rp_wp_self (k : Core) (r : BitVec 3) (v : Bool) (h : r ≠ 0) : (k.wp r v).rp r = v := by
  unfold Core.rp Core.wp; rw [if_neg h, if_neg h]; simp
theorem Core.rp_wp_ne (k : Core) (r q : BitVec 3) (v : Bool) (h : q ≠ r) : (k.wp r v).rp q = k.rp q := by
  have h' : r.toNat ≠ q.toNat := fun e => h (BitVec.eq_of_toNat_eq e.symm)
  by_cases hr : r = 0
  · subst hr; rfl
  · unfold Core.rp Core.wp; rw [if_neg hr]; simp [h']

/-! ### One part of the control plane -/

@[simp] theorem State.mapColl_cores (s : State) (f : Coll → Coll) : (s.mapColl f).cores = s.cores := rfl
@[simp] theorem State.mapColl_mem (s : State) (f : Coll → Coll) : (s.mapColl f).mem = s.mem := rfl
@[simp] theorem State.mapColl_ctl (s : State) (f : Coll → Coll) : (s.mapColl f).ctl = { s.ctl with coll := f s.ctl.coll } := rfl
@[simp] theorem State.mapColl_snap (s : State) (f : Coll → Coll) : (s.mapColl f).snap = s.snap := rfl
@[simp] theorem State.mapColl_snapVer (s : State) (f : Coll → Coll) : (s.mapColl f).snapVer = s.snapVer := rfl
@[simp] theorem State.mapColl_prev (s : State) (f : Coll → Coll) : (s.mapColl f).prev = s.prev := rfl
@[simp] theorem State.mapColl_out (s : State) (f : Coll → Coll) : (s.mapColl f).out = s.out := rfl
@[simp] theorem State.mapColl_freeCtr (s : State) (f : Coll → Coll) : (s.mapColl f).freeCtr = s.freeCtr := rfl
@[simp] theorem State.mapColl_pending (s : State) (f : Coll → Coll) : (s.mapColl f).pending = s.pending := rfl
@[simp] theorem State.mapRel_cores (s : State) (f : Rel → Rel) : (s.mapRel f).cores = s.cores := rfl
@[simp] theorem State.mapRel_mem (s : State) (f : Rel → Rel) : (s.mapRel f).mem = s.mem := rfl
@[simp] theorem State.mapRel_ctl (s : State) (f : Rel → Rel) : (s.mapRel f).ctl = { s.ctl with rel := f s.ctl.rel } := rfl
@[simp] theorem State.mapRel_snap (s : State) (f : Rel → Rel) : (s.mapRel f).snap = s.snap := rfl
@[simp] theorem State.mapRel_snapVer (s : State) (f : Rel → Rel) : (s.mapRel f).snapVer = s.snapVer := rfl
@[simp] theorem State.mapRel_prev (s : State) (f : Rel → Rel) : (s.mapRel f).prev = s.prev := rfl
@[simp] theorem State.mapRel_out (s : State) (f : Rel → Rel) : (s.mapRel f).out = s.out := rfl
@[simp] theorem State.mapRel_freeCtr (s : State) (f : Rel → Rel) : (s.mapRel f).freeCtr = s.freeCtr := rfl
@[simp] theorem State.mapRel_pending (s : State) (f : Rel → Rel) : (s.mapRel f).pending = s.pending := rfl
@[simp] theorem State.mapSec_cores (s : State) (f : Sec → Sec) : (s.mapSec f).cores = s.cores := rfl
@[simp] theorem State.mapSec_mem (s : State) (f : Sec → Sec) : (s.mapSec f).mem = s.mem := rfl
@[simp] theorem State.mapSec_ctl (s : State) (f : Sec → Sec) : (s.mapSec f).ctl = { s.ctl with sec := f s.ctl.sec } := rfl
@[simp] theorem State.mapSec_snap (s : State) (f : Sec → Sec) : (s.mapSec f).snap = s.snap := rfl
@[simp] theorem State.mapSec_snapVer (s : State) (f : Sec → Sec) : (s.mapSec f).snapVer = s.snapVer := rfl
@[simp] theorem State.mapSec_prev (s : State) (f : Sec → Sec) : (s.mapSec f).prev = s.prev := rfl
@[simp] theorem State.mapSec_out (s : State) (f : Sec → Sec) : (s.mapSec f).out = s.out := rfl
@[simp] theorem State.mapSec_freeCtr (s : State) (f : Sec → Sec) : (s.mapSec f).freeCtr = s.freeCtr := rfl
@[simp] theorem State.mapSec_pending (s : State) (f : Sec → Sec) : (s.mapSec f).pending = s.pending := rfl
@[simp] theorem State.updPort_cores (s : State) (p : MPort) (f : Port → Port) : (s.updPort p f).cores = s.cores := rfl
@[simp] theorem State.updPort_mem (s : State) (p : MPort) (f : Port → Port) : (s.updPort p f).mem = s.mem := rfl
@[simp] theorem State.updPort_ctl (s : State) (p : MPort) (f : Port → Port) : (s.updPort p f).ctl = s.ctl.setPort p (f (s.ctl.port p)) := rfl
@[simp] theorem State.updPort_snap (s : State) (p : MPort) (f : Port → Port) : (s.updPort p f).snap = s.snap := rfl
@[simp] theorem State.updPort_snapVer (s : State) (p : MPort) (f : Port → Port) : (s.updPort p f).snapVer = s.snapVer := rfl
@[simp] theorem State.updPort_prev (s : State) (p : MPort) (f : Port → Port) : (s.updPort p f).prev = s.prev := rfl
@[simp] theorem State.updPort_out (s : State) (p : MPort) (f : Port → Port) : (s.updPort p f).out = s.out := rfl
@[simp] theorem State.updPort_freeCtr (s : State) (p : MPort) (f : Port → Port) : (s.updPort p f).freeCtr = s.freeCtr := rfl
@[simp] theorem State.updPort_pending (s : State) (p : MPort) (f : Port → Port) : (s.updPort p f).pending = s.pending := rfl
@[simp] theorem State.beginRecovery_cores (s : State)  : (s.beginRecovery).cores = s.cores := rfl
@[simp] theorem State.beginRecovery_mem (s : State)  : (s.beginRecovery).mem = s.mem := rfl
@[simp] theorem State.beginRecovery_ctl (s : State)  : (s.beginRecovery).ctl = { s.ctl with dev := { s.ctl.dev with recovery := true } } := rfl
@[simp] theorem State.beginRecovery_snap (s : State)  : (s.beginRecovery).snap = s.snap := rfl
@[simp] theorem State.beginRecovery_snapVer (s : State)  : (s.beginRecovery).snapVer = s.snapVer := rfl
@[simp] theorem State.beginRecovery_prev (s : State)  : (s.beginRecovery).prev = s.prev := rfl
@[simp] theorem State.beginRecovery_out (s : State)  : (s.beginRecovery).out = s.out := rfl
@[simp] theorem State.beginRecovery_freeCtr (s : State)  : (s.beginRecovery).freeCtr = s.freeCtr := rfl
@[simp] theorem State.beginRecovery_pending (s : State)  : (s.beginRecovery).pending = s.pending := rfl
@[simp] theorem Ctl.setPort_regs (c : Ctl) (p : MPort) (v : Port) : (c.setPort p v).regs = c.regs := rfl
@[simp] theorem Ctl.setPort_dev (c : Ctl) (p : MPort) (v : Port) : (c.setPort p v).dev = c.dev := rfl
@[simp] theorem Ctl.setPort_pins (c : Ctl) (p : MPort) (v : Port) : (c.setPort p v).pins = c.pins := rfl
@[simp] theorem Ctl.setPort_elo (c : Ctl) (p : MPort) (v : Port) : (c.setPort p v).elo = c.elo := rfl
@[simp] theorem Ctl.setPort_jnl (c : Ctl) (p : MPort) (v : Port) : (c.setPort p v).jnl = c.jnl := rfl
@[simp] theorem Ctl.setPort_txn (c : Ctl) (p : MPort) (v : Port) : (c.setPort p v).txn = c.txn := rfl
@[simp] theorem Ctl.setPort_links (c : Ctl) (p : MPort) (v : Port) : (c.setPort p v).links = { c.links with ports := c.links.ports.set p v } := rfl
@[simp] theorem Ctl.setPort_coll (c : Ctl) (p : MPort) (v : Port) : (c.setPort p v).coll = c.coll := rfl
@[simp] theorem Ctl.setPort_pow (c : Ctl) (p : MPort) (v : Port) : (c.setPort p v).pow = c.pow := rfl
@[simp] theorem Ctl.setPort_rel (c : Ctl) (p : MPort) (v : Port) : (c.setPort p v).rel = c.rel := rfl
@[simp] theorem Ctl.setPort_sec (c : Ctl) (p : MPort) (v : Port) : (c.setPort p v).sec = c.sec := rfl
@[simp] theorem Ctl.setPort_book (c : Ctl) (p : MPort) (v : Port) : (c.setPort p v).book = c.book := rfl
@[simp] theorem Ctl.setPort_mgmt (c : Ctl) (p : MPort) (v : Port) : (c.setPort p v).mgmt = c.mgmt := rfl
@[simp] theorem Ctl.setPort_bad (c : Ctl) (p : MPort) (v : Port) : (c.setPort p v).bad = c.bad := rfl
@[simp] theorem Ctl.setPort_flows (c : Ctl) (p : MPort) (v : Port) : (c.setPort p v).flows = c.flows := rfl

@[simp] theorem Ctl.port_setPort (c : Ctl) (p : MPort) (v : Port) : (c.setPort p v).port p = v := by
  simp [Ctl.port, Ctl.setPort]
theorem Ctl.port_setPort_ne (c : Ctl) (p q : MPort) (v : Port) (h : q ≠ p) : (c.setPort p v).port q = c.port q := by
  have h' : (p : Nat) ≠ q := fun e => h (Fin.ext e.symm)
  simp [Ctl.port, Ctl.setPort, h']

@[simp] theorem State.updOp_cores (s : State) (k : OpKey) (f : GroupOp → GroupOp) : (s.updOp k f).cores = s.cores := rfl
@[simp] theorem State.updOp_mem (s : State) (k : OpKey) (f : GroupOp → GroupOp) : (s.updOp k f).mem = s.mem := rfl
@[simp] theorem State.updOp_snap (s : State) (k : OpKey) (f : GroupOp → GroupOp) : (s.updOp k f).snap = s.snap := rfl
@[simp] theorem State.updOp_snapVer (s : State) (k : OpKey) (f : GroupOp → GroupOp) : (s.updOp k f).snapVer = s.snapVer := rfl
@[simp] theorem State.updOp_prev (s : State) (k : OpKey) (f : GroupOp → GroupOp) : (s.updOp k f).prev = s.prev := rfl
@[simp] theorem State.updOp_out (s : State) (k : OpKey) (f : GroupOp → GroupOp) : (s.updOp k f).out = s.out := rfl
@[simp] theorem State.updOp_freeCtr (s : State) (k : OpKey) (f : GroupOp → GroupOp) : (s.updOp k f).freeCtr = s.freeCtr := rfl
@[simp] theorem State.updOp_pending (s : State) (k : OpKey) (f : GroupOp → GroupOp) : (s.updOp k f).pending = s.pending := rfl
@[simp] theorem State.updOp_ops (s : State) (k : OpKey) (f : GroupOp → GroupOp) :
    (s.updOp k f).ctl.coll.ops = s.ctl.coll.ops.map fun o => if o.key = k then f o else o := rfl
@[simp] theorem State.updOp_early (s : State) (k : OpKey) (f : GroupOp → GroupOp) : (s.updOp k f).ctl.coll.early = s.ctl.coll.early := rfl
@[simp] theorem State.updOp_past (s : State) (k : OpKey) (f : GroupOp → GroupOp) : (s.updOp k f).ctl.coll.past = s.ctl.coll.past := rfl
@[simp] theorem Coll.setEarly_ops (x : Coll) (e : EarlyOp) : (x.setEarly e).ops = x.ops := rfl
@[simp] theorem Coll.setEarly_past (x : Coll) (e : EarlyOp) : (x.setEarly e).past = x.past := rfl
@[simp] theorem Coll.setEarly_early (x : Coll) (e : EarlyOp) :
    (x.setEarly e).early = e :: x.early.filter fun y => y.key ≠ e.key := rfl
@[simp] theorem GroupOp.wrote_key (o : GroupOp) (origin first n sat : Nat) : (o.wrote origin first n sat).key = o.key := rfl
@[simp] theorem GroupOp.wrote_spans (o : GroupOp) (origin first n sat : Nat) : (o.wrote origin first n sat).spans = o.spans := rfl
@[simp] theorem GroupOp.wrote_leaving (o : GroupOp) (origin first n sat : Nat) : (o.wrote origin first n sat).leaving = o.leaving := rfl
@[simp] theorem GroupOp.wrote_told (o : GroupOp) (origin first n sat : Nat) : (o.wrote origin first n sat).told = o.told := rfl

/-! ### Device memory -/

@[simp] theorem State.wrote_cores (s : State) (rs : List (Nat × Nat)) : (s.wrote rs).cores = s.cores := rfl
@[simp] theorem State.wrote_snap (s : State) (rs : List (Nat × Nat)) : (s.wrote rs).snap = s.snap := rfl
@[simp] theorem State.wrote_snapVer (s : State) (rs : List (Nat × Nat)) : (s.wrote rs).snapVer = s.snapVer := rfl
@[simp] theorem State.wrote_prev (s : State) (rs : List (Nat × Nat)) : (s.wrote rs).prev = s.prev := rfl
@[simp] theorem State.wrote_out (s : State) (rs : List (Nat × Nat)) : (s.wrote rs).out = s.out := rfl
@[simp] theorem State.wrote_freeCtr (s : State) (rs : List (Nat × Nat)) : (s.wrote rs).freeCtr = s.freeCtr := rfl
@[simp] theorem State.wrote_pending (s : State) (rs : List (Nat × Nat)) : (s.wrote rs).pending = s.pending := rfl
@[simp] theorem State.store_cores (s : State) (m : Memory) (rs : List (Nat × Nat)) : (s.store m rs).cores = s.cores := rfl
@[simp] theorem State.store_snap (s : State) (m : Memory) (rs : List (Nat × Nat)) : (s.store m rs).snap = s.snap := rfl
@[simp] theorem State.store_snapVer (s : State) (m : Memory) (rs : List (Nat × Nat)) : (s.store m rs).snapVer = s.snapVer := rfl
@[simp] theorem State.store_prev (s : State) (m : Memory) (rs : List (Nat × Nat)) : (s.store m rs).prev = s.prev := rfl
@[simp] theorem State.store_out (s : State) (m : Memory) (rs : List (Nat × Nat)) : (s.store m rs).out = s.out := rfl
@[simp] theorem State.store_freeCtr (s : State) (m : Memory) (rs : List (Nat × Nat)) : (s.store m rs).freeCtr = s.freeCtr := rfl
@[simp] theorem State.store_pending (s : State) (m : Memory) (rs : List (Nat × Nat)) : (s.store m rs).pending = s.pending := rfl
@[simp] theorem State.wrote_ctl_regs (s : State) (rs : List (Nat × Nat)) : (s.wrote rs).ctl.regs = s.ctl.regs := rfl
@[simp] theorem State.store_ctl_regs (s : State) (m : Memory) (rs : List (Nat × Nat)) : (s.store m rs).ctl.regs = s.ctl.regs := rfl
@[simp] theorem State.wrote_ctl_dev (s : State) (rs : List (Nat × Nat)) : (s.wrote rs).ctl.dev = s.ctl.dev := rfl
@[simp] theorem State.store_ctl_dev (s : State) (m : Memory) (rs : List (Nat × Nat)) : (s.store m rs).ctl.dev = s.ctl.dev := rfl
@[simp] theorem State.wrote_ctl_pins (s : State) (rs : List (Nat × Nat)) : (s.wrote rs).ctl.pins = s.ctl.pins := rfl
@[simp] theorem State.store_ctl_pins (s : State) (m : Memory) (rs : List (Nat × Nat)) : (s.store m rs).ctl.pins = s.ctl.pins := rfl
@[simp] theorem State.wrote_ctl_elo (s : State) (rs : List (Nat × Nat)) : (s.wrote rs).ctl.elo = s.ctl.elo := rfl
@[simp] theorem State.store_ctl_elo (s : State) (m : Memory) (rs : List (Nat × Nat)) : (s.store m rs).ctl.elo = s.ctl.elo := rfl
@[simp] theorem State.wrote_ctl_jnl (s : State) (rs : List (Nat × Nat)) : (s.wrote rs).ctl.jnl = s.ctl.jnl := rfl
@[simp] theorem State.store_ctl_jnl (s : State) (m : Memory) (rs : List (Nat × Nat)) : (s.store m rs).ctl.jnl = s.ctl.jnl := rfl
@[simp] theorem State.wrote_ctl_txn (s : State) (rs : List (Nat × Nat)) : (s.wrote rs).ctl.txn = s.ctl.txn := rfl
@[simp] theorem State.store_ctl_txn (s : State) (m : Memory) (rs : List (Nat × Nat)) : (s.store m rs).ctl.txn = s.ctl.txn := rfl
@[simp] theorem State.wrote_ctl_links (s : State) (rs : List (Nat × Nat)) : (s.wrote rs).ctl.links = s.ctl.links := rfl
@[simp] theorem State.store_ctl_links (s : State) (m : Memory) (rs : List (Nat × Nat)) : (s.store m rs).ctl.links = s.ctl.links := rfl
@[simp] theorem State.wrote_ctl_coll (s : State) (rs : List (Nat × Nat)) : (s.wrote rs).ctl.coll = s.ctl.coll := rfl
@[simp] theorem State.store_ctl_coll (s : State) (m : Memory) (rs : List (Nat × Nat)) : (s.store m rs).ctl.coll = s.ctl.coll := rfl
@[simp] theorem State.wrote_ctl_pow (s : State) (rs : List (Nat × Nat)) : (s.wrote rs).ctl.pow = s.ctl.pow := rfl
@[simp] theorem State.store_ctl_pow (s : State) (m : Memory) (rs : List (Nat × Nat)) : (s.store m rs).ctl.pow = s.ctl.pow := rfl
@[simp] theorem State.wrote_ctl_rel (s : State) (rs : List (Nat × Nat)) : (s.wrote rs).ctl.rel = s.ctl.rel := rfl
@[simp] theorem State.store_ctl_rel (s : State) (m : Memory) (rs : List (Nat × Nat)) : (s.store m rs).ctl.rel = s.ctl.rel := rfl
@[simp] theorem State.wrote_ctl_sec (s : State) (rs : List (Nat × Nat)) : (s.wrote rs).ctl.sec = s.ctl.sec := rfl
@[simp] theorem State.store_ctl_sec (s : State) (m : Memory) (rs : List (Nat × Nat)) : (s.store m rs).ctl.sec = s.ctl.sec := rfl
@[simp] theorem State.wrote_ctl_book (s : State) (rs : List (Nat × Nat)) : (s.wrote rs).ctl.book = s.ctl.book := rfl
@[simp] theorem State.store_ctl_book (s : State) (m : Memory) (rs : List (Nat × Nat)) : (s.store m rs).ctl.book = s.ctl.book := rfl
@[simp] theorem State.wrote_ctl_mgmt (s : State) (rs : List (Nat × Nat)) : (s.wrote rs).ctl.mgmt = s.ctl.mgmt := rfl
@[simp] theorem State.store_ctl_mgmt (s : State) (m : Memory) (rs : List (Nat × Nat)) : (s.store m rs).ctl.mgmt = s.ctl.mgmt := rfl
@[simp] theorem State.wrote_ctl_bad (s : State) (rs : List (Nat × Nat)) : (s.wrote rs).ctl.bad = s.ctl.bad.filter fun w => !wordIn rs w := rfl
@[simp] theorem State.store_ctl_bad (s : State) (m : Memory) (rs : List (Nat × Nat)) : (s.store m rs).ctl.bad = s.ctl.bad.filter fun w => !wordIn rs w := rfl
@[simp] theorem State.wrote_ctl_flows (s : State) (rs : List (Nat × Nat)) : (s.wrote rs).ctl.flows = s.ctl.flows := rfl
@[simp] theorem State.store_ctl_flows (s : State) (m : Memory) (rs : List (Nat × Nat)) : (s.store m rs).ctl.flows = s.ctl.flows := rfl

/-- A write that touches no anchored page leaves memory as the operation left it. -/
theorem State.store_mem_of_no_copies (s : State) (m : Memory) (rs : List (Nat × Nat)) (h : rs.flatMap s.ctl.copiesOf = []) :
    (s.store m rs).mem = m := by
  simp [State.store, State.wrote, h]

/-- A word that a write covers is not bad after it (R287, R289, R301). -/
theorem State.store_not_bad (s : State) (m : Memory) (rs : List (Nat × Nat)) (w : Nat) (h : wordIn rs w = true) :
    w ∉ (s.store m rs).ctl.bad := by
  simp [h]

/-- A word that a write does not cover keeps its parity. -/
theorem State.store_keeps_bad (s : State) (m : Memory) (rs : List (Nat × Nat)) (w : Nat) (h : wordIn rs w = false) :
    w ∈ (s.store m rs).ctl.bad ↔ w ∈ s.ctl.bad := by
  simp [h]

/-- Marking a word marks it, in HBM its page with it, and no other. -/
theorem State.markBad_mem (s : State) (a : BitVec 48) (w : Nat) :
    w ∈ (s.markBad a).ctl.bad ↔ w ∈ badWith a ∨ w ∈ s.ctl.bad := by
  rw [State.markBad, State.mapCtl_ctl]
  simp only [List.mem_append, List.mem_filter, Bool.not_eq_true', List.contains_eq_mem, decide_eq_false_iff_not]
  exact ⟨fun h => h.imp And.left id, fun h => h.elim (fun h => if k : w ∈ s.ctl.bad then .inr k else .inl ⟨h, k⟩) .inr⟩

/-- A ledge word that a write covers is not bad after it; the others keep their parity. -/
theorem Core.mem_wroteLedge_badLedge (k : Core) (rs : List (Nat × Nat)) (w : Nat) :
    w ∈ (k.wroteLedge rs).badLedge ↔ w ∈ k.badLedge ∧ wordIn rs w = false := by
  simp [Core.wroteLedge, List.mem_filter]

/-- With no bad ledge word no read meets one. -/
@[simp] theorem Core.badLedgeObs_of_none (k : Core) (rs : List (Nat × Nat)) (h : k.badLedge = []) : k.badLedgeObs rs = [] := by
  simp [Core.badLedgeObs, Core.badLedgeIn, h]

/-- With no bad ledge word a write changes none. -/
@[simp] theorem Core.wroteLedge_of_none (k : Core) (rs : List (Nat × Nat)) (h : k.badLedge = []) : k.wroteLedge rs = k := by
  cases k; simp_all [Core.wroteLedge]

end Sys2Proof.Machine
end

