-- ==== Sys2Proof/Laws/Issue.lean ====
section
/-! SUPPORT. Everything that issue of a Gybel instruction can do, case by case: nothing on a core that cannot issue, a trap
outside TEXT or on a reserved field, a skip on a false predicate, else the instruction's own action. -/
namespace Sys2Proof.Machine

/-- A core that cannot issue: the command changes nothing (log 3). -/
theorem State.issue_idle {s : State} {c : CoreId} {w : GWord} {legal : Bool} {act : Core → Except TrapC State}
    (h : (s.core c).canIssue = false) : s.issue c w legal act = s := by
  simp [State.issue, h]

/-- A fetch outside TEXT traps. -/
theorem State.issue_outside {s : State} {c : CoreId} {w : GWord} {legal : Bool} {act : Core → Except TrapC State}
    (h : (s.core c).canIssue = true) (ht : (s.core c).inText = false) :
    s.issue c w legal act = s.trapIssue c (dataTrap 0xD) := by
  simp [State.issue, h, ht]

/-- A reserved field traps, whatever the predicate. -/
theorem State.issue_illegal {s : State} {c : CoreId} {w : GWord} {legal : Bool} {act : Core → Except TrapC State}
    (h : (s.core c).canIssue = true) (ht : (s.core c).inText = true) (hl : legal = false) :
    s.issue c w legal act = s.trapIssue c illegal := by
  simp [State.issue, h, ht, hl]

/-- A false predicate: only ISEQ and the program counter advance. -/
theorem State.issue_skip {s : State} {c : CoreId} {w : GWord} {legal : Bool} {act : Core → Except TrapC State}
    (h : (s.core c).canIssue = true) (ht : (s.core c).inText = true) (hl : legal = true)
    (hp : (s.core c).passes w = false) : s.issue c w legal act = s.setCore c (s.core c).next := by
  simp [State.issue, h, ht, hl, hp]

/-- The instruction acts. -/
theorem State.issue_acts {s : State} {c : CoreId} {w : GWord} {legal : Bool} {act : Core → Except TrapC State} {t : State}
    (h : (s.core c).canIssue = true) (ht : (s.core c).inText = true) (hl : legal = true)
    (hp : (s.core c).passes w = true) (ha : act (s.core c).next = .ok t) : s.issue c w legal act = t := by
  simp [State.issue, h, ht, hl, hp, ha]

/-- The instruction traps. -/
theorem State.issue_traps {s : State} {c : CoreId} {w : GWord} {legal : Bool} {act : Core → Except TrapC State} {t : TrapC}
    (h : (s.core c).canIssue = true) (ht : (s.core c).inText = true) (hl : legal = true)
    (hp : (s.core c).passes w = true) (ha : act (s.core c).next = .error t) : s.issue c w legal act = s.trapIssue c t := by
  simp [State.issue, h, ht, hl, hp, ha]

theorem State.issueCore_acts {s : State} {c : CoreId} {w : GWord} {legal : Bool} {act : Core → Except TrapC Core} {k : Core}
    (h : (s.core c).canIssue = true) (ht : (s.core c).inText = true) (hs : scalarSig w = true) (hl : legal = true)
    (hp : (s.core c).passes w = true) (ha : act (s.core c).next = .ok k) : s.issueCore c w legal act = s.setCore c k := by
  unfold State.issueCore
  exact State.issue_acts h ht (by simp [hs, hl]) hp (by simp [ha, Except.map])

theorem State.issueCore_traps {s : State} {c : CoreId} {w : GWord} {legal : Bool} {act : Core → Except TrapC Core} {t : TrapC}
    (h : (s.core c).canIssue = true) (ht : (s.core c).inText = true) (hs : scalarSig w = true) (hl : legal = true)
    (hp : (s.core c).passes w = true) (ha : act (s.core c).next = .error t) : s.issueCore c w legal act = s.trapIssue c t := by
  unfold State.issueCore
  exact State.issue_traps h ht (by simp [hs, hl]) hp (by simp [ha, Except.map])

/-- Every outcome of issue in one statement. -/
theorem State.issue_cases (s : State) (c : CoreId) (w : GWord) (legal : Bool) (act : Core → Except TrapC State) :
    s.issue c w legal act = s ∨ s.issue c w legal act = s.setCore c (s.core c).next ∨
    (∃ t, s.issue c w legal act = s.trapIssue c t) ∨ (∃ t, act (s.core c).next = .ok t ∧ s.issue c w legal act = t) := by
  cases h : (s.core c).canIssue
  · exact .inl (issue_idle h)
  cases ht : (s.core c).inText
  · exact .inr (.inr (.inl ⟨_, issue_outside h ht⟩))
  cases hl : legal
  · exact .inr (.inr (.inl ⟨_, issue_illegal h ht rfl⟩))
  cases hp : (s.core c).passes w
  · exact .inr (.inl (issue_skip h ht rfl hp))
  cases ha : act (s.core c).next with
  | ok t => exact .inr (.inr (.inr ⟨t, rfl, issue_acts h ht rfl hp ha⟩))
  | error t => exact .inr (.inr (.inl ⟨t, issue_traps h ht rfl hp ha⟩))

/-- An instruction enters its queue at the tail, with everything it reads copied. -/
theorem State.enqueueOne_acts {s : State} {c : CoreId} {w : GWord} {legal : Bool} {q : QueueId} {op : QOp}
    (h : (s.core c).canIssue = true) (ht : (s.core c).inText = true) (hs : queuedSig w = true) (hl : legal = true)
    (hp : (s.core c).passes w = true) (hr : (s.core c).room q = true) :
    s.enqueueOne c w legal q op = s.setCore c ((s.core c).next.push q ((s.core c).next.entry op (s.core c).pc w)) := by
  unfold State.enqueueOne State.enqueue
  refine State.issue_acts h ht (by simp [hs, hl]) hp ?_
  simp [hr, Core.entry, pure, Except.pure, bind, Except.bind]

/-- While a queue is full nothing is issued. -/
theorem State.enqueueOne_full {s : State} {c : CoreId} {w : GWord} {legal : Bool} {q : QueueId} {op : QOp}
    (h : (s.core c).canIssue = true) (ht : (s.core c).inText = true) (hs : queuedSig w = true) (hl : legal = true)
    (hp : (s.core c).passes w = true) (hr : (s.core c).room q = false) : s.enqueueOne c w legal q op = s := by
  unfold State.enqueueOne State.enqueue
  refine State.issue_acts h ht (by simp [hs, hl]) hp ?_
  simp [hr, pure, Except.pure]

end Sys2Proof.Machine
end

