-- ==== Sys2Proof/Laws/Memory.lean ====
section
/-! SUPPORT. Sparse maps and memory: a read after a write, and every operation keeps the canonical form. -/
namespace Sys2Proof.Machine

namespace KMap
variable {α : Type}

/-- No key of the map is k. -/
def lacks (m : KMap α) (k : Nat) : Prop := ∀ e ∈ m, e.1 ≠ k

theorem get_lacks (d : α) (m : KMap α) (k : Nat) (h : lacks m k) : get d m k = d := by
  induction m with
  | nil => rfl
  | cons e t ih =>
    obtain ⟨a, v⟩ := e
    have h1 : a ≠ k := h (a, v) (by simp)
    simp only [get, h1, if_false]
    exact ih fun e he => h e (by simp [he])

theorem get_filter (d : α) (m : KMap α) (p : Nat → Bool) (k : Nat) :
    get d (m.filter fun e => p e.1) k = if p k then get d m k else d := by
  induction m with
  | nil => simp [get]
  | cons e t ih =>
    obtain ⟨a, v⟩ := e
    by_cases hp : p a = true
    · simp only [List.filter, hp, get]
      by_cases hk : a = k
      · subst hk; simp [hp]
      · simp [hk, ih]
    · simp only [List.filter, hp, get]
      by_cases hk : a = k
      · subst hk; simp [hp, ih]
      · simp [hk, ih]

theorem get_insertKey (d : α) (m : KMap α) (k : Nat) (v : α) (h : lacks m k) (j : Nat) :
    get d (insertKey k v m) j = if j = k then v else get d m j := by
  induction m with
  | nil => simp [insertKey, get, eq_comm]
  | cons e t ih =>
    obtain ⟨a, x⟩ := e
    have ht : lacks t k := fun e he => h e (by simp [he])
    have ha : a ≠ k := h (a, x) (by simp)
    simp only [insertKey]
    split
    · by_cases hj : j = k
      · simp [get, hj]
      · simp [get, hj, Ne.symm hj]
    · simp only [get]
      by_cases hj : a = j
      · subst hj; simp [ha]
      · simp [hj, ih ht]

theorem lacks_filter (m : KMap α) (k : Nat) : lacks (m.filter fun e => e.1 ≠ k) k := by
  intro e he
  simpa using (List.mem_filter.mp he).2

/-- A read after a write: the value at the key written, and every other key as before. -/
theorem get_set [DecidableEq α] (d : α) (m : KMap α) (k : Nat) (v : α) (j : Nat) :
    get d (set d m k v) j = if j = k then v else get d m j := by
  have hf : get d (m.filter fun e => e.1 ≠ k) j = if j = k then d else get d m j := by
    have := get_filter d m (fun a => decide (a ≠ k)) j
    simp only [decide_eq_true_eq] at this
    rw [this]
    by_cases hj : j = k <;> simp [hj]
  unfold set
  simp only
  split
  · next hv => rw [hf]; split <;> simp [hv]
  · rw [get_insertKey d _ k v (lacks_filter m k), hf]
    split <;> rfl

/-! ### The canonical form -/

theorem rising_le {lo lo' : Nat} {m : KMap α} (h : rising lo' m = true) (hl : lo ≤ lo') : rising lo m = true := by
  cases m with
  | nil => rfl
  | cons e t =>
    simp only [rising, Bool.and_eq_true, decide_eq_true_eq] at h ⊢
    exact ⟨by omega, h.2⟩

theorem rising_filter (p : Nat × α → Bool) (m : KMap α) : ∀ lo, rising lo m = true → rising lo (m.filter p) = true := by
  induction m with
  | nil => intro lo _; rfl
  | cons e t ih =>
    intro lo h
    simp only [rising, Bool.and_eq_true, decide_eq_true_eq] at h
    simp only [List.filter]
    split
    · simp only [rising, Bool.and_eq_true, decide_eq_true_eq]; exact ⟨h.1, ih _ h.2⟩
    · exact rising_le (ih _ h.2) (by omega)

theorem rising_insertKey (k : Nat) (v : α) (m : KMap α) (h : lacks m k) :
    ∀ lo, lo ≤ k → rising lo m = true → rising lo (insertKey k v m) = true := by
  induction m with
  | nil => intro lo hl _; simp [insertKey, rising, hl]
  | cons e t ih =>
    obtain ⟨a, x⟩ := e
    intro lo hl hr
    have ha : a ≠ k := h (a, x) (by simp)
    simp only [rising, Bool.and_eq_true, decide_eq_true_eq] at hr
    simp only [insertKey]
    split
    · simp only [rising, Bool.and_eq_true, decide_eq_true_eq]; exact ⟨hl, by omega, hr.2⟩
    · simp only [rising, Bool.and_eq_true, decide_eq_true_eq]
      exact ⟨hr.1, ih (fun e he => h e (by simp [he])) _ (by omega) hr.2⟩

theorem mem_insertKey (k : Nat) (v : α) (m : KMap α) : ∀ e, e ∈ insertKey k v m → e = (k, v) ∨ e ∈ m := by
  induction m with
  | nil => intro e h; simpa [insertKey] using h
  | cons x t ih =>
    intro e h
    simp only [insertKey] at h
    split at h
    · simpa using h
    · simp only [List.mem_cons] at h ⊢
      rcases h with h | h
      · exact .inr (.inl h)
      · rcases ih e h with h | h
        · exact .inl h
        · exact .inr (.inr h)

/-- A write keeps the canonical form. -/
theorem wf_set [DecidableEq α] (d : α) (m : KMap α) (k : Nat) (v : α) (h : wf d m = true) : wf d (set d m k v) = true := by
  simp only [wf, Bool.and_eq_true, List.all_eq_true, decide_eq_true_eq, set] at h ⊢
  have hf : ∀ e ∈ m.filter (fun e => decide (e.1 ≠ k)), e.2 ≠ d := fun e he => h.2 e (List.mem_filter.mp he).1
  split
  · exact ⟨rising_filter _ m 0 h.1, hf⟩
  · next hv =>
    refine ⟨rising_insertKey k v _ (lacks_filter m k) 0 (by omega) (rising_filter _ m 0 h.1), ?_⟩
    intro e he
    rcases mem_insertKey k v _ e he with rfl | he
    · exact hv
    · exact hf e he

theorem wf_setMany [DecidableEq α] (d : α) (vs : List α) : ∀ (m : KMap α) (k : Nat), wf d m = true → wf d (setMany d m k vs) = true := by
  induction vs with
  | nil => intro m k h; exact h
  | cons v vs ih => intro m k h; exact ih _ _ (wf_set d m k v h)

theorem wf_filter [DecidableEq α] (d : α) (p : Nat × α → Bool) (m : KMap α) (h : wf d m = true) : wf d (m.filter p) = true := by
  simp only [wf, Bool.and_eq_true, List.all_eq_true, decide_eq_true_eq] at h ⊢
  exact ⟨rising_filter _ m 0 h.1, fun e he => h.2 e (List.mem_filter.mp he).1⟩

/-- A read after a write of several consecutive keys. -/
theorem get_setMany [DecidableEq α] (d : α) (vs : List α) : ∀ (m : KMap α) (k j : Nat),
    get d (setMany d m k vs) j = if k ≤ j ∧ j < k + vs.length then vs.getD (j - k) d else get d m j := by
  induction vs with
  | nil => intro m k j; simp only [setMany, List.length_nil]; rw [if_neg (by omega)]
  | cons v vs ih =>
    intro m k j
    simp only [setMany, ih, get_set, List.length_cons]
    by_cases h1 : j = k
    · subst h1
      have h : ¬ (j + 1 ≤ j ∧ j < j + 1 + vs.length) := by omega
      have h' : j ≤ j ∧ j < j + (vs.length + 1) := by omega
      rw [if_neg h, if_pos h']; simp
    · by_cases h2 : k + 1 ≤ j ∧ j < k + 1 + vs.length
      · have h3 : k ≤ j ∧ j < k + (vs.length + 1) := by omega
        have h4 : j - k = (j - (k + 1)) + 1 := by omega
        rw [if_pos h2, if_pos h3, h4, List.getD_cons_succ]
      · have h3 : ¬ (k ≤ j ∧ j < k + (vs.length + 1)) := by omega
        rw [if_neg h2, if_neg h3, if_neg h1]

/-- Canonical data is canonical after pairs of new keys have been added, one by one. -/
theorem wf_foldl_insertKey [DecidableEq α] (d : α) (g : Nat → Nat) (es : List (Nat × α)) : ∀ m : KMap α, wf d m = true →
    (∀ e ∈ es, e.2 ≠ d) → (∀ e ∈ es, lacks m (g e.1)) → (es.map fun e => g e.1).Nodup →
    wf d (es.foldl (fun x e => insertKey (g e.1) e.2 x) m) = true := by
  induction es with
  | nil => intro m h _ _ _; exact h
  | cons e es ih =>
    intro m h hv hl hn
    simp only [List.map_cons, List.nodup_cons, List.mem_map, not_exists, not_and] at hn
    simp only [wf, Bool.and_eq_true, List.all_eq_true, decide_eq_true_eq] at h
    refine ih _ ?_ (fun x hx => hv x (by simp [hx])) ?_ hn.2
    · simp only [wf, Bool.and_eq_true, List.all_eq_true, decide_eq_true_eq]
      refine ⟨rising_insertKey _ _ _ (hl e (by simp)) 0 (by omega) h.1, fun x hx => ?_⟩
      rcases mem_insertKey _ _ _ x hx with rfl | hx
      · exact hv e (by simp)
      · exact h.2 x hx
    · intro x hx y hy
      rcases mem_insertKey _ _ _ y hy with rfl | hy
      · exact fun he => hn.1 x hx he.symm
      · exact hl x (by simp [hx]) y hy

/-- The keys of canonical data differ. -/
theorem rising_keys (m : KMap α) : ∀ lo, rising lo m = true → (∀ e ∈ m, lo ≤ e.1) ∧ (m.map Prod.fst).Nodup := by
  induction m with
  | nil => intro lo _; simp
  | cons e t ih =>
    intro lo h
    simp only [rising, Bool.and_eq_true, decide_eq_true_eq] at h
    obtain ⟨h1, h2⟩ := ih _ h.2
    refine ⟨fun x hx => ?_, ?_⟩
    · rcases List.mem_cons.mp hx with rfl | hx
      · exact h.1
      · have := h1 x hx; omega
    · simp only [List.map_cons, List.nodup_cons, List.mem_map, not_exists, not_and]
      exact ⟨fun x hx he => by have := h1 x hx; omega, h2⟩

end KMap

namespace Memory

@[simp] theorem wf_nil : Memory.wf [] = true := rfl

theorem read8_write8 (m : Memory) (a : Nat) (b : Byte) (x : Nat) :
    (m.write8 a b).read8 x = if x = a then b else m.read8 x := KMap.get_set 0 m a b x

/-- A byte after a write of several bytes. -/
theorem read8_writeBytes (m : Memory) (a : Nat) (bs : List Byte) (x : Nat) :
    (m.writeBytes a bs).read8 x = if a ≤ x ∧ x < a + bs.length then bs.getD (x - a) 0 else m.read8 x :=
  KMap.get_setMany 0 bs m a x

/-- Bytes read where they were just written are the bytes written. -/
theorem readBytes_writeBytes (m : Memory) (a n : Nat) (bs : List Byte) (hn : bs.length = n) :
    (m.writeBytes a bs).readBytes a n = bs := by
  subst hn
  refine List.ext_getElem (by simp [readBytes, KMap.getMany]) fun i h _ => ?_
  have := read8_writeBytes m a bs (a + i)
  simp [readBytes, KMap.getMany] at h ⊢
  simpa [read8, h] using this

theorem wf_write8 {m : Memory} (a : Nat) (b : Byte) (h : m.wf = true) : (m.write8 a b).wf = true := KMap.wf_set _ _ _ _ h
theorem wf_writeBytes {m : Memory} (a : Nat) (bs : List Byte) (h : m.wf = true) : (m.writeBytes a bs).wf = true :=
  KMap.wf_setMany _ _ _ _ h
theorem wf_writeLe {m : Memory} (a n v : Nat) (h : m.wf = true) : (m.writeLe a n v).wf = true := wf_writeBytes _ _ h
theorem wf_zeroFill {m : Memory} (a n : Nat) (h : m.wf = true) : (m.zeroFill a n).wf = true := KMap.wf_filter _ _ _ h

theorem wf_addCounter {m : Memory} (k : Option Nat) (inc : Nat) (h : m.wf = true) : (addCounter m k inc).wf = true := by
  unfold addCounter
  split
  · exact h
  · exact wf_writeLe _ _ _ h

/-- Copying pages to others keeps the canonical form (R300). -/
theorem wf_copyPages {m : Memory} (pick : Nat → Bool) (src dst n : Nat) (h : m.wf = true) : (m.copyPages pick src dst n).wf = true := by
  have hm := h
  simp only [wf, KMap.wf, Bool.and_eq_true, List.all_eq_true, decide_eq_true_eq] at hm
  obtain ⟨_, hnd⟩ := KMap.rising_keys _ 0 hm.1
  unfold copyPages
  dsimp only
  refine KMap.wf_foldl_insertKey (0 : Byte) (fun a => a - src * 4096 + dst * 4096) _ _ (KMap.wf_filter _ _ _ h) ?_ ?_ ?_
  · exact fun e he => hm.2 e (List.mem_filter.mp he).1
  · intro e he x hx hxe
    have h1 := (List.mem_filter.mp he).2
    have h2 := (List.mem_filter.mp hx).2
    simp only [Bool.and_eq_true, decide_eq_true_eq, Bool.not_eq_true', Bool.and_eq_false_imp] at h1 h2
    have e1 : x.1 / 4096 = e.1 / 4096 - src + dst := by omega
    have := h2 ⟨by omega, by omega⟩
    rw [e1, show e.1 / 4096 - src + dst - dst = e.1 / 4096 - src by omega] at this
    simp_all
  · rw [List.Nodup, List.pairwise_map]
    have hf := hnd.sublist ((List.filter_sublist (l := m) (p := fun e => decide (src ≤ e.1 / 4096) && decide (e.1 / 4096 < src + n) &&
      pick (e.1 / 4096 - src))).map Prod.fst)
    rw [List.Nodup, List.pairwise_map] at hf
    refine hf.imp_of_mem fun {a b} ha hb hne he => hne ?_
    have h1 := (List.mem_filter.mp ha).2
    have h2 := (List.mem_filter.mp hb).2
    simp only [Bool.and_eq_true, decide_eq_true_eq] at h1 h2
    omega

end Memory

/-- The copies of anchored pages that follow a write keep the canonical form (R299). -/
theorem State.wf_wrote {s : State} (rs : List (Nat × Nat)) (h : Memory.wf s.mem = true) : Memory.wf (s.wrote rs).mem = true := by
  unfold State.wrote
  dsimp only
  generalize rs.flatMap s.ctl.copiesOf = cs
  revert h
  generalize s.mem = m
  induction cs generalizing m with
  | nil => exact id
  | cons x cs ih => exact fun h => ih _ (Memory.wf_writeBytes _ _ h)

theorem State.wf_store {s : State} {m : Memory} (rs : List (Nat × Nat)) (h : m.wf = true) : Memory.wf (s.store m rs).mem = true :=
  State.wf_wrote rs h

theorem State.wf_restorePages {s : State} (k : Nat) (h : Memory.wf s.mem = true) : Memory.wf (s.restorePages k).mem = true :=
  by simpa only [State.restorePages, State.mapCtl_mem] using Memory.wf_copyPages _ _ _ _ h

/-- Serving reads from the copies that are left keeps the canonical form (R299). -/
theorem State.wf_serveCopies {s : State} (k : Nat) (h : Memory.wf s.mem = true) : Memory.wf (s.serveCopies k).mem = true := by
  unfold State.serveCopies
  dsimp only
  exact Memory.wf_copyPages _ _ _ _ (Memory.wf_copyPages _ _ _ _ h)

/-- So does a change of the tweaks (R297). -/
theorem State.wf_retweak {s : State} (c : Ctl) (h : Memory.wf s.mem = true) : Memory.wf (State.retweak c s).mem = true := by
  unfold State.retweak
  split
  · exact h
  · dsimp only
    generalize List.filter _ _ = us
    generalize hm : s.mem = m0 at h ⊢
    suffices ∀ m : Memory, m.wf = true → Memory.wf (us.foldl (fun (m : Memory) u => m.writeBytes (u * 64)
        (xtsOpen _ (s.ctl.tweakAddr (u * 64) / 64) (xtsSeal _ (c.tweakAddr (u * 64) / 64) (m0.readBytes (u * 64) 64)))) m) = true from
      this m0 h
    induction us with
    | nil => exact fun _ h => h
    | cons u us ih => exact fun m h => ih _ (Memory.wf_writeBytes _ _ h)

/-- Reset memory is canonical. -/
theorem State.reset_mem_wf : Memory.wf State.reset.mem = true := rfl

end Sys2Proof.Machine
end

