-- ==== Sys2Proof/Laws/PerInstr.lean ====
section
/-! SUPPORT. Facts about the encoding that the host's case split names constructor by constructor. -/
namespace Sys2Proof.Laws.Encoding

/-- A command that has a word is well-formed, and the word's MAJOR is one of the classes of R215 and R238: none of the
reserved classes 6, 7 and 14 to 63. -/
def Statement (i : Instr) : Prop :=
  ∀ x, encodeGybel i = some x →
    i.wf = true ∧ (x.extractLsb' 58 6 ≤ 5#6 ∨ 8#6 ≤ x.extractLsb' 58 6 ∧ x.extractLsb' 58 6 ≤ 13#6)

/-- The MAJOR of a word that is put together from its fields. -/
theorem gWord_major (a b : Nat) (w : GWord) : (gWord a b w).extractLsb' 58 6 = BitVec.ofNat 6 a := by
  apply BitVec.eq_of_getElem_eq
  intro i hi
  simp only [gWord, BitVec.getElem_extractLsb', BitVec.getLsbD_append]
  have h1 : ¬ 58 + i < 53 := by omega
  have h2 : ¬ 58 + i - 53 < 5 := by omega
  simp only [h1, h2, if_false]
  have h3 : 58 + i - 53 - 5 = i := by omega
  rw [h3, BitVec.getLsbD_eq_getElem hi]

/-- A word whose MAJOR is assigned satisfies the statement. -/
theorem of_gWord {i : Instr} (a b : Nat) (w : GWord) (h : encodeGybel i = some (gWord a b w)) (hw : i.wf = true)
    (ha : BitVec.ofNat 6 a ≤ 5#6 ∨ 8#6 ≤ BitVec.ofNat 6 a ∧ BitVec.ofNat 6 a ≤ 13#6) : Statement i := by
  intro x hx
  rw [h] at hx
  cases hx
  exact ⟨hw, by rw [gWord_major]; exact ha⟩

/-- A command without a word satisfies the statement. -/
theorem of_none {i : Instr} (h : encodeGybel i = none) : Statement i := by
  intro x hx
  rw [h] at hx
  cases hx

theorem ctlNop (c : CoreId) (w : GWord) : Statement (.ctlNop c w) :=
  of_gWord 0 0 w rfl rfl (by decide)
theorem ctlHalt (c : CoreId) (w : GWord) : Statement (.ctlHalt c w) :=
  of_gWord 0 1 w rfl rfl (by decide)
theorem ctlPhase (c : CoreId) (w : GWord) : Statement (.ctlPhase c w) :=
  of_gWord 0 2 w rfl rfl (by decide)
theorem ctlTrap (c : CoreId) (w : GWord) : Statement (.ctlTrap c w) :=
  of_gWord 0 3 w rfl rfl (by decide)
theorem aluAdd (c : CoreId) (w : GWord) : Statement (.aluAdd c w) :=
  of_gWord 1 0 w rfl rfl (by decide)
theorem aluSub (c : CoreId) (w : GWord) : Statement (.aluSub c w) :=
  of_gWord 1 1 w rfl rfl (by decide)
theorem aluAnd (c : CoreId) (w : GWord) : Statement (.aluAnd c w) :=
  of_gWord 1 2 w rfl rfl (by decide)
theorem aluOr (c : CoreId) (w : GWord) : Statement (.aluOr c w) :=
  of_gWord 1 3 w rfl rfl (by decide)
theorem aluXor (c : CoreId) (w : GWord) : Statement (.aluXor c w) :=
  of_gWord 1 4 w rfl rfl (by decide)
theorem aluShl (c : CoreId) (w : GWord) : Statement (.aluShl c w) :=
  of_gWord 1 5 w rfl rfl (by decide)
theorem aluShr (c : CoreId) (w : GWord) : Statement (.aluShr c w) :=
  of_gWord 1 6 w rfl rfl (by decide)
theorem aluSra (c : CoreId) (w : GWord) : Statement (.aluSra c w) :=
  of_gWord 1 7 w rfl rfl (by decide)
theorem aluMul (c : CoreId) (w : GWord) : Statement (.aluMul c w) :=
  of_gWord 1 8 w rfl rfl (by decide)
theorem aluMulh (c : CoreId) (w : GWord) : Statement (.aluMulh c w) :=
  of_gWord 1 9 w rfl rfl (by decide)
theorem aluMulhu (c : CoreId) (w : GWord) : Statement (.aluMulhu c w) :=
  of_gWord 1 10 w rfl rfl (by decide)
theorem aluMin (c : CoreId) (w : GWord) : Statement (.aluMin c w) :=
  of_gWord 1 11 w rfl rfl (by decide)
theorem aluMax (c : CoreId) (w : GWord) : Statement (.aluMax c w) :=
  of_gWord 1 12 w rfl rfl (by decide)
theorem aluMinu (c : CoreId) (w : GWord) : Statement (.aluMinu c w) :=
  of_gWord 1 13 w rfl rfl (by decide)
theorem aluMaxu (c : CoreId) (w : GWord) : Statement (.aluMaxu c w) :=
  of_gWord 1 14 w rfl rfl (by decide)
theorem aluLi (c : CoreId) (w : GWord) : Statement (.aluLi c w) :=
  of_gWord 1 15 w rfl rfl (by decide)
theorem aluCmpEq (c : CoreId) (w : GWord) : Statement (.aluCmpEq c w) :=
  of_gWord 1 16 w rfl rfl (by decide)
theorem aluCmpNe (c : CoreId) (w : GWord) : Statement (.aluCmpNe c w) :=
  of_gWord 1 17 w rfl rfl (by decide)
theorem aluCmpLt (c : CoreId) (w : GWord) : Statement (.aluCmpLt c w) :=
  of_gWord 1 18 w rfl rfl (by decide)
theorem aluCmpGe (c : CoreId) (w : GWord) : Statement (.aluCmpGe c w) :=
  of_gWord 1 19 w rfl rfl (by decide)
theorem aluCmpLtu (c : CoreId) (w : GWord) : Statement (.aluCmpLtu c w) :=
  of_gWord 1 20 w rfl rfl (by decide)
theorem aluCmpGeu (c : CoreId) (w : GWord) : Statement (.aluCmpGeu c w) :=
  of_gWord 1 21 w rfl rfl (by decide)
theorem aluPand (c : CoreId) (w : GWord) : Statement (.aluPand c w) :=
  of_gWord 1 22 w rfl rfl (by decide)
theorem aluPor (c : CoreId) (w : GWord) : Statement (.aluPor c w) :=
  of_gWord 1 23 w rfl rfl (by decide)
theorem aluPxor (c : CoreId) (w : GWord) : Statement (.aluPxor c w) :=
  of_gWord 1 24 w rfl rfl (by decide)
theorem aluPandn (c : CoreId) (w : GWord) : Statement (.aluPandn c w) :=
  of_gWord 1 25 w rfl rfl (by decide)
theorem aluClz (c : CoreId) (w : GWord) : Statement (.aluClz c w) :=
  of_gWord 1 26 w rfl rfl (by decide)
theorem aluPopc (c : CoreId) (w : GWord) : Statement (.aluPopc c w) :=
  of_gWord 1 27 w rfl rfl (by decide)
theorem aluMfsr (c : CoreId) (w : GWord) : Statement (.aluMfsr c w) :=
  of_gWord 1 28 w rfl rfl (by decide)
theorem aluMtsr (c : CoreId) (w : GWord) : Statement (.aluMtsr c w) :=
  of_gWord 1 29 w rfl rfl (by decide)
theorem brRel (c : CoreId) (w : GWord) : Statement (.brRel c w) :=
  of_gWord 2 0 w rfl rfl (by decide)
theorem brReg (c : CoreId) (w : GWord) : Statement (.brReg c w) :=
  of_gWord 2 1 w rfl rfl (by decide)
theorem brCall (c : CoreId) (w : GWord) : Statement (.brCall c w) :=
  of_gWord 2 2 w rfl rfl (by decide)
theorem brCallr (c : CoreId) (w : GWord) : Statement (.brCallr c w) :=
  of_gWord 2 3 w rfl rfl (by decide)
theorem brDec (c : CoreId) (w : GWord) : Statement (.brDec c w) :=
  of_gWord 2 4 w rfl rfl (by decide)
theorem memLd (c : CoreId) (w : GWord) (o : List FaultObs) (r : Option CoreId) : Statement (.memLd c w o r) :=
  of_gWord 3 0 w rfl rfl (by decide)
theorem memLds (c : CoreId) (w : GWord) (o : List FaultObs) (r : Option CoreId) : Statement (.memLds c w o r) :=
  of_gWord 3 1 w rfl rfl (by decide)
theorem memSt (c : CoreId) (w : GWord) : Statement (.memSt c w) :=
  of_gWord 3 2 w rfl rfl (by decide)
theorem memDld (c : CoreId) (w : GWord) : Statement (.memDld c w) :=
  of_gWord 3 3 w rfl rfl (by decide)
theorem memDst (c : CoreId) (w : GWord) : Statement (.memDst c w) :=
  of_gWord 3 4 w rfl rfl (by decide)
theorem memDwr (c : CoreId) (w : GWord) : Statement (.memDwr c w) :=
  of_gWord 3 5 w rfl rfl (by decide)
theorem memDrd (c : CoreId) (w : GWord) : Statement (.memDrd c w) :=
  of_gWord 3 6 w rfl rfl (by decide)
theorem memDadd (c : CoreId) (w : GWord) : Statement (.memDadd c w) :=
  of_gWord 3 7 w rfl rfl (by decide)
theorem dmaCopy (c : CoreId) (w : GWord) : Statement (.dmaCopy c w) :=
  of_gWord 4 0 w rfl rfl (by decide)
theorem dmaCopy2d (c : CoreId) (w : GWord) : Statement (.dmaCopy2d c w) :=
  of_gWord 4 1 w rfl rfl (by decide)
theorem dmaFill (c : CoreId) (w : GWord) : Statement (.dmaFill c w) :=
  of_gWord 4 2 w rfl rfl (by decide)
theorem syncWait (c : CoreId) (w : GWord) : Statement (.syncWait c w) :=
  of_gWord 5 0 w rfl rfl (by decide)
theorem syncQwait (c : CoreId) (w : GWord) : Statement (.syncQwait c w) :=
  of_gWord 5 1 w rfl rfl (by decide)
theorem syncSset (c : CoreId) (w : GWord) : Statement (.syncSset c w) :=
  of_gWord 5 2 w rfl rfl (by decide)
theorem syncFence (c : CoreId) (w : GWord) : Statement (.syncFence c w) :=
  of_gWord 5 3 w rfl rfl (by decide)
theorem syncMwait (c : CoreId) (w : GWord) : Statement (.syncMwait c w) :=
  of_gWord 5 4 w rfl rfl (by decide)
theorem syncRpoint (c : CoreId) (w : GWord) : Statement (.syncRpoint c w) :=
  of_gWord 5 5 w rfl rfl (by decide)
theorem syncSinc (c : CoreId) (w : GWord) : Statement (.syncSinc c w) :=
  of_gWord 5 6 w rfl rfl (by decide)
theorem chkInject (c : CoreId) (w : GWord) : Statement (.chkInject c w) :=
  of_gWord 13 0 w rfl rfl (by decide)
theorem chkSig (c : CoreId) (w : GWord) : Statement (.chkSig c w) :=
  of_gWord 13 1 w rfl rfl (by decide)
theorem chkProbe (c : CoreId) (w : GWord) : Statement (.chkProbe c w) :=
  of_gWord 13 2 w rfl rfl (by decide)
theorem macWload (c : CoreId) (w : GWord) : Statement (.macWload c w) :=
  of_gWord 8 0 w rfl rfl (by decide)
theorem macStep (c : CoreId) (w : GWord) : Statement (.macStep c w) :=
  of_gWord 8 1 w rfl rfl (by decide)
theorem accPreload (c : CoreId) (w : GWord) : Statement (.accPreload c w) :=
  of_gWord 9 0 w rfl rfl (by decide)
theorem accSadd (c : CoreId) (w : GWord) : Statement (.accSadd c w) :=
  of_gWord 9 1 w rfl rfl (by decide)
theorem accSpill (c : CoreId) (w : GWord) : Statement (.accSpill c w) :=
  of_gWord 9 2 w rfl rfl (by decide)
theorem accDrain (c : CoreId) (w : GWord) : Statement (.accDrain c w) :=
  of_gWord 9 3 w rfl rfl (by decide)
theorem accFree (c : CoreId) (w : GWord) : Statement (.accFree c w) :=
  of_gWord 9 4 w rfl rfl (by decide)
theorem vecChain (c : CoreId) (w : GWord) : Statement (.vecChain c w) :=
  of_gWord 10 0 w rfl rfl (by decide)
theorem qntEncode (c : CoreId) (w : GWord) : Statement (.qntEncode c w) :=
  of_gWord 11 0 w rfl rfl (by decide)
theorem qntCbload (c : CoreId) (w : GWord) : Statement (.qntCbload c w) :=
  of_gWord 11 1 w rfl rfl (by decide)
theorem qntAdapt (c : CoreId) (w : GWord) : Statement (.qntAdapt c w) :=
  of_gWord 11 2 w rfl rfl (by decide)
theorem qntSdump (c : CoreId) (w : GWord) : Statement (.qntSdump c w) :=
  of_gWord 11 3 w rfl rfl (by decide)
theorem collSend (c : CoreId) (w : GWord) : Statement (.collSend c w) :=
  of_gWord 12 0 w rfl rfl (by decide)
theorem collRecv (c : CoreId) (w : GWord) : Statement (.collRecv c w) :=
  of_gWord 12 1 w rfl rfl (by decide)
theorem collXchg (c : CoreId) (w : GWord) : Statement (.collXchg c w) :=
  of_gWord 12 2 w rfl rfl (by decide)
theorem queueStart (c : CoreId) (q : QueueId) : Statement (.queueStart c q) := of_none rfl
theorem queueComplete (c : CoreId) (q : QueueId) (k : Nat) (obs : List FaultObs) (repl : Option CoreId) : Statement (.queueComplete c q k obs repl) := of_none rfl
theorem qwaitConsume (c : CoreId) (q : QueueId) : Statement (.qwaitConsume c q) := of_none rfl
theorem syncWaitRelease (c : CoreId) : Statement (.syncWaitRelease c) := of_none rfl
theorem ssetApply (c : CoreId) : Statement (.ssetApply c) := of_none rfl
theorem fenceRelease (c : CoreId) : Statement (.fenceRelease c) := of_none rfl
theorem mwaitRelease (c : CoreId) : Statement (.mwaitRelease c) := of_none rfl
theorem rpointRecorded (c : CoreId) : Statement (.rpointRecorded c) := of_none rfl
theorem waitLimitExpiry (c : CoreId) (p : WaitPlace) : Statement (.waitLimitExpiry c p) := of_none rfl
theorem trapHandlerEntry (c : CoreId) : Statement (.trapHandlerEntry c) := of_none rfl
theorem spillBackgroundDone (d : SpillDone) : Statement (.spillBackgroundDone d) := of_none rfl
theorem hello (h : MsgHdr) (b : HelloBody) (newId : BitVec 32) : Statement (.hello h b newId) := of_none rfl
theorem cmdRun (h : MsgHdr) (b : CmdBody) : Statement (.cmdRun h b) := of_none rfl
theorem cmdInstall (h : MsgHdr) (b : CmdBody) : Statement (.cmdInstall h b) := of_none rfl
theorem cmdPreempt (h : MsgHdr) (b : CmdBody) : Statement (.cmdPreempt h b) := of_none rfl
theorem cmdRelease (h : MsgHdr) (b : CmdBody) : Statement (.cmdRelease h b) := of_none rfl
theorem journalWriteConfirm (k : CmdKey) : Statement (.journalWriteConfirm k) := of_none rfl
theorem commandStart (k : CmdKey) (cores : List CoreId) : Statement (.commandStart k cores) := of_none rfl
theorem normWatchDecide (k : CmdKey) : Statement (.normWatchDecide k) := of_none rfl
theorem adoptFlip (k : CmdKey) : Statement (.adoptFlip k) := of_none rfl
theorem dataWrite (h : MsgHdr) (addr : BitVec 64) (data : List Byte) (obs : List FaultObs) : Statement (.dataWrite h addr data obs) := of_none rfl
theorem dataRead (h : MsgHdr) (addr : BitVec 64) (len : BitVec 32) (rsvd : BitVec 32) (obs : List FaultObs) : Statement (.dataRead h addr len rsvd obs) := of_none rfl
theorem eventAck (h : MsgHdr) : Statement (.eventAck h) := of_none rfl
theorem eventResendTimer (session : BitVec 32) : Statement (.eventResendTimer session) := of_none rfl
theorem regRead (h : MsgHdr) (addr : BitVec 64) (nwords : BitVec 16) (rsvd : BitVec 48) (snap : BitVec 64) : Statement (.regRead h addr nwords rsvd snap) := of_none rfl
theorem regWrite (h : MsgHdr) (addr : BitVec 64) (nwords : BitVec 16) (rsvd : BitVec 48) (vals : List (Word × Word)) : Statement (.regWrite h addr nwords rsvd vals) := of_none rfl
theorem txnBegin (h : MsgHdr) (rsvd : BitVec 56) (txnId : BitVec 64) : Statement (.txnBegin h rsvd txnId) := of_none rfl
theorem txnCommit (h : MsgHdr) (rsvd : BitVec 56) (txnId : BitVec 64) : Statement (.txnCommit h rsvd txnId) := of_none rfl
theorem txnAbort (h : MsgHdr) (rsvd : BitVec 56) (txnId : BitVec 64) : Statement (.txnAbort h rsvd txnId) := of_none rfl
theorem txnIdleTimeout (session : BitVec 32) : Statement (.txnIdleTimeout session) := of_none rfl
theorem islandPrepared (i : Island) (refuse : Option (BitVec 16)) : Statement (.islandPrepared i refuse) := of_none rfl
theorem prepareTimeout (i : Island) : Statement (.prepareTimeout i) := of_none rfl
theorem islandApplied (i : Island) : Statement (.islandApplied i) := of_none rfl
theorem applyTimeout (i : Island) : Statement (.applyTimeout i) := of_none rfl
theorem attestReport (h : MsgHdr) (nonce : Option (BitVec 256)) (part : BitVec 8) : Statement (.attestReport h nonce part) := of_none rfl
theorem attestEncap (h : MsgHdr) (o : EncapObj) : Statement (.attestEncap h o) := of_none rfl
theorem attestLinkSecret (h : MsgHdr) (o : LinkSecretObj) : Statement (.attestLinkSecret h o) := of_none rfl
theorem hostBye (h : MsgHdr) : Statement (.hostBye h) := of_none rfl
theorem mkaFrame (port : HPort) (mac : MacAddr) (ckn : BitVec 128) (body : List Byte) : Statement (.mkaFrame port mac ckn body) := of_none rfl
theorem sakRekeyTimer (port : HPort) (mac : MacAddr) : Statement (.sakRekeyTimer port mac) := of_none rfl
theorem arpRequest (port : HPort) (senderMac : MacAddr) (senderIp targetIp : IpAddr) : Statement (.arpRequest port senderMac senderIp targetIp) := of_none rfl
theorem icmpEchoRequest (port : HPort) (srcIp dstIp : IpAddr) (payload : List Byte) : Statement (.icmpEchoRequest port srcIp dstIp payload) := of_none rfl
theorem neighbourSolicitation (port : HPort) (srcMac : MacAddr) (srcIp targetIp : IpAddr) : Statement (.neighbourSolicitation port srcMac srcIp targetIp) := of_none rfl
theorem hostPortDown (port : HPort) (reason : DownReason) : Statement (.hostPortDown port reason) := of_none rfl
theorem lmRemoveReq (h : MsgHdr) (k : LaserId) : Statement (.lmRemoveReq h k) := of_none rfl
theorem mlkDrainComplete (k : LaserId) : Statement (.mlkDrainComplete k) := of_none rfl
theorem hostDrainComplete (k : LaserId) : Statement (.hostDrainComplete k) := of_none rfl
theorem lmInserted (k : LaserId) (serial : BitVec 32) : Statement (.lmInserted k serial) := of_none rfl
theorem lmPulled (k : LaserId) : Statement (.lmPulled k) := of_none rfl
theorem eloSessClose (h : MsgHdr) (slot : Fin 1024) : Statement (.eloSessClose h slot) := of_none rfl
theorem avClear (h : MsgHdr) : Statement (.avClear h) := of_none rfl
theorem relRelease (h : MsgHdr) (core : BitVec 9) : Statement (.relRelease h core) := of_none rfl
theorem psInstall (h : MsgHdr) : Statement (.psInstall h) := of_none rfl
theorem psActivate (h : MsgHdr) : Statement (.psActivate h) := of_none rfl
theorem psRollback (h : MsgHdr) : Statement (.psRollback h) := of_none rfl
theorem psActionDone : Statement (.psActionDone) := of_none rfl
theorem testSlice (h : MsgHdr) (n : BitVec 6) : Statement (.testSlice h n) := of_none rfl
theorem testStack (h : MsgHdr) (n : BitVec 4) : Statement (.testStack h n) := of_none rfl
theorem unitTestDone (u : UnitRef) (pass : Bool) : Statement (.unitTestDone u pass) := of_none rfl
theorem sealUnits (h : MsgHdr) : Statement (.sealUnits h) := of_none rfl
theorem fwInstall (h : MsgHdr) : Statement (.fwInstall h) := of_none rfl
theorem fwActivate (h : MsgHdr) : Statement (.fwActivate h) := of_none rfl
theorem svnCommit (h : MsgHdr) : Statement (.svnCommit h) := of_none rfl
theorem fwActionDone : Statement (.fwActionDone) := of_none rfl
theorem rtLoad (h : MsgHdr) (slot : Fin 8) : Statement (.rtLoad h slot) := of_none rfl
theorem rtDecrypt (h : MsgHdr) (slot : Fin 8) : Statement (.rtDecrypt h slot) := of_none rfl
theorem rtEncrypt (h : MsgHdr) (slot : Fin 8) : Statement (.rtEncrypt h slot) := of_none rfl
theorem rtDrop (h : MsgHdr) (slot : Fin 8) : Statement (.rtDrop h slot) := of_none rfl
theorem rtActionDone : Statement (.rtActionDone) := of_none rfl
theorem anchorClear (h : MsgHdr) : Statement (.anchorClear h) := of_none rfl
theorem warmReset (h : MsgHdr) : Statement (.warmReset h) := of_none rfl
theorem coldReset (h : MsgHdr) : Statement (.coldReset h) := of_none rfl
theorem modResetNAssert : Statement (.modResetNAssert) := of_none rfl
theorem watchdogExpiry : Statement (.watchdogExpiry) := of_none rfl
theorem coreHandshakeFail (c : CoreId) (repl : Option CoreId) : Statement (.coreHandshakeFail c repl) := of_none rfl
theorem sliceHandshakeFail (k : SliceId) : Statement (.sliceHandshakeFail k) := of_none rfl
theorem remirrorDone : Statement (.remirrorDone) := of_none rfl
theorem stackHandshakeFail (k : StackId) : Statement (.stackHandshakeFail k) := of_none rfl
theorem spareRestoreDone (r : Fin 256) : Statement (.spareRestoreDone r) := of_none rfl
theorem ecsReadTick (k : StackId) (count : Nat) : Statement (.ecsReadTick k count) := of_none rfl
theorem hbmTempTick (k : StackId) (tempC : BitVec 8) (hot : Bool) : Statement (.hbmTempTick k tempC hot) := of_none rfl
theorem linkHello (p : MPort) (f : RxFlit) (m : Lctl) : Statement (.linkHello p f m) := of_none rfl
theorem keyMsg (p : MPort) (f : RxFlit) (m : Lctl) : Statement (.keyMsg p f m) := of_none rfl
theorem keyUpdate (p : MPort) (f : RxFlit) (m : Lctl) : Statement (.keyUpdate p f m) := of_none rfl
theorem ringState (p : MPort) (f : RxFlit) (m : Lctl) : Statement (.ringState p f m) := of_none rfl
theorem wState (p : MPort) (f : RxFlit) (m : Lctl) : Statement (.wState p f m) := of_none rfl
theorem credit (p : MPort) (f : RxLctl) : Statement (.credit p f) := of_none rfl
theorem echo (p : MPort) (f : RxFlit) (m : Lctl) : Statement (.echo p f m) := of_none rfl
theorem echoReply (p : MPort) (f : RxFlit) (m : Lctl) (rttNs : Nat) : Statement (.echoReply p f m rttNs) := of_none rfl
theorem nak (p : MPort) (f : FlitHdr) : Statement (.nak p f) := of_none rfl
theorem idleFlit (p : MPort) (f : FlitHdr) : Statement (.idleFlit p f) := of_none rfl
theorem flitErrored (p : MPort) (e : FlitFault) : Statement (.flitErrored p e) := of_none rfl
theorem retryTmo (p : MPort) : Statement (.retryTmo p) := of_none rfl
theorem creditReturnTimer (p : MPort) : Statement (.creditReturnTimer p) := of_none rfl
theorem portLossOfLight (p : MPort) (light : Bool) : Statement (.portLossOfLight p light) := of_none rfl
theorem berInterval (p : MPort) (errors bits : Nat) : Statement (.berInterval p errors bits) := of_none rfl
theorem trainingRetry (p : MPort) : Statement (.trainingRetry p) := of_none rfl
theorem collPacketForward (p : MPort) (f : RxFlit) (k : CollPkt) : Statement (.collPacketForward p f k) := of_none rfl
theorem collOpen (p : MPort) (f : RxFlit) (k : CollPkt) (waitNs : Nat) : Statement (.collOpen p f k waitNs) := of_none rfl
theorem collData (p : MPort) (f : RxFlit) (k : CollPkt) (waitNs : Nat) : Statement (.collData p f k waitNs) := of_none rfl
theorem collReady (p : MPort) (f : RxFlit) (k : CollPkt) (waitNs : Nat) : Statement (.collReady p f k waitNs) := of_none rfl
theorem collReadyConditions (group : BitVec 16) (job : BitVec 16) (seq : BitVec 32) : Statement (.collReadyConditions group job seq) := of_none rfl
theorem collCommit (p : MPort) (f : RxFlit) (k : CollPkt) (waitNs : Nat) : Statement (.collCommit p f k waitNs) := of_none rfl
theorem collEnd (p : MPort) (f : RxFlit) (k : CollPkt) (waitNs : Nat) : Statement (.collEnd p f k waitNs) := of_none rfl
theorem collReport (p : MPort) (f : RxFlit) (k : CollPkt) : Statement (.collReport p f k) := of_none rfl
theorem collRetry (p : MPort) (f : RxFlit) (k : CollPkt) (waitNs : Nat) : Statement (.collRetry p f k waitNs) := of_none rfl
theorem collProbe (p : MPort) (f : RxFlit) (k : CollPkt) : Statement (.collProbe p f k) := of_none rfl
theorem collProbeReply (p : MPort) (f : RxFlit) (k : CollPkt) : Statement (.collProbeReply p f k) := of_none rfl
theorem collLength (p : MPort) (f : RxFlit) (k : CollPkt) (waitNs : Nat) : Statement (.collLength p f k waitNs) := of_none rfl
theorem collStallTimer (group : BitVec 16) (job : BitVec 16) (seq : BitVec 32) (rank : BitVec 16) : Statement (.collStallTimer group job seq rank) := of_none rfl
theorem estimateTick (r : EstReading) : Statement (.estimateTick r) := of_none rfl
theorem measureSample (r : PwrReading) : Statement (.measureSample r) := of_none rfl
theorem calibrationTick (sumM sumLoad : Rat) : Statement (.calibrationTick sumM sumLoad) := of_none rfl
theorem measAbsentTimeout : Statement (.measAbsentTimeout) := of_none rfl
theorem measFaultClear : Statement (.measFaultClear) := of_none rfl
theorem estimatorUntrusted : Statement (.estimatorUntrusted) := of_none rfl
theorem estimatorTrusted : Statement (.estimatorTrusted) := of_none rfl
theorem fallbackEnter : Statement (.fallbackEnter) := of_none rfl
theorem fallbackExit : Statement (.fallbackExit) := of_none rfl
theorem islandDroop (i : Island) (cycles : Nat) : Statement (.islandDroop i cycles) := of_none rfl
theorem droopLimit (i : Island) : Statement (.droopLimit i) := of_none rfl
theorem droopStepExpire (i : Island) : Statement (.droopStepExpire i) := of_none rfl
theorem thermalSample (temps : List (Island × Int)) : Statement (.thermalSample temps) := of_none rfl
theorem retreatStageA (vin20mv : BitVec 12) : Statement (.retreatStageA vin20mv) := of_none rfl
theorem retreatStageB (vin20mv : BitVec 12) : Statement (.retreatStageB vin20mv) := of_none rfl
theorem retreatLeaveB (vin20mv : BitVec 12) : Statement (.retreatLeaveB vin20mv) := of_none rfl
theorem retreatRecover (vin20mv : BitVec 12) : Statement (.retreatRecover vin20mv) := of_none rfl
theorem retreatStageC (vin20mv : BitVec 12) : Statement (.retreatStageC vin20mv) := of_none rfl
theorem modPwrEnAssert (failing : List UnitRef) : Statement (.modPwrEnAssert failing) := of_none rfl
theorem bootStepDeadline (failing : List UnitRef) : Statement (.bootStepDeadline failing) := of_none rfl
theorem vinOvervoltage : Statement (.vinOvervoltage) := of_none rfl
theorem vinOvervoltageClear : Statement (.vinOvervoltageClear) := of_none rfl
theorem auxPowerPresent : Statement (.auxPowerPresent) := of_none rfl
theorem auxPowerLost : Statement (.auxPowerLost) := of_none rfl
theorem guideLockstepMismatch : Statement (.guideLockstepMismatch) := of_none rfl
theorem guideSelfTestDone (passA passB : Bool) : Statement (.guideSelfTestDone passA passB) := of_none rfl
theorem guideCoreFail : Statement (.guideCoreFail) := of_none rfl
theorem probeRunStart (c : CoreId) : Statement (.probeRunStart c) := of_none rfl
theorem probePointDone (c : CoreId) (skipped : Bool) (res : List ProbeProg) (prev : List ProbeProg) : Statement (.probePointDone c skipped res prev) := of_none rfl
theorem probeRunAbandon (c : CoreId) : Statement (.probeRunAbandon c) := of_none rfl
theorem hotWaitExpiry (c : CoreId) : Statement (.hotWaitExpiry c) := of_none rfl
theorem escCntDecay (c : CoreId) : Statement (.escCntDecay c) := of_none rfl
theorem bottomTreeDone : Statement (.bottomTreeDone) := of_none rfl
theorem summitBatch : Statement (.summitBatch) := of_none rfl
theorem summitCheckpoint : Statement (.summitCheckpoint) := of_none rfl
theorem mgmtSetRead (addr : BitVec 64) (nwords : BitVec 8) : Statement (.mgmtSetRead addr nwords) := of_none rfl
theorem mgmtGetRead : Statement (.mgmtGetRead) := of_none rfl
theorem mgmtReadReady : Statement (.mgmtReadReady) := of_none rfl
theorem inputPowerLost : Statement (.inputPowerLost) := of_none rfl
theorem modPwrOkAssert (failing : List UnitRef) : Statement (.modPwrOkAssert failing) := of_none rfl
theorem modResetNDeassert : Statement (.modResetNDeassert) := of_none rfl
theorem offHoldExpiry : Statement (.offHoldExpiry) := of_none rfl
theorem laneLock (p : MPort) (errors bits : Nat) : Statement (.laneLock p errors bits) := of_none rfl
theorem hostPortUp (p : HPort) : Statement (.hostPortUp p) := of_none rfl
theorem laserModuleFault (k : LaserId) : Statement (.laserModuleFault k) := of_none rfl
theorem linkKeyLimit (p : MPort) : Statement (.linkKeyLimit p) := of_none rfl
theorem checkpointComplete : Statement (.checkpointComplete) := of_none rfl
theorem probeOverdue (c : CoreId) : Statement (.probeOverdue c) := of_none rfl
theorem malformedDatagram (port : HPort) : Statement (.malformedDatagram port) := of_none rfl

end Sys2Proof.Laws.Encoding
end

