-- ==== Sys2Proof/Tests/Slice0.lean ====
section
/-! SUPPORT. Tests: what well-formedness refuses, words written out from the encodings, single steps with results taken from
the manual, and for each statement with premises a state and operands that meet them. -/
namespace Sys2Proof.Tests
open Sys2Proof.Machine Sys2Proof.Claims
-- One theorem at a time: ninety kernel evaluations waiting for one another each hold a thread's stack.
set_option Elab.async false

/-! ### Helpers -/

/-- A word of fields (lowest bit, value). -/
def W (fs : List (Nat × Nat)) : GWord := BitVec.ofNat 53 (fs.foldl (fun a f => a + f.2 * 2 ^ f.1) 0)

/-- A program of job 7 whose TEXT is the first 4 KiB of the ledge, read-only, with a handler at 0x800. -/
def prog0 : Prog := ⟨1, 0, 0x1000, [(0, 0x1000)], 0x800, 0x8001, 7, 0, ⟨5, 0, 0⟩, none⟩
/-- A core that runs it from its first instruction. -/
def core0 : Core := { Core.reset with run := .running, prog := some prog0 }
/-- The same with general registers g1, g2, ... -/
def withG (l : List Word) : Core :=
  { core0 with g := (l.zipIdx).foldl (fun (g : Vector Word 32) e => g.set! (e.2 + 1) e.1) core0.g }
/-- Core 0 of a machine after reset. -/
def st (k : Core) : State := { State.reset with cores := State.reset.cores.set 0 k }

/-- An entry of a queue. -/
def ent (op : QOp) (i : BitVec 48) (w : GWord) (started : Bool) : QEntry :=
  { core0.entry op 0 w with iseq := i, started := started }
/-- Core k with one queue filled. -/
def withQ (k : Core) (q : QueueId) (l : List QEntry) : Core := k.setQueue q l

theorem exists_ok {α ε : Type} {x : Except ε α} (h : x.isOk = true) : ∃ t, x = .ok t := by
  cases x with
  | ok t => exact ⟨t, rfl⟩
  | error e => cases h

theorem exists_error {α ε : Type} {x : Except ε α} (h : x.isOk = false) : ∃ t, x = .error t := by
  cases x with
  | ok t => cases h
  | error e => exact ⟨e, rfl⟩

/-! ### Well-formedness refuses -/

def body0 : CmdBody := ⟨0, 0, 0, 0, 0, 0, 1, 0, 0, 0, [], []⟩
/-- A frame for UDP port 56820, protected by the peer of address 3 with packet number 1. -/
def frame0 : Frame := ⟨0, true, 0, 0, false, 0, false, 56820, some ⟨0x30001, 1, true⟩⟩
def hdr0 : MsgHdr := ⟨0, 9, 7, 3, 1, 0, 5, 0xFFFF, 0, 7, 0, 0, 0, frame0⟩
def flit0 : RxFlit := ⟨⟨2, 3, true, true, 0, 0, 0, 0, 0, 0, 0, false, false, 0, 0, 0⟩, [], 0⟩
def chdr0 : CollHdr := ⟨0, 0, 0, 1, 0, 0, 0, 0, 0, 0, 0, 0, 0, 0⟩
def pkt (b : CollBody) : CollPkt := ⟨0, 7, 3, 0, false, false, 0, chdr0, b⟩

theorem test_wf_cmd : (Instr.cmdRun hdr0 body0).wf = true ∧
    (Instr.cmdRun hdr0 { body0 with ndep := 1 }).wf = false ∧ (Instr.cmdRun hdr0 { body0 with ncap := 1 }).wf = false ∧
    (Instr.cmdInstall hdr0 { body0 with ndep := 1 }).wf = false ∧ (Instr.cmdPreempt hdr0 { body0 with ncap := 1 }).wf = false ∧
    (Instr.cmdRelease hdr0 { body0 with ndep := 1 }).wf = false := by decide +kernel

theorem test_wf_regWrite : (Instr.regWrite hdr0 0 1 0 [(0, 0)]).wf = true ∧ (Instr.regWrite hdr0 0 2 0 [(0, 0)]).wf = false := by
  decide +kernel

theorem test_wf_lctl : ([Instr.linkHello 0 flit0 .credit, .keyMsg 0 flit0 .credit, .keyUpdate 0 flit0 .credit,
    .ringState 0 flit0 .credit, .credit 0 ⟨flit0, .echo 4⟩, .echo 0 flit0 .credit, .echoReply 0 flit0 .credit 0, .wState 0 flit0 .credit].all
      fun i => !i.wf) = true ∧ (Instr.echo 0 flit0 (.echo 4)).wf = true := by decide +kernel

theorem test_wf_coll : ([Instr.collOpen 0 flit0 (pkt .ready) 0, .collData 0 flit0 (pkt .ready) 0, .collReady 0 flit0 (pkt .commit) 0,
    .collCommit 0 flit0 (pkt .ready) 0, .collEnd 0 flit0 (pkt .ready) 0, .collReport 0 flit0 (pkt .ready),
    .collRetry 0 flit0 (pkt .ready) 0, .collProbe 0 flit0 (pkt .ready), .collProbeReply 0 flit0 (pkt .ready),
    .collLength 0 flit0 (pkt .ready) 0].all fun i => !i.wf) = true ∧ (Instr.collReady 0 { flit0 with job := 7 } (pkt .ready) 0).wf = true ∧
    (Instr.collReady 0 flit0 (pkt .ready) 0).wf = false := by
  decide +kernel

/-! ### Words of R213 to R263, written out bit by bit: MAJOR, MINOR, PSEL, PNEG, SIG, SSEM, then the class fields -/

/-- ctl (R217): MINOR 1, p3 negated, VAL 0x8001. -/
theorem test_decode_ctl : decodeGybel 2 (0b000000#6 ++ 0b00001#5 ++ 0b011#3 ++ 1#1 ++ 0#1 ++ 0#5 ++ 0#27 ++ 0x8001#16) =
    some (.ctlHalt 2 (W [(50, 3), (49, 1), (0, 0x8001)])) := by decide +kernel
/-- alu (R219): MINOR 1 (sub), RD g31, RA g1, I 0, RB g2. -/
theorem test_decode_alu : decodeGybel 0 (1#6 ++ 1#5 ++ 0#3 ++ 0#1 ++ 0#1 ++ 0#5 ++ 31#5 ++ 1#5 ++ 0#1 ++ 2#5 ++ 0#27) =
    some (.aluSub 0 (W [(38, 31), (33, 1), (27, 2)])) := by decide +kernel
/-- br (R223): MINOR 2 (call), RD g5, OFF -2. -/
theorem test_decode_br : decodeGybel 0 (2#6 ++ 2#5 ++ 0#10 ++ 5#5 ++ 0#5 ++ 0#1 ++ 0xFFFFFFFE#32) =
    some (.brCall 0 (W [(38, 5), (0, 0xFFFFFFFE)])) := by decide +kernel
/-- mem (R225): MINOR 2 (st), RT g3, RA g4, SZ 8 bytes, OFF 16. -/
theorem test_decode_mem : decodeGybel 0 (3#6 ++ 2#5 ++ 0#10 ++ 3#5 ++ 4#5 ++ 3#2 ++ 0#7 ++ 16#24) =
    some (.memSt 0 (W [(38, 3), (33, 4), (31, 3), (0, 16)])) := by decide +kernel
/-- dma (R228): MINOR 0 (copy) with SIG and SSEM 9, DS 1, DD 2. -/
theorem test_decode_dma : decodeGybel 0 (4#6 ++ 0#5 ++ 0#3 ++ 0#1 ++ 1#1 ++ 9#5 ++ 1#4 ++ 2#4 ++ 0#35) =
    some (.dmaCopy 0 (W [(48, 1), (43, 9), (39, 1), (35, 2)])) := by decide +kernel
/-- sync (R232): MINOR 0 (wait), SEM 4, K 65535; sync has no MINOR 7. -/
theorem test_decode_sync : decodeGybel 0 (5#6 ++ 0#5 ++ 0#10 ++ 4#5 ++ 0#22 ++ 0xFFFF#16) =
    some (.syncWait 0 (W [(38, 4), (0, 0xFFFF)])) ∧ decodeGybel 0 (5#6 ++ 7#5 ++ 0#53) = none := by decide +kernel
/-- mac and acc (R240, R247): wload into WB1; free of tile 15. -/
theorem test_decode_mac_acc : decodeGybel 0 (8#6 ++ 0#5 ++ 0#10 ++ 1#1 ++ 0#42) = some (.macWload 0 (W [(42, 1)])) ∧
    decodeGybel 0 (9#6 ++ 4#5 ++ 0#10 ++ 15#4 ++ 0#39) = some (.accFree 0 (W [(39, 15)])) := by decide +kernel
/-- vec, qnt, coll and chk (R251, R260, R263, R235). -/
theorem test_decode_rest : decodeGybel 0 (10#6 ++ 0#5 ++ 0#10 ++ 6#5 ++ 0#38) = some (.vecChain 0 (W [(38, 6)])) ∧
    decodeGybel 0 (11#6 ++ 1#5 ++ 0#10 ++ 7#3 ++ 2#5 ++ 0#35) = some (.qntCbload 0 (W [(40, 7), (35, 2)])) ∧
    decodeGybel 0 (12#6 ++ 2#5 ++ 0#10 ++ 3#5 ++ 0#38) = some (.collXchg 0 (W [(38, 3)])) ∧
    decodeGybel 0 (13#6 ++ 2#5 ++ 0#10 ++ 9#5 ++ 0#38) = some (.chkProbe 0 (W [(38, 9)])) := by decide +kernel

/-! ### Single steps -/

/-- R219: arithmetic is modulo 2^64. -/
theorem test_add_wraps : ∃ t, step { st (withG [0xFFFFFFFFFFFFFFFF, 2]) with pending := [.aluAdd 0 (W [(38, 3), (33, 1), (27, 2)])] } =
    .next t ∧ (t.core 0).rg 3 = 1 ∧ (t.core 0).pc = 8 ∧ t.pending = [] := ⟨_, rfl, by decide +kernel⟩
/-- R220: the signed high product of -1 and 1 is all ones; the unsigned one is 0. -/
theorem test_mulh_signed : (∃ t, exec (.aluMulh 0 (W [(38, 3), (33, 1), (27, 2)])) (st (withG [0xFFFFFFFFFFFFFFFF, 1])) = .next t ∧
    (t.core 0).rg 3 = 0xFFFFFFFFFFFFFFFF) ∧
    ∃ t, exec (.aluMulhu 0 (W [(38, 3), (33, 1), (27, 2)])) (st (withG [0xFFFFFFFFFFFFFFFF, 1])) = .next t ∧ (t.core 0).rg 3 = 0 :=
  ⟨⟨_, rfl, by decide +kernel⟩, ⟨_, rfl, by decide +kernel⟩⟩
/-- R219: a shift takes bits [5:0] of its second operand. -/
theorem test_sra_masks_amount : ∃ t, exec (.aluSra 0 (W [(38, 3), (33, 1), (32, 1), (0, 65)])) (st (withG [0x8000000000000000])) =
    .next t ∧ (t.core 0).rg 3 = 0xC000000000000000 := ⟨_, rfl, by decide +kernel⟩
/-- R226: `mem.lds` of one byte 0x80 is sign-extended, little-endian stores of R7 read back byte by byte. -/
theorem test_store_then_load : ∃ t, exec (.memSt 0 (W [(38, 1), (33, 2), (31, 1)])) (st (withG [0x8001, 0x2000])) = .next t ∧
    (t.core 0).ledge.read8 0x2000 = 0x01 ∧ (t.core 0).ledge.read8 0x2001 = 0x80 ∧
    ∃ u, exec (.memLds 0 (W [(38, 3), (33, 2), (0, 1)]) [] none) t = .next u ∧ (u.core 0).rg 3 = 0xFFFFFFFFFFFFFF80 :=
  ⟨_, rfl, by decide +kernel, by decide +kernel, _, rfl, by decide +kernel⟩
/-- R203: a misaligned load traps with 0x0003, class 2, in the scalar unit; R202: the handler at 0x800 starts next. -/
theorem test_misaligned_traps : ∃ t, exec (.memLd 0 (W [(38, 1), (31, 3), (0, 4)]) [] none) (st core0) = .next t ∧
    (t.core 0).trapInfo = 0xF000302 ∧ (t.core 0).pc = 0 ∧
    ∃ u, exec (.trapHandlerEntry 0) t = .next u ∧ (u.core 0).pc = 0x800 ∧ (u.core 0).run = .handler :=
  ⟨_, rfl, by decide +kernel, by decide +kernel, _, rfl, by decide +kernel⟩
/-- R234: a semaphore sum above 65,535 leaves 65,535 and takes the sync trap. -/
theorem test_semaphore_overflow : ∃ t, exec (.syncSinc 0 (W [(38, 4), (0, 2)]))
    (st { core0 with sem := core0.sem.set 4 0xFFFE }) = .next t ∧ (t.core 0).sem[4] = 0xFFFF ∧
    (t.core 0).trapInfo.extractLsb' 0 4 = 3 := ⟨_, rfl, by decide +kernel⟩
/-- R185: a completion signals its semaphore. -/
theorem test_completion_signals : ∃ t, exec (.queueComplete 0 .acc 0 [] none)
    (st (withQ { core0 with tiles := core0.tiles.set 2 { Tile.reset with mode := .standard } } .acc
      [ent .accFree 1 (W [(48, 1), (43, 9), (39, 2)]) true])) = .next t ∧ (t.core 0).sem[9] = 1 ∧
    ((t.core 0).tiles[2]).mode = .free ∧ (t.core 0).queue .acc = [] := ⟨_, rfl, by decide +kernel⟩

/-! ### The standards of R11, on values that they publish -/

/-- R333: the check value of CRC-32C, of "123456789". -/
theorem test_crc32c : crc32c (BitVec.allOnes 32) ((List.range 9).map fun i => BitVec.ofNat 8 (0x31 + i)) = 0xE3069283 := by decide +kernel
/-- FIPS 180-4: SHA-256 of "abc". -/
theorem test_sha256 : ofBe (sha256 [0x61, 0x62, 0x63]) = 0xBA7816BF8F01CFEA414140DE5DAE2223B00361A396177A9CB410FF61F20015AD := by
  decide +kernel
/-- FIPS 202: SHA3-256 of "abc". -/
theorem test_sha3 : ofBe (sha3_256 [0x61, 0x62, 0x63]) = 0x3A985DA74FE225B2045C172D6BD390BD855F086E3E9D525B46BFE24511431532 := by
  decide +kernel
/-- AES-256-GCM, test case 14 of its authors: a zero key, nonce and block. -/
theorem test_gcm : (let r := gcmSeal (List.replicate 32 0) (List.replicate 12 0) [] (List.replicate 16 0)
    (ofBe r.1, ofBe r.2)) = (0xCEA7403D4D606B6E074EC5D3BAF39D18, 0xD0D1C8A799996BF0265B98B5D48AB919) := by decide +kernel

/-! ### Premises that are met: scalar instructions -/

/-- Core 0 as the statements see it. -/
def at0 (k : Core) : Core := (st k).core 0

/-- What `Takes` asks, as a test. -/
def taken (k : Core) (w : GWord) : Bool := k.canIssue && k.inText && k.passes w
theorem takes_of {k : Core} {w : GWord} (h : taken k w = true) : Takes k w := by
  simp only [taken, Bool.and_eq_true] at h; exact ⟨h.1.1, h.1.2, h.2⟩

/-- Register and immediate forms, and a destination g0. -/
theorem witness_ArithmeticWritesDestination : ∀ f ∈ [[(38, 31), (33, 1), (27, 2)], [(33, 1), (32, 1), (0, 0xFFFFFFFF)]], let w := W f
    taken (at0 (withG [5, 7])) w = true ∧ scalarSig w = true ∧ aluLegal w = true := by decide +kernel

theorem witness_ImmediateAndCountsWriteDestination :
    (∀ f ∈ [[(38, 1), (32, 1), (0, 0x80000000)], [(38, 1), (37, 1), (32, 1)]], let w := W f
      taken (at0 core0) w = true ∧ scalarSig w = true ∧ aluI w = true ∧ zeroAt w 33 4 = true) ∧
    (∀ k ∈ [withG [1], withG [0]], let w := W [(38, 31), (33, 1)]
      taken (at0 k) w = true ∧ scalarSig w = true ∧ zeroAt w 0 33 = true) := by decide +kernel

theorem witness_ComparesWritePredicate :
    (∀ f ∈ [[(38, 7), (33, 1), (27, 2)], [(33, 1), (32, 1), (0, 1)]], let w := W f
      taken (at0 (withG [5, 7])) w = true ∧ scalarSig w = true ∧ aluLegal w = true ∧ zeroAt w 41 2 = true) ∧
    (let w := W [(38, 7), (33, 1), (27, 2)]
     taken (at0 core0) w = true ∧ scalarSig w = true ∧ aluI w = false ∧ zeroAt w 41 2 = true ∧ zeroAt w 36 2 = true ∧
     zeroAt w 30 2 = true ∧ zeroAt w 0 27 = true) := by decide +kernel

/-- A predicated word whose predicate is true, and one with PNEG. -/
theorem witness_Takes : taken (at0 { core0 with p := core0.p.set 3 true }) (W [(50, 3)]) = true ∧
    taken (at0 core0) (W [(50, 3), (49, 1)]) = true ∧ taken (at0 core0) (W [(49, 1)]) = false := by decide +kernel

/-- A register of no tile; the first and the last tile register with no entry that names the tile, and with one. -/
theorem witness_SpecialRegisterMoves :
    (∀ x ∈ [(0x00, core0), (0x20, core0), (0x4F, core0), (0x53, core0)], let w := W [(38, 1), (32, 1), (0, x.1)]
      taken (at0 x.2) w = true ∧ scalarSig w = true ∧ srLegal w = true ∧ zeroAt w 33 5 = true ∧ (x.1 = 0 ↔ srTile (srIdx w) = none) ∧
      ∀ n, srTile (srIdx w) = some n → (at0 x.2).tileIdle n ((at0 x.2).iseq + 1) = true) ∧
    (let k := withQ { core0 with iseq := 1 } .acc [ent .accFree 1 (W [(39, 2)]) false]
     let w := W [(38, 1), (32, 1), (0, 0x22)]
     taken (at0 k) w = true ∧ scalarSig w = true ∧ srLegal w = true ∧ zeroAt w 33 5 = true ∧ srTile (srIdx w) = some 2 ∧
     (at0 k).tileIdle 2 ((at0 k).iseq + 1) = false) ∧
    (∀ i ∈ [0x07, 0x0E, 0x0F, 0x59, 0x00, 0x58], let w := W [(33, 1), (32, 1), (0, i)]
      taken (at0 (withG [9])) w = true ∧ scalarSig w = true ∧ srLegal w = true ∧ zeroAt w 38 5 = true) ∧
    (∀ x ∈ [(0x08, QueueId.mac), (0x19, .acc), (0x0A, .vec), (0x10, .qnt), (0x18, .qnt)], let w := W [(48, 1), (43, 3), (33, 1), (32, 1), (0, x.1)]
      taken (at0 (withG [9])) w = true ∧ srLegal w = true ∧ zeroAt w 38 5 = true ∧ srQueues (srIdx w) = [x.2] ∧
      queuedSig w = true ∧ (at0 (withG [9])).room x.2 = true) := by decide +kernel

/-- `ctl.halt` with 0 and with 0x8000, with work left and without. -/
theorem witness_ControlAndHalt :
    (∀ v ∈ [0, 0x8000, 0xFFFF], let w := W [(0, v)]
      taken (at0 core0) w = true ∧ scalarSig w = true ∧ ctlLegal w = true ∧ (valOf w = 0 ∨ 0x8000 ≤ (valOf w).toNat) ∧
      (at0 core0).drained = true ∧ (at0 (withQ core0 .mac [ent .macWload 1 0 false])).drained = false) ∧
    ((at0 core0).prog = some prog0 ∧ prog0.probe = none) := by decide +kernel

def reaches (k : Core) (t : Int) : Bool := decide (t % 8 = 0) && (k.prog.any fun p => decide ((p.textLo : Int) ≤ t ∧ t + 8 ≤ (p.textLo : Int) + p.textLen))
theorem reaches_iff (k : Core) (t : Int) : reaches k t = true ↔ Reaches k t := by
  cases h : k.prog <;> simp [reaches, Reaches, h]

/-- Targets at both ends of TEXT, one past it, and one that is no multiple of 8. -/
theorem witness_BranchTargets :
    (let w (o : Nat) := W [(0, o)]
     ∀ x ∈ [(0, true), (0x1FF, true), (0x200, false), (0xFFFFFFFF, false)], taken (at0 core0) (w x.1) = true ∧ scalarSig (w x.1) = true ∧
       zeroAt (w x.1) 32 11 = true ∧ zeroAt (w x.1) 32 6 = true ∧ reaches (at0 core0) (8 * (fld (w x.1) 0 32).toInt) = x.2) ∧
    (let w := W [(33, 1)]
     ∀ x ∈ [(0xFF8, true), (0x1000, false), (4, false)], let k := at0 (withG [BitVec.ofNat 64 x.1])
       taken k w = true ∧ scalarSig w = true ∧ zeroAt w 38 5 = true ∧ zeroAt w 0 33 = true ∧ reaches k (k.rg (brRa w)).toNat = x.2) ∧
    (let w := W [(33, 1), (0, 2)]
     ∀ n ∈ [1, 2, 0], let x := BitVec.ofNat 64 n
       taken (at0 (withG [x])) w = true ∧ scalarSig w = true ∧ zeroAt w 38 5 = true ∧ zeroAt w 32 1 = true ∧
       brRa w ≠ 0 ∧ (at0 (withG [x])).rg (brRa w) = x ∧ reaches (at0 core0) 16 = true) ∧
    (let w := W [(33, 1), (0, 0x200)]
     taken (at0 (withG [2])) w = true ∧ scalarSig w = true ∧ brRa w ≠ 0 ∧ (at0 (withG [2])).rg (brRa w) ≠ 1 ∧
     reaches (at0 core0) (8 * (fld w 0 32).toInt) = false) := by decide +kernel

/-- The last 8 bytes of the ledge, one word past it, and a misaligned word. -/
theorem witness_LoadsReadLedge : let w := W [(38, 1), (33, 1), (31, 3)]
    ∀ x ∈ [(0x2FFFF8, true, true), (0x300000, false, true), (0x2004, true, false)], let k := withG [BitVec.ofNat 64 x.1]
      taken (at0 k) w = true ∧ scalarSig w = true ∧ memLegal w = true ∧ memSize w = 8 ∧ (at0 k).armed[2] = 0 ∧
      decide (memEa (at0 k) w + memSize w ≤ ledgeSize) = x.2.1 ∧ decide (memEa (at0 k) w % memSize w = 0) = x.2.2 := by decide +kernel

/-- The last word of the ledge; the last word of read-only TEXT; the first word of an active spill area; outside; misaligned. -/
theorem witness_StoreWritesExactlyItsBytes : let w := W [(38, 1), (33, 1), (31, 3)]
    let k (a : Nat) : Core := { withG [BitVec.ofNat 64 a] with tiles := core0.tiles.set 0 { Tile.reset with mode := .standard, spillAddr := 0x40000 } }
    ∀ x ∈ [(0x2FFFF8, false, false), (0x1000, false, false), (0xFF8, true, false), (0x40000, false, true), (0x5FFF8, false, true)],
      taken (at0 (k x.1)) w = true ∧ scalarSig w = true ∧ memLegal w = true ∧ memEa (at0 (k x.1)) w + 8 ≤ ledgeSize ∧
      memEa (at0 (k x.1)) w % 8 = 0 ∧ memSize w = 8 ∧
      anyOverlap [(memEa (at0 (k x.1)) w, 8)] (at0 (k x.1)).readOnly = x.2.1 ∧
      anyOverlap [(memEa (at0 (k x.1)) w, 8)] (at0 (k x.1)).spillAreas = x.2.2 := by decide +kernel

theorem witness_DescriptorLoadsAndStores :
    (let w := W [(38, 15), (33, 1)]
     ∀ x ∈ [0, 0x2000, 0x2FFFE0], let k := withG [BitVec.ofNat 64 x]
       taken (at0 k) w = true ∧ scalarSig w = true ∧ zeroAt w 42 1 = true ∧ zeroAt w 24 9 = true ∧ zeroAt w 0 33 = true ∧
       memEa (at0 k) w + 32 ≤ ledgeSize ∧ memEa (at0 k) w % 32 = 0 ∧ Desc.ok (descAt (at0 k).ledge (memEa (at0 k) w)) = true ∧
       (x ≠ 0 → anyOverlap [(memEa (at0 k) w, 32)] (at0 k).readOnly = false ∧ anyOverlap [(memEa (at0 k) w, 32)] (at0 k).spillAreas = false)) ∧
    (let w := W [(38, 31), (33, 15), (31, 3)]
     taken (at0 core0) w = true ∧ scalarSig w = true ∧ zeroAt w 37 1 = true ∧ zeroAt w 0 31 = true) ∧
    (let w (i : Nat) := W [(38, 15), (33, 1), (31, i)]
     ∀ x ∈ [(0, 0x3000000000000, false), (0, 0x1FFFFFFFFFFFF, true), (3, 1, false)], let k := withG [BitVec.ofNat 64 x.2.1]
       taken (at0 k) (w x.1) = true ∧ zeroAt (w x.1) 42 1 = true ∧ zeroAt (w x.1) 0 31 = true ∧
       Desc.ok (((at0 k).rd 15).set (fld (w x.1) 31 2).toNat ((at0 k).rg (fld (w x.1) 33 5)) (fld (w x.1) 31 2).isLt) = x.2.2) := by
  decide +kernel

/-- A count that is there, one that is not, an earlier waiter; the sums 65,535 and 65,536; signallers and fences. -/
theorem witness_SemaphoresFencesAndOverflow :
    let w := W [(38, 31), (0, 5)]
    let k (n : Nat) : Core := { core0 with iseq := 9, sem := core0.sem.set 31 (BitVec.ofNat 16 n) }
    (∀ n ∈ [(5, true), (4, false)], taken (at0 (k n.1)) w = true ∧ scalarSig w = true ∧ zeroAt w 16 22 = true ∧ kOf w ≠ 0 ∧
      semOf w = 31 ∧ decide (kOf w ≤ (at0 (k n.1)).sem[semOf w]) = n.2 ∧ (at0 (k n.1)).earlierWaiter (semOf w) 10 = false ∧
      (at0 (k n.1)).setWaits (semOf w) 10 = false) ∧
    (let c := withQ (k 5) .mac [ent .qwait 3 (W [(38, 31), (0, 9)]) false, ent .macWload 4 (W [(48, 1), (43, 31)]) false]
     (at0 c).earlierWaiter (semOf w) 10 = true ∧ (at0 c).setWaits (semOf w) 10 = true ∧ taken (at0 c) w = true ∧
     (at0 (withQ (k 9) .mac [ent .qwait 3 (W [(38, 31), (0, 9)]) false])).setWaits (semOf w) 10 = true) ∧
    ((at0 (k 65530)).sem[semOf w].toNat + (kOf w).toNat = 65535 ∧ (at0 (k 65531)).sem[semOf w].toNat + (kOf w).toNat = 65536) ∧
    (let w := W [(29, 0x21)]
     taken (at0 core0) w = true ∧ scalarSig w = true ∧ zeroAt w 35 8 = true ∧ zeroAt w 0 29 = true ∧ fld w 29 6 ≠ 0 ∧
     (at0 core0).fenceDone (fld w 29 6) = true ∧ (at0 (withQ core0 .coll [ent .collXchg 1 0 true])).fenceDone (fld w 29 6) = false ∧
     (at0 (withQ core0 .vec [ent .vecChain 1 0 true])).fenceDone (fld w 29 6) = true) := by decide +kernel

/-- A state where job 7 holds the first two pages of Base Camp. -/
def withBc (s : State) : State :=
  s.mapCtl fun c => (c.setFld (Addr.bcRgnLo 0) 19 19 2).setFld (Addr.bcRgnLo 0) 38 16 7

/-- The last word of the region, the word past it, and a misaligned one. -/
theorem witness_CounterWaitsAndReplayPoints :
    let w := W [(24, 1), (19, 2)]
    (∀ x ∈ [(0x10000001FF8, true, 0), (0x10000002000, false, 0), (0x10000000004, true, 4)], let s := withBc (st (withG [BitVec.ofNat 64 x.1, 0]))
      let a : Addr48 := ((s.core 0).rg (fld w 24 5)).extractLsb' 0 48
      taken (s.core 0) w = true ∧ scalarSig w = true ∧ zeroAt w 29 14 = true ∧ zeroAt w 0 19 = true ∧
      (s.env (s.core 0).job).user a.toNat 8 = x.2.1 ∧ a.toNat % 8 = x.2.2) ∧
    (let w := W [(24, 1)]
     taken (at0 (withG [5])) w = true ∧ scalarSig w = true ∧ zeroAt w 29 14 = true ∧ zeroAt w 0 24 = true) := by decide +kernel

/-- Probe runs 0 and 0xFFFFFFFF, and a program of a command. -/
theorem witness_ProbeHooks : let w := W [(38, 31), (35, 3), (33, 3)]
    (∀ k ∈ [core0, { core0 with prog := some { prog0 with probe := some 0 } }, { core0 with prog := some { prog0 with probe := some 0xFFFFFFFF } }],
      taken (at0 k) w = true ∧ scalarSig w = true ∧ zeroAt w 0 33 = true ∧ zeroAt w 37 1 = true ∧ fld w 33 2 ≠ 0) ∧
    (at0 core0).prog = some prog0 ∧ prog0.probe = none ∧ zeroAt (W [(38, 31)]) 0 38 = true ∧
    (st core0).mayInject (at0 core0) 3 = false ∧
    (st core0).mayInject { core0 with prog := some { prog0 with probe := some 0 } } 3 = true := by decide +kernel


/-! ### Premises that are met: queues -/

/-- One legal word of each queued instruction, on a core with room, and on one whose queue holds 16. -/
theorem witness_QueuedIssue :
    (∀ x ∈ [([(39, 1), (35, 2)], fun w => dmaRule w && zeroAt w 0 21 && zeroAt w 0 6), ([(35, 2)], fun w => dmaRule w && zeroAt w 39 4 && zeroAt w 0 16),
        ([(39, 1), (28, 1)], fun w => zeroAt w 0 28 && zeroAt w 38 1), ([(38, 31), (35, 4), (0, 1)], fun w => zeroAt w 16 19 && kOf w != 0 && queueOf w == some .dma),
        ([(42, 1)], fun w => zeroAt w 0 30), ([(39, 15), (23, 128)], fun w => zeroAt w 8 3), ([(39, 15)], preloadLegal),
        ([(39, 15)], fun w => zeroAt w 8 22 && zeroAt w 0 39), ([(39, 15)], drainLegal), ([(18, 7)], encodeLegal),
        ([(40, 7), (35, 31)], fun w => zeroAt w 0 35 && zeroAt w 0 24), ([(38, 31)], fun w => zeroAt w 0 38 && zeroAt w 0 30),
        ([(38, 31)], fun w => collLegal w && zeroAt w 30 4 && zeroAt w 34 4)],
      let w := W ([(48, 1), (43, 31)] ++ x.1)
      taken (at0 core0) w = true ∧ queuedSig w = true ∧ x.2 w = true) ∧
    (allQueues.all fun q => (at0 core0).room q) = true ∧
    (∀ q ∈ allQueues, 16 ≤ ((at0 (withQ core0 q (List.replicate 16 (ent .qwait 1 1 false)))).queue q).length) := by decide +kernel

/-- A chain of no stages at the last place in the ledge is no legal chain; the premises of the traps at 0x2FFF40 + 64 and 4. -/
theorem witness_QueuedIssue_chain : let w := W [(38, 1)]
    ∀ x ∈ [(0x2FFF00, true, true), (0x2FFF40, true, false), (0x2004, false, true)], let k := withG [BitVec.ofNat 64 x.1]
      taken (at0 k) w = true ∧ queuedSig w = true ∧ zeroAt w 0 30 = true ∧ (at0 k).room .vec = true ∧
      decide (((at0 k).rg (fld w 38 5)).toNat % 2 ^ 22 % 64 = 0) = x.2.1 ∧
      decide (((at0 k).rg (fld w 38 5)).toNat % 2 ^ 22 + 256 ≤ ledgeSize) = x.2.2 := by decide +kernel

/-- A core that cannot issue, one whose program counter is outside TEXT, and a false predicate. -/
theorem witness_PredicateGatesEveryInstruction : decodeGybel 0 (gWord 0 0 (W [(49, 1)])) = some (.ctlNop 0 (W [(49, 1)])) ∧
    (at0 Core.reset).canIssue = false ∧ (at0 { core0 with pc := 0x1000 }).canIssue = true ∧
    (at0 { core0 with pc := 0x1000 }).inText = false ∧ (at0 { core0 with pc := 0xFF8 }).inText = true ∧
    (at0 core0).canIssue = true ∧ (at0 core0).passes (W [(49, 1)]) = false ∧ (at0 core0).inText = true ∧
    (∀ m ∈ [14, 63], decodeGybel 0 (BitVec.ofNat 6 m ++ 0#58) = none) ∧ decodeGybel 0 (5#6 ++ 7#5 ++ 0#53) = none := by decide +kernel

def tile2 (t : Tile) : Core := { core0 with tiles := core0.tiles.set 2 t }
def stdTile : Tile := { Tile.reset with mode := .standard }

/-- `acc.free` of a standard tile passes its checks, of a member of a Fixed-Rope tile fails them. -/
theorem witness_QueueStart : let e := ent .accFree 1 (W [(39, 2)]) false
    (∀ x ∈ [(stdTile, true), ({ stdTile with mode := .frMember }, false)], let s := st (withQ (tile2 x.1) .acc [e])
      (s.core 0).nextStart .acc = some e ∧ (s.run 0 .acc e).isOk = x.2) := by decide +kernel

/-- A started `acc.free`; a started COLL instruction whose operation has ended OK. -/
theorem witness_CompletionOfQueuedInstructions : let e := ent .accFree 1 (W [(39, 2), (48, 1), (43, 31)]) true
    (let s := st (withQ (tile2 stdTile) .acc [e])
     ((s.core 0).queue .acc)[0]? = some e ∧ e.started = true ∧ e.inj = 0 ∧ (s.run 0 .acc e).isOk = true ∧
     s.ctl.badObs (e.devReads (s.core 0) (s.env (s.core 0).job)) = []) ∧
    (let e := ent .collXchg 1 0 true
     let p : PastOp := ⟨⟨0, 7, 0⟩, 0, ⟨5, 0, 0⟩, 0, stOK, 0, 1, 0, 0, [], some 0, true⟩
     let s := (st (withQ core0 .coll [e])).mapColl fun x => { x with past := [p] }
     ((s.core 0).queue .coll)[0]? = some e ∧ e.started = true ∧ isMove e = false ∧
     (s.ctl.coll.past.find? fun o => o.core = some 0 ∧ o.waiting) = some p ∧ p.status = stOK) ∧
    (sigBit e.w = true ∧ core0.sem[(ssem e.w).toFin] ≠ 0xFFFF ∧
     ({ core0 with sem := core0.sem.set 31 0xFFFF }).sem[(ssem e.w).toFin] = 0xFFFF) ∧
    (∀ i ∈ [0x0D, 0x19], (ent (.mtsr (BitVec.ofNat 8 i) 9) 1 0 true).op = .mtsr (BitVec.ofNat 8 i) 9) := by decide +kernel

def stalled (x : Stall) : Core := { core0 with stall := some x }
def cmd0 : Cmd :=
  { key := ⟨5, 0, 0⟩, op := 1, job := 7, hdr := hdr0, body := body0, phase := .running, doom := none, dups := []
    placement := [⟨0, some 0, none⟩], rpoints := [(0, 4)], attempt := 0, energyUj := 0, jseq := 0, slowed := false }
def withCmd (s : State) (m : Cmd) : State := s.mapJnl fun j => { j with cmds := j.cmds ++ [m] }

/-- Each wait, met and not met; a queue's wait; replay points 5 and 4 after a recorded 4. -/
theorem witness_WaitReleases :
    (∀ x ∈ [Stall.semWait 3 1 2, .sset 3 1 2, .fence 1 2, .mwait 0x10000000000 1 2], (at0 (stalled x)).stall = some x) ∧
    (let e := ent .qwait 1 (W [(38, 3), (0, 7)]) false
     let k := withQ { core0 with sem := core0.sem.set 3 7 } .vec [e]
     (at0 k).headWait .vec = some e ∧ kOf e.w ≤ (at0 k).sem[semOf e.w] ∧ (at0 k).earlierWaiter (semOf e.w) e.iseq = false) ∧
    (∀ n ∈ [(5, true), (4, false)], let s := withCmd (st (stalled (.rpoint (BitVec.ofNat 32 n.1) 1))) cmd0
      (s.core 0).prog = some prog0 ∧ prog0.probe = none ∧ (s.core 0).drained = true ∧ s.cmd? prog0.key = some cmd0 ∧
      (cmd0.rpoints.find? fun r => r.1 = prog0.logical) = some (0, 4) ∧
      (cmd0.rpoints.all fun r => decide (r.1 = prog0.logical → r.2 < BitVec.ofNat 32 n.1)) = n.2) := by decide +kernel

/-- A first and a second trap; waits at their limit; the handler with the queues empty and not. -/
theorem witness_TrapsAndHandler :
    (core0.prog = some prog0 ∧ core0.trapInfo.extractLsb' 0 4 = 0 ∧ core0.trapping = none ∧
     (core0.trap (dataTrap 2) 0 0 1).trapInfo.extractLsb' 0 4 ≠ 0) ∧
    ((at0 (stalled (.semWait 3 1 2))).stall = some (.semWait 3 1 2) ∧ (Stall.semWait 3 1 2).limited = some 2) ∧
    (let e := ent .qwait 1 (W [(38, 3), (0, 7)]) false
     (at0 (withQ core0 .dma [e])).headWait .dma = some e) ∧
    (∀ t ∈ [TrapAfter.handler, .halt 0x8001], let k := { core0 with trapping := some t }
      (at0 k).trapping = some t ∧ (at0 k).prog = some prog0 ∧ (at0 k).idleQueues = true ∧
      (at0 (withQ k .mac [ent .macWload 1 0 true])).idleQueues = false) := by decide +kernel

/-! ### Premises that are met: what the units do -/

def bf16At (a n : Nat) (space : Nat) : Desc :=
  (((Vector.replicate 4 (0 : Word)).set 0 (BitVec.ofNat 64 (a + space * 2 ^ 48 + 2 * 2 ^ 50))).set 1 (BitVec.ofNat 64 n))
def withD (l : List Desc) : Core :=
  { core0 with d := (l.zipIdx).foldl (fun (d : Vector Desc 16) e => d.set! e.2 e.1) core0.d }
def entryOf (k : Core) (op : QOp) (w : GWord) : QEntry := k.entry op 0 w
def env0 : Env := (withBc State.reset).env 7

/-- Fills of ledge and of device memory, and a copy into the ledge, each with and without a counter word. -/
theorem witness_TransfersMoveBytes :
    (let k := { withD [bf16At 0x2000 1 0, bf16At 0x10000000000 3 1] with g := core0.g.set 1 0x10000001FF8 }
     ∀ x ∈ [0, 1], ∀ r ∈ [0, 1],
       (effFill k env0 (entryOf k .dmaFill (W [(35, x), (29, r), (16, 2), (21, r)]))).isOk = true) ∧
    (let k := { withD [bf16At 0x2000 1 0, bf16At 0x4000 1 0, bf16At 0x10000000000 1 1] with g := core0.g.set 1 0x10000001FF8 }
     ∀ s ∈ [1, 2], ∀ r ∈ [0, 1],
       (effCopy k env0 (entryOf k .dmaCopy (W [(39, s), (35, 0), (29, r), (21, r)]))).isOk = true) ∧
    (Desc.space (bf16At 0x2000 1 0) = 0 ∧ fmtPlain (Desc.fmt (bf16At 0x2000 1 0)) = true ∧ Desc.space (bf16At 0x2000 1 1) = 1 ∧
     env0.mem.wf = true ∧ core0.ledge.wf = true) := by decide +kernel

/-- Region 0 of HBM: page 0, anchored, its mirror page 4 and, with a spare range, page 8; stack S0 holds page 0, S1 page 4. -/
def anchored0 (c : Ctl) : Ctl :=
  ((((c.setFld (Addr.hbmRgnLo 0) 28 28 1).setFld (Addr.hbmRgnMid 0) 0 28 4).setFld (Addr.hbmRgnMid 0) 28 28 8).setFld (Addr.hbmRgnMid 0) 56 1 1).setFld
    (Addr.hbmRgnMid 0) 57 1 1
/-- Eight bytes of the region, at the start and the end of its page, and where their second copies lie. -/
theorem witness_MemoryMapAndCopies : let c := anchored0 State.reset.ctl
    c.copiesOf (0, 8) = [(0, 0x4000, 8)] ∧ c.copiesOf (4088, 8) = [(4088, 0x4FF8, 8)] ∧ (c.hbmUsed.filter c.anchored) = [0] ∧
    (∀ d ∈ [0, 3], c.transitSlices [d] = (List.range 8).map (8 * d + ·)) ∧ (c.setFld (Addr.bcSliceStat 9) 0 2 1).transitSlices [1] = [8, 10, 11, 12, 13, 14, 15] := by
  decide +kernel
/-- R299: what a write stores is read in both copies. -/
theorem test_write_reaches_mirror : let s := { State.reset with ctl := anchored0 State.reset.ctl }
    (s.store (s.mem.writeBytes 8 [1, 2]) [(8, 2)]).mem.readBytes 0x4008 2 = [1, 2] := by decide +kernel

/-- An array step whose checks pass answers. -/
theorem effStep_isOk (c : Core) (v : Env) (e : QEntry) :
    let d := e.rd (fld e.w 19 4)
    let v0 := (e.rg (fld e.w 11 5)).toNat
    let rows := (fld e.w 23 8).toNat
    expandable d = true → (checkStream c v ledgeOnly .source (fld e.w 19 4) d).isOk = true →
    (1 ≤ rows ∧ (fld e.w 31 7).toNat + rows ≤ 128 ∧ (v0 + rows) * 128 ≤ d.count) →
    hdrsOk c.ledge d (4 * v0) (4 * rows) = true → c.tileLive (tileOf (fld e.w 39 4)) = true →
    (c.tile (tileOf (fld e.w 39 4))).spillBase = true ∨ c.readOnly = [] → (effStep c v e).isOk = true := by
  intro d v0 rows h1 h2 h3 h4 h5 h6
  cases h : checkStream c v ledgeOnly .source (fld e.w 19 4) d with
  | error x => rw [h] at h2; simp [Except.isOk, Except.toBool] at h2
  | ok u =>
    simp only [d, v0, rows] at *
    simp only [effStep, checkStep, h1, h, h3.1, h3.2.1, h3.2.2, h4, h5, need, bind, Except.bind, pure, Except.pure, Except.isOk, Except.toBool]
    rcases h6 with h6 | h6 <;> simp [Core.spillArea, Core.notReadOnly, need, anyOverlap, h6]

/-- A stream of 128 bytes of FMT 10 with its four headers. -/
def mx128 : Desc := (((Vector.replicate 4 (0 : Word)).set 0 (BitVec.ofNat 64 (0x2000 + 10 * 2 ^ 50 + 7 * 2 ^ 54))).set 1 128).set 2 0x3000

/-- One row of an array step, on a tile whose SSTEPS differs from SPILL_N and on one where it equals it. -/
theorem witness_ArrayStepFrame : ∀ x ∈ [(0, 1), (1, 1)],
    let k := { withD [mx128] with ledge := Memory.writeBytes [] 0x3000 [0xE0, 0, 0xE0, 0, 0xE0, 0, 0xE0, 0], tiles := core0.tiles.set 2 { stdTile with ssteps := BitVec.ofNat _ x.1, spillN := BitVec.ofNat _ x.2, spillBase := true } }
    let e := entryOf k .macStep (W [(39, 2), (23, 1), (19, 0)])
    (effStep k env0 e).isOk = true ∧ (k.tiles[tileOf (fld e.w 39 4)]).mode = .standard := by
  intro x hx
  constructor
  · apply effStep_isOk <;> revert x <;> decide +kernel
  · revert x; decide +kernel

/-- A NaN; both infinities; one infinity; a sum of exactly zero; a sum that is not. -/
theorem witness_ColumnSumIsRoundedOnce :
    (∃ p ∈ [FVal.nan false true 0, .num false 1], p.isNan = true) ∧ (.inf true ∈ [FVal.inf true, .inf false] ∧ .inf false ∈ [FVal.inf true, .inf false]) ∧
    ((∀ p ∈ [FVal.inf true, .num false 1], p.isNan = false) ∧ FVal.inf true ∈ [FVal.inf true, .num false 1] ∧
      FVal.inf (!true) ∉ [FVal.inf true, .num false 1]) ∧
    ((∀ p ∈ [FVal.num true 1, .num false 1], p.isNonfin = false) ∧ ([FVal.num true 1, .num false 1].map FVal.toRat).sum = 0) ∧
    ((∀ p ∈ [FVal.num true 1, .num false 2], p.isNonfin = false) ∧ ([FVal.num true 1, .num false 2].map FVal.toRat).sum ≠ 0) ∧
    List.Perm [FVal.num true 1, .num false 2] [.num false 2, .num true 1] := by
  refine ⟨by decide +kernel, by decide +kernel, by decide +kernel, by decide +kernel, by decide +kernel, ?_⟩
  exact List.Perm.swap _ _ _

/-- Terms of anchor 0 whose sizes add up to 2^127 - 1. -/
theorem witness_FixedRopeSumIgnoresOrder :
    let ts := [FVal.num false (2 ^ 126), .num true (2 ^ 125)]
    (∀ t ∈ ts, ∃ n m, t = FVal.num n m) ∧ List.Perm ts ts.reverse ∧
    (-1 : Int).natAbs + (ts.map fun t => (roundToInt .rne (t.toRat * pow2 (-0))).1.natAbs).sum < 2 ^ 127 := by
  refine ⟨?_, (List.reverse_perm _).symm, by decide +kernel⟩
  intro t h; simp at h; rcases h with rfl | rfl <;> exact ⟨_, _, rfl⟩

/-- Free, standard and Fixed-Rope tiles; a first background spill. -/
theorem witness_TileFreeSpillAndBackground :
    (∀ m ∈ [TileMode.free, .standard, .fixedRope, .frMember], ((tile2 { stdTile with mode := m }).tiles[tileOf (fld (W [(39, 2)]) 39 4)]).mode = m) ∧
    (let k := { tile2 { stdTile with spillBase := true, spillAddr := 0x10000000000 } with spills := [⟨2, [], .accSpill, 1⟩] }
     (at0 k).spills = [⟨2, [], .accSpill, 1⟩] ∧ ((at0 k).tiles[(2 : Fin 16)]).spilled = false ∧ ((at0 k).tiles[(2 : Fin 16)]).spillBase = true ∧
     (at0 k).stall = none ∧ (at0 k).trapping = none) ∧
    (({ stdTile with ssteps := 1 }).ssteps ≠ 0 ∧ stdTile.ssteps = 0 ∧ stdTile.spillBase = false ∧
     anyOverlap [(stdTile.spillAddr.toNat, 0x20000)] core0.readOnly = true) ∧
    (let k := { tile2 { stdTile with spillBase := true, spillAddr := 0x10000000000 } with spills := [⟨2, [], .accSpill, 1⟩] }
     let e := ({ tile := 2, elems := [], op := .accSpill, iseq := 1 } : SpillJob).entry k
     ((st k).coreObsAll 0 e none [(0x10000000000, 0x20000)] []).2 = false ∧
     ((st k).coreObsAll 0 e none [(0x10000000000, 0x20000)] [.storedSlice 0x10000000000 4]).2 = true ∧ bcBase ≤ 0x10000000000) := by decide +kernel

/-- The statistics block at the end of the ledge, past it and misaligned; a codebook pair of zeros does not pass. -/
theorem witness_StatisticsDumpAndCodebookLoad :
    (∀ x ∈ [(0x2FFFD0, true, true), (0x2FFFD8, true, false), (0x2004, false, true)],
      let e := entryOf (withG [BitVec.ofNat 64 x.1]) .qntSdump (W [(38, 1)])
      decide (e.ledgeOff (fld e.w 38 5) % 8 = 0) = x.2.1 ∧ decide (e.ledgeOff (fld e.w 38 5) + 48 ≤ ledgeSize) = x.2.2 ∧
      anyOverlap [(e.ledgeOff (fld e.w 38 5), 48)] core0.readOnly = false ∧
      anyOverlap [(e.ledgeOff (fld e.w 38 5), 48)] core0.spillAreas = false) ∧
    (let e := entryOf (withG [0x2FFEE0]) .qntCbload (W [(35, 1)])
     e.ledgeOff (fld e.w 35 5) % 16 = 0 ∧ e.ledgeOff (fld e.w 35 5) + 288 ≤ ledgeSize ∧
     cbOk (core0.ledge.readBytes (e.ledgeOff (fld e.w 35 5)) 288) = false) := by decide +kernel

/-- The 16-entry table of the example after R70, and 256 E4M3 entries of which the last three repeat. -/
def pair0 : List Byte :=
  ([0, 0, 0, 0, 0, 0, 0x80, 0x3F] ++ List.replicate 8 0 ++
    [0x00, 0xB8, 0x38, 0x40, 0xC0, 0x30, 0xB0, 0x44, 0xC4, 0x3C, 0xBC, 0x48, 0xC8, 0x4C, 0xCC, 0x34] ++
    List.range 0x7F ++ (List.range 0x7E).map (· + 0x81) ++ [1, 1, 1]).map (BitVec.ofNat 8 ·)

theorem witness_CodebookLoad : let k := { withG [0x2000] with ledge := Memory.writeBytes [] 0x2000 pair0 }
    cbOk (k.ledge.readBytes ((entryOf k .qntCbload (W [(35, 1)])).ledgeOff (fld (W [(35, 1)]) 35 5)) 288) = true := by
  intro k
  have h : (entryOf k .qntCbload (W [(35, 1)])).ledgeOff (fld (W [(35, 1)]) 35 5) = 0x2000 := by decide +kernel
  have hl : pair0.length = 288 := by decide +kernel
  have hk : cbOk pair0 = true := by decide +kernel
  rw [h, Memory.readBytes_writeBytes [] 0x2000 288 pair0 hl]
  exact hk
/-- A repeated value in the 16-entry table, and one among the first 253 of the other. -/
theorem test_codebook_repeats : cbOk (pair0.set 19 0x38) = false ∧ cbOk (pair0.set 40 0x10) = false := by decide +kernel

/-! ### Premises that are met: messages of a host -/

def hello0 : HelloBody := ⟨1, 1, 1, 0, 0, 0, 0, 0, 0, 9⟩
/-- A session of the host that sends hdr0, with one command queue and the control queue. -/
def ses0 : Session :=
  { id := 5, token := 1, srcIp := 9, ver := 1, isa := 1, features := 0, maxdata := 8, nq := 1, state := .admitted, admin := false
    queues := [CmdQueue.new, CmdQueue.new], addrA := none, addrB := none, eseq := 0, acked := 0, unacked := [], keptComp := []
    keptDev := [], evLost := 0, txn := none, closed := [], keys := [], report := none, rebuilt := false }
def dev (s : State) (f : Device → Device) : State := s.mapCtl fun c => { c with dev := f c.dev }
/-- SERVICE with one session, on host port 0 with its peer live; job entry 0 is job 7 of that session, with 8 KiB of Base Camp. -/
def sv (ses : Session) : State :=
  let s := dev (withBc State.reset) fun d => { d with dstate := .service, bootStep := 7 }
  s.mapCtl fun c =>
    let c := (((c.setFld (Addr.jobA 0) 0 16 7).setFld (Addr.jobA 0) 16 1 1).setFld (Addr.jobA 0) 32 32 5).setFld (Addr.jobF 0) 0 1 1
    { c with elo := { c.elo with sessions := [(0, ses)], ports := c.elo.ports.set 0 ⟨.up, 0, [⟨3, 5, 1, 0, 0⟩], 1⟩ } }
def heard (s : State) (h : MsgHdr) (ses : Session) : Bool :=
  s.ctl.listens h.port && (s.ctl.frameLost h).isNone && decide (s.ctl.sessionById h.session = some (0, ses)) && hdrZero h &&
    h.ver == ses.ver && s.ctl.passes h
theorem heard_iff {s : State} {h : MsgHdr} {ses : Session} (x : heard s h ses = true) : Heard s h 0 ses ∧ Passes s h := by
  simp only [heard, Bool.and_eq_true, decide_eq_true_eq, beq_iff_eq, Option.isNone_iff_eq_none] at x
  exact ⟨⟨x.1.1.1.1.1, x.1.1.1.1.2, x.1.1.1.2, x.1.1.2, x.1.2⟩, x.2⟩
/-- The session and device of most statements. -/
theorem witness_Heard : heard (sv ses0) hdr0 ses0 = true ∧
    (ses0.state = .admitted ∧ (sv ses0).ctl.mayName ses0 7 = true ∧ (sv ses0).ctl.dev.dstate ≠ .retreat) := by decide +kernel

theorem witness_HelloOpensSession : let s := sv ses0
    let h : MsgHdr := { hdr0 with length := 32 }
    (s.ctl.listens h.port = true ∧ hdrZero h = true ∧ h.queue = 0xFFFF ∧ h.eseq = 0 ∧ 32 ≤ h.length.toNat) ∧
    (hello0.rsvd6 = 0 ∧ hello0.rsvd20 = 0 ∧ hello0.token ≠ 0 ∧ hello0.rsession = 0) ∧
    ((dev s fun d => { d with dstate := .safe }).ctl.dev.dstate = .safe ∧ (dev s fun d => { d with dstate := .safe }).ctl.listens 0 = true) ∧
    s.ctl.dev.dstate ≠ .safe ∧ hello0.vmin.toNat ≤ 1 ∧ 1 ≤ hello0.vmax.toNat ∧ hello0.isaMax ≠ 0 ∧
    (∀ e ∈ s.ctl.elo.sessions, ¬ (e.2.token = hello0.token ∧ e.2.srcIp = h.srcIp)) ∧ s.ctl.freeSlot = some 1 ∧
    (1 < ({ hello0 with vmin := 2 }).vmin.toNat ∧ ({ hello0 with vmax := 0 }).vmax.toNat < 1 ∧ ({ hello0 with isaMax := 0 }).isaMax = 0) := by
  decide +kernel

/-- An image of two cores, and its RUN. -/
def img0 : Image := ⟨1, 0x10000000000, 64, 7, 0x100, 0x800, 0x8001, 2, 0, [⟨1, 64, 0x1000, 0⟩], []⟩
def withImg (s : State) : State := s.mapCtl fun c => { c with elo := { c.elo with images := [img0] } }
def run0 : CmdBody := { body0 with arg1 := 0x10000000000 }
def cmdHdr (q : BitVec 16) (n : BitVec 48) : MsgHdr := { hdr0 with queue := q, seq := n, length := 64 }

/-- RUN, PREEMPT and RELEASE at the first and the last number of the window; an INSTALL is well formed; numbers outside. -/
theorem witness_CommandAdmission : let s := withImg (sv ses0)
    (∀ n ∈ [0, 64], ∀ x ∈ [(0x0, 1, run0), (0xFFFE, 3, { body0 with imageId := 0 }), (0xFFFE, 4, { body0 with imageId := 0 })],
      let h := cmdHdr (BitVec.ofNat 16 x.1) (BitVec.ofNat 48 n)
      heard s h ses0 = true ∧ s.ctl.dev.halted = false ∧ ses0.queue? h.queue = some CmdQueue.new ∧
      CmdQueue.new.nextExp.toNat ≤ n ∧ n ≤ CmdQueue.new.nextExp.toNat + 64 ∧ CmdQueue.new.ahead.contains h.seq = false ∧
      CmdQueue.new.nextExp.toNat ≠ 2 ^ 48 - 1 ∧ (s.cmd? (keyOfHdr h)).isNone = true ∧ s.ctl.jnl.room (cmdRecords x.2.2) = true ∧
      cmdFormed s.ctl ses0 x.2.1 h x.2.2 = true ∧ (base s h 0 ses0).admitCheck (noted ses0 h) x.2.1 h x.2.2 = none) ∧
    cmdFormed s.ctl ses0 2 (cmdHdr 0 0) { run0 with arg2 := 64 } = true ∧
    (let q : CmdQueue := { CmdQueue.new with nextExp := 1 }
     let ses := { ses0 with queues := [q, q] }
     let s := sv ses
     (∀ n ∈ [0, 66], let h := cmdHdr 0 (BitVec.ofNat 48 n)
       heard s h ses = true ∧ s.ctl.dev.halted = false ∧ cmdFormed s.ctl ses 1 h run0 = true ∧ ses.queue? h.queue = some q ∧
       (n < q.nextExp.toNat ∨ q.nextExp.toNat + 64 < n) ∧ q.ahead.contains h.seq = false) ∧
     s.ctl.reachPort 0 3 = some 0 ∧ q.nextExp.toNat ≠ 2 ^ 48 - 1) ∧
    (let m : Cmd := { cmd0 with phase := .journaling, placement := [], rpoints := [], body := { body0 with cflags := 1 } }
     let s := withCmd s m
     let b : CmdBody := { run0 with cflags := 1 }
     let h := cmdHdr 0 1
     heard s h ses0 = true ∧ s.ctl.jnl.room (cmdRecords b) = true ∧ (s.cmd? (keyOfHdr h)).isNone = true ∧ cmdFormed s.ctl ses0 1 h b = true ∧
     (base s h 0 ses0).admitState (noted ses0 h) 1 h b = none ∧ b.cflags.toNat % 4 ≠ 0 ∧ m ∈ s.ctl.jnl.cmds ∧ m.accepted = false ∧ m.stepKind ≠ 0 ∧ m.job = h.job) := by decide +kernel
/-- R397: version, type, flags, session, queue, sequence number and job of a CMD, most significant byte first. -/
theorem test_header_bytes : (hdr0.bytes .cmd).take 18 = ([1, 3, 0, 0, 0, 0, 0, 5, 0xFF, 0xFF, 0, 0, 0, 0, 0, 0, 0, 7] : List Byte) := by
  decide +kernel

/-- The worked example of chapter 15: a RUN of 92 bytes on queue 5, number 0x1CAD of session 0x2C41 for job 0x12, and its frame of 226
bytes with a VLAN tag and MACsec over IPv6. -/
theorem test_example_frame :
    let f : Frame := { frame0 with vid := 100, v4 := false }
    let h : MsgHdr := { hdr0 with session := 0x2C41, queue := 5, seq := 0x1CAD, job := 0x12, length := 0x5C, eseq := 0, frame := f }
    h.bytes .cmd = ([0x01, 0x03, 0x00, 0x00, 0x00, 0x00, 0x2C, 0x41, 0x00, 0x05, 0x00, 0x00, 0x00, 0x00, 0x1C, 0xAD, 0x00, 0x12, 0x00, 0x00,
      0x00, 0x00, 0x00, 0x5C, 0x00, 0x00, 0x00, 0x00, 0x00, 0x00, 0x00, 0x00] : List Byte) ∧ f.bytes (32 + h.length.toNat) = 226 := by
  decide +kernel

/-- A queue that is held; a RELEASE at the head of the control queue. -/
theorem witness_FailedCommandsHoldTheirQueue :
    (let s := withCmd (sv ses0) cmd0
     s.ctl.sessionById cmd0.key.session = some (0, ses0) ∧ ses0.queue? cmd0.key.queue = some CmdQueue.new ∧
     s.ctl.bit (Addr.sesHof 0) 0 = true) ∧
    (let q : CmdQueue := { CmdQueue.new with held := true }
     let ses := { ses0 with queues := [q, CmdQueue.new] }
     (let s := withCmd (sv ses) { cmd0 with phase := .accepted }
      (s.cmd? cmd0.key).map (·.phase) = some .accepted ∧ s.ctl.sessionById 5 = some (0, ses) ∧ ses.queue? 0 = some q) ∧
     (let s := withImg (sv ses)
      let h := cmdHdr 0 0
      heard s h ses = true ∧ s.ctl.dev.halted = false ∧ ses.queue? h.queue = some q ∧ q.ahead.contains h.seq = false ∧
      (s.cmd? (keyOfHdr h)).isNone = true ∧ s.ctl.jnl.room (cmdRecords run0) = true ∧ cmdFormed s.ctl ses 1 h run0 = true ∧
      (base s h 0 ses).admitCheck (noted ses h) 1 h run0 = none) ∧
     (let m : Cmd := { cmd0 with key := ⟨5, 0xFFFE, 0⟩, op := 4, phase := .accepted, placement := [], body := { body0 with imageId := 0 } }
      let s := withCmd (sv ses) m
      s.cmd? m.key = some m ∧ s.ctl.runsCommands = true ∧ s.ctl.dev.halted = false ∧ s.atHead m.key = true ∧ s.ctl.notHeld m.key = true ∧
      m.body.deps.all (fun d => s.ctl.depMet d) = true ∧ (s.ctl.jnl.cmds.all fun x => x.doom.isNone && x.phase != .running) = true ∧
      m.body.arg1.extractLsb' 0 16 ≠ m.key.queue ∧ ses.queue? (m.body.arg1.extractLsb' 0 16) = some q ∧
      s.ctl.jobLost m.job.toNat = false)) := by decide +kernel

/-- A command whose records are on their way; a RUN of two cores, the first and the last, at the head of its queue. -/
theorem witness_JournalConfirmAccepts : let m : Cmd := { cmd0 with phase := .journaling, placement := [] }
    let s := withCmd (sv ses0) m
    s.cmd? m.key = some m ∧ (∀ x ∈ s.ctl.jnl.cmds, x.key = m.key → x = m) ∧ s.ctl.dev.halted = false ∧ s.ctl.sessionById 5 = some (0, ses0) ∧ ses0.queue? 0 = some CmdQueue.new ∧
    m.dups = [] ∧ s.ctl.reachPort m.hdr.port m.hdr.srcMac = some 0 ∧ m.stepKind = 0 ∧
    (dev s fun d => { d with halted := true }).ctl.dev.halted = true := by decide +kernel
theorem witness_CommandStartLoadsCores : let m : Cmd := { cmd0 with phase := .accepted, placement := [], rpoints := [], body := { run0 with imageId := 1 } }
    let s := withCmd (withImg (sv ses0)) m
    s.cmd? m.key = some m ∧ s.ctl.runsCommands = true ∧ m.doom = none ∧ s.ctl.dev.halted = false ∧ s.atHead m.key = true ∧
    s.ctl.notHeld m.key = true ∧ m.body.deps.all (fun d => s.ctl.depMet d) = true ∧ m.op = 1 ∧ s.ctl.jobLost m.job.toNat = false ∧
    s.image? m.body.imageId = some img0 ∧ s.ctl.badIn [(img0.addr, img0.len)] = [] ∧ img0.ncores ≤ s.ctl.coresSvc ∧ ([0, 383] : List CoreId).length = img0.ncores ∧
    ([0, 383] : List CoreId).Nodup ∧ (∀ c ∈ ([0, 383] : List CoreId), s.coreFree c = true) := by decide +kernel

/-- A TRAIN and an ADOPT being decided, of one layer without norms; outcomes of the norm watch at their limits. -/
theorem witness_StepDecisions :
    (∀ kind ∈ [1, 2], let m : Cmd := { cmd0 with phase := .deciding, body := { body0 with cflags := BitVec.ofNat 8 kind } }
      let s := (withCmd (sv ses0) m).mapCtl fun c => (((c.setFld (Addr.jobA 0) 18 13 1).setFld (Addr.jobB 0) 0 48 0x10000000000).setFld (Addr.jobC 0) 0 48 0x10000000010).setFld (Addr.jobD 0) 0 48 0x10000000100
      s.cmd? m.key = some m ∧ s.ctl.dev.halted = false ∧ s.ctl.dev.dstate ≠ .safe ∧ s.ctl.jobEntry m.job = some 0 ∧ m.stepKind = kind ∧
      s.ctl.lwt 0 + 16 * s.ctl.nlayers 0 ≤ s.ctl.vr 0 ∧ bcBase ≤ s.ctl.vr 0 ∧ bcBase ≤ s.ctl.lwt 0 ∧ bcBase ≤ s.ctl.nw 0 ∧
      jumpedLayers s.mem (s.ctl.nw 0) (s.ctl.nlayers 0) (vrVersion s.mem (s.ctl.vr 0)) (KMap.get ⟨false, 1, 0, 0, 1⟩ s.ctl.txn.heads 0) = []) ∧
    ((decodeFp fp64 0x7FF0000000000000).isNonfin = true ∧ (decodeFp fp64 0x7FEFFFFFFFFFFFFF).isNonfin = false) ∧
    (let hd : NwHead := ⟨false, 2, 0, 0, 1⟩
     hd.observe = false ∧ hd.maxatt ≤ 2 ∧ 1 < hd.maxatt ∧ ({ hd with observe := true }).observe = true ∧
     (lwEntry [] 0 0).testBit 3 = false ∧ lwEntry [] 0 0 % 8 ≠ 7 ∧ (lwEntry (Memory.writeLe [] 0 8 8) 0 0).testBit 3 = true) := by
  decide +kernel
/-- A TRAIN that another end reached after its last core halted, with a norm of infinity in its one layer. -/
def doomed (st : Status) : Cmd := { cmd0 with phase := .deciding, doom := some st, body := { body0 with cflags := 1 } }
def jumped (m : Cmd) : State :=
  { (withCmd (sv ses0) m).mapCtl fun c => ((((c.setFld (Addr.jobA 0) 18 13 1).setFld (Addr.jobB 0) 0 48 0x10000000000).setFld
      (Addr.jobC 0) 0 48 0x10000000010).setFld (Addr.jobD 0) 0 48 0x10000000100) with
    mem := Memory.writeLe [] (ssqAt 0x10000000100 0 0) 8 0x7FF0000000000000 }
theorem witness_EndsWhileDeciding : (∀ n ∈ [7, 15], let m := doomed (BitVec.ofNat 16 n)
    ((jumped m).cmd? m.key).isSome = true ∧ m.doom.isSome = true ∧ m.stepKind = 1 ∧ (jumped m).ctl.dev.halted = false ∧
      ((jumped m).ctl.jobEntry m.job) = some 0) ∧
    (let s := jumped (doomed 15)
     let hd := KMap.get ⟨false, 1, 0, 0, 1⟩ s.ctl.txn.heads 0
     normOutcome s.mem (s.ctl.lwt 0) (vrAttempt s.mem (s.ctl.vr 0)) hd
       (jumpedLayers s.mem (s.ctl.nw 0) (s.ctl.nlayers 0) (vrVersion s.mem (s.ctl.vr 0)) hd) = 1) := by decide +kernel

/-- Transfers of 4 bytes at the first and last place of the region, and one past it. -/
theorem witness_DataMovesInItsJob : let s := sv ses0
    (∀ a ∈ [0x10000000000, 0x10000001FFC],
      let h : MsgHdr := { hdr0 with length := 12 }
      let g : MsgHdr := { hdr0 with length := 16 }
      heard s h ses0 = true ∧ heard s g ses0 = true ∧ s.ctl.deadRange a = false ∧ plainHdr h (8 + 4) = true ∧ plainHdr g 16 = true ∧
      s.ctl.dataOk ses0 h (BitVec.ofNat 64 a) 4 = true ∧ s.ctl.dataOk ses0 g (BitVec.ofNat 64 a) 4 = true ∧ s.ctl.dev.sealed = false) ∧
    ((s.hostObsAll true [.arriveSlice 0 3]).2 = false ∧ (s.hostObsAll false (s.ctl.badObs [(0x10000001FFC, 4)] ++ [.arriveSlice 0 3])).2 = false) ∧
    s.ctl.copiesOf (0x10000001FFC, 4) = [] ∧
    s.ctl.inOneRegion 7 0x10000001FFC 8 = false ∧ (dev s fun d => { d with dstate := .retreat }).ctl.dev.dstate = .retreat := by decide +kernel

/-- A session with EVENT 1 unacknowledged. -/
theorem witness_EventAcknowledgement : let ses : Session := { ses0 with eseq := 1, unacked := [(1, .device 0 0 0)] }
    let s := sv ses
    let h : MsgHdr := { hdr0 with eseq := 1 }
    heard s h ses = true ∧ h.queue = 0xFFFF ∧ h.length = 0 ∧ ses.acked.toNat < h.eseq.toNat ∧ h.eseq.toNat ≤ ses.eseq.toNat ∧
    ses.keptComp = [] ∧ ses.keptDev = [] ∧ ses.state ≠ .closing ∧ (∀ e ∈ s.ctl.elo.sessions, e.1 = 0 → e.2 = ses) ∧
    s.ctl.slotOf ses.id = some 0 ∧ s.session? 0 = some ses ∧ s.ctl.dev.halted = false ∧
    (dev s fun d => { d with halted := true }).ctl.dev.halted = true := by decide +kernel

/-- A port with an address of each kind; a session with keys; the ends of ports and sessions. -/
theorem witness_HostPorts :
    (∀ v ∈ [0, 1], let s := (sv ses0).mapCtl fun c => (c.setFld (Addr.eloPip 0) 0 64 77).setFld (Addr.eloPcfg 0) 24 1 v
      s.ctl.powered = true ∧ (s.ctl.hport 0).state = .up ∧ s.ctl.portIp 0 ≠ 0 ∧ s.ctl.dev.dstate ≠ .safe ∧ s.ctl.portV4 0 = (v == 1) ∧ s.ctl.listens 0 = true) ∧
    ((sv ses0).ctl.live 0 3 = true) ∧
    (∀ st ∈ [HpState.up, .draining, .training, .down], let s := (sv ses0).mapCtl fun c =>
        { c with elo := { c.elo with ports := c.elo.ports.set 7 ⟨st, 0, [], 0⟩ }, links := { c.links with lasers := c.links.lasers.set 11 ⟨true, .on, false, false, 0⟩ } }
      (s.ctl.hport 7).state = st ∧ s.ctl.dev.dstate = .service ∧ s.ctl.powered = true ∧ s.ctl.bit (Addr.eloPcfg 7) 0 = true ∧
      (s.ctl.links.lasers[laserOfH 7]).state = .on) ∧
    (heard (sv ses0) hdr0 ses0 = true ∧ plainHdr hdr0 0 = true ∧ (sv ses0).session? 0 = some ses0 ∧
      (sv ses0).ctl.busySession 5 = false ∧ (withCmd (sv ses0) cmd0).ctl.busySession 5 = true) := by decide +kernel
/-- An MKA frame that the standard accepts under the session's key finds the session. -/
theorem witness_KeyAgreementMakesPeerLive (body : List Byte) :
    let ses : Session := { ses0 with keys := List.replicate 80 1, addrA := some ⟨0, 9, 7, 4⟩ }
    let s := sv ses
    ses.mkaAccepts 4 body = true → s.ctl.listens 0 = true ∧ ((s.ctl.hport 0).peers.filter fun m => m.mac ≠ 4).length < 64 ∧
      (s.ctl.elo.sessions.find? fun e => e.2.keys ≠ [] ∧ ofBe e.2.ckn = (BitVec.ofNat 128 (ofBe ses.ckn)).toNat ∧ e.2.fromMac 4 = true ∧
        e.2.mkaAccepts 4 body = true) = some (0, ses) := by
  intro ses s h
  refine ⟨by decide +kernel, by decide +kernel, ?_⟩
  have hs : s.ctl.elo.sessions = [(0, ses)] := by rfl
  rw [hs, List.find?_cons_of_pos]
  simp only [decide_eq_true_eq]
  exact ⟨by decide +kernel, by decide +kernel, by decide +kernel, h⟩

/-! ### Premises that are met: control space -/

/-- Reads of 1 and of 128 words of one block; versions the S4 keeps and does not keep. -/
theorem witness_ControlRegisters :
    (let s := sv ses0
     let h : MsgHdr := { hdr0 with length := 24 }
     (heard s h ses0 = true ∧ ses0.state = .admitted ∧ plainHdr h 24 = true ∧ Addr.hbmRgnLo 0 % 8 = 0) ∧
     (∀ n ∈ [1, 128], (blockOf (Addr.hbmRgnLo 0) n).isSome = true) ∧
     (let t : State := { s with snapVer := 2, prev := some s.ctl }
      (1 : BitVec 64) ≠ 0 ∧ (1 : BitVec 64) ≠ t.snapVer ∧ (1 : BitVec 64) = t.snapVer - 1 ∧ t.prev.isSome = true) ∧
     (s.prev.isNone = true ∧ s.snapVer = 0 ∧ (5 : BitVec 64) ≠ 0 ∧ (5 : BitVec 64) ≠ s.snapVer)) ∧
    (63 + 1 ≤ 64 ∧ 0 + 64 ≤ 64) := by decide +kernel

/-- A session without a transaction, one with transaction 6, and a write of PWR_CAP into it. -/
theorem witness_TransactionsBuildShadow :
    (let s := sv ses0
     let h : MsgHdr := { hdr0 with length := 16 }
     heard s h ses0 = true ∧ s.session? 0 = some ses0 ∧ s.ctl.sessionById ses0.id = some (0, ses0) ∧ plainHdr h 16 = true ∧
     ses0.state = .admitted ∧ ses0.txn = none ∧ s.ctl.committing 0 6 = false ∧ ses0.closedAs 6 = none) ∧
    (let x : OpenTxn := ⟨6, 0, []⟩
     let ses : Session := { ses0 with txn := some x, admin := true }
     let s := sv ses
     (let h : MsgHdr := { hdr0 with length := 16 }
      heard s h ses = true ∧ s.session? 0 = some ses ∧ s.ctl.sessionById ses.id = some (0, ses) ∧ x.id ≠ 7 ∧ s.ctl.committing 0 7 = false) ∧
     (∀ n ∈ [1, 64], let h : MsgHdr := { hdr0 with length := BitVec.ofNat 32 (16 + 16 * n) }
      let vals := (0x00C8, 0xFF) :: List.replicate (n - 1) ((0 : Word), (0 : Word))
      let ws := vals.zipIdx.map fun e => (Addr.pwrCap + 8 * e.2, e.1.1, e.1.2)
      let tx := (ws.map txPart).filter fun w => decide (w.2.2 ≠ 0)
      heard s h ses = true ∧ s.ctl.dev.sealed = false ∧ s.ctl.dev.dstate ≠ .retreat ∧ plainHdr h (16 + 16 * n) = true ∧ vals.length = n ∧
      (blockOf Addr.pwrCap n).isSome = true ∧ (ws.all fun w => w.2.2.toNat &&& ((access w.1).w1c ||| (access w.1).wo) == 0) = true ∧
      (tx.foldl OpenTxn.put x).shadow.length ≤ 4096 ∧ tx ≠ [])) := by decide +kernel

/-- A COMMIT without owning islands and one that the Guide's peers must prepare; a commit in each of its phases. -/
theorem witness_TwoPhaseCommits :
    (∀ a ∈ [Addr.relCfg, Addr.bcSliceCfg 3], let x : OpenTxn := ⟨6, 0, [(a, 10, 0x3E)]⟩
     let ses : Session := { ses0 with txn := some x, admin := true }
     let s := (sv ses).mapCtl fun c => c.setFld (Addr.jobA 0) 16 1 0
     let h : MsgHdr := { hdr0 with length := 16 }
     let ses1 : Session := { noted ses h with txn := none }
     let s1 := (base s h 0 ses).mapCtl fun c => c.setSession 0 ses1
     heard s h ses = true ∧ plainHdr h 16 = true ∧ x.id ≠ 0 ∧ ses.state = .admitted ∧ s.ctl.txn.running = none ∧ s.session? 0 = some ses ∧
     s1.commitRefusal 0 ses1 x = none ∧ (s1.ctl.commitIslands x).isEmpty = decide (a = Addr.relCfg)) ∧
    (∀ app ∈ [true, false], ∀ w ∈ [[Island.slice 3], [.slice 3, .slice 31]],
     let m : Commit := ⟨0, hdr0, ⟨6, 0, []⟩, [], w, app, []⟩
     let s := (sv ses0).mapCtl fun c => { c with txn := { c.txn with running := some m } }
     s.ctl.txn.running = some m ∧ Island.slice 3 ∈ m.waiting ∧ m.applying = app ∧
     (m.waiting.filter (· ≠ .slice 3) = [] ↔ w.length = 1)) := by decide +kernel

/-! ### Premises that are met: actions and attestation -/

def admin0 : Session := { ses0 with admin := true }
/-- A write of one word: of LM_CTL for LM11, and of SUM_CTL. -/
theorem witness_ActionWritesStartActions :
    (let h : MsgHdr := { hdr0 with length := 32 }
     let s := sv admin0
     heard s h admin0 = true ∧ plainHdr h 32 = true ∧ admin0.state = .admitted ∧ admin0.admin = true ∧ s.ctl.dev.dstate ≠ .retreat ∧
     actionRow (.lmRemoveReq h 11) = some (h, Addr.lmCtl, 2 ^ 11, 2 ^ 11) ∧ actionRow (.warmReset h) = some (h, Addr.sumCtl, 1, 1)) := by
  decide +kernel

def withSec (s : State) (f : Sec → Sec) : State := s.mapCtl fun c => { c with sec := f c.sec }
def withRel (s : State) (f : Rel → Rel) : State := s.mapCtl fun c => { c with rel := f c.rel }
def act (n : Nat) (st : Status) : Option Action := some ⟨n, st, [1], 0x10000000000⟩
def outOf (s : State) (a v : Nat) : State := s.mapCtl fun c => c.setFld a 0 2 v
theorem witness_ActionEffects_units :
    (let s := outOf (outOf (sv ses0) (Addr.bcSliceStat 31) 1) (Addr.hbmStat 11) 1
     s.ctl.sliceState (32 - 1) = 1 ∧ s.ctl.stackState (12 - 1) = 1 ∧ (outOf s (Addr.bcSliceStat 31) 2).ctl.sliceState 31 = 2 ∧
     (outOf s (Addr.hbmStat 11) 2).ctl.stackState 11 = 2) := by decide +kernel
theorem witness_ActionEffects :
    (let s := sv ses0
     s.ctl.sec.anchor = 0 ∧ s.ctl.dev.sealed = false ∧ (withSec s fun x => { x with anchor := 1 }).ctl.sec.anchor ≠ 0 ∧
     ((List.finRange 16).all fun p => !s.ctl.mportUp p) = true ∧ (dev s fun d => { d with sealed := true }).ctl.dev.sealed = true ∧
     s.ctl.secBusy = false ∧ s.ctl.sec.trial = false ∧ s.ctl.fwBootable (!s.ctl.sec.fwSlot) = true ∧ s.ctl.rel.psAct.isNone = true ∧
     (withSec s fun x => { x with rtAct := act 1 0 }).ctl.secBusy = true) := by decide +kernel
theorem witness_ActionsComplete (st : Status) (slot : Bool) (n : Nat) :
    (let s := withSec (sv ses0) fun x => { x with act := act n st, rtAct := act n st, fwSlot := slot }
     s.ctl.sec.act = act n st ∧ s.ctl.sec.rtAct = act n st ∧ s.ctl.sec.fwSlot = slot) ∧
    (withRel (sv ses0) fun x => { x with psAct := act n st, psTrial := true }).ctl.rel.psAct = act n st ∧
    (withRel (sv ses0) fun x => { x with psTrial := true }).ctl.rel.psTrial = true ∧ (sv ses0).ctl.dev.selfRefresh = false :=
  ⟨⟨rfl, rfl, rfl⟩, rfl, rfl, rfl⟩

/-- A held report; an ENCAP and a link secret that the standards accept. -/
theorem witness_AttestationAdmits : let r : HeldReport := ⟨3, 1, 0, []⟩
    let ses : Session := { admin0 with report := some r, state := .opened }
    let s := sv ses
    (let h : MsgHdr := { hdr0 with length := 48 }
     heard s h ses = true ∧ s.ctl.dev.dstate ≠ .retreat ∧ s.session? 0 = some ses ∧ plainHdr h 48 = true ∧ ses.report = some r ∧ r.nonce ≠ 4 ∧
     (withSec s fun x => { x with q := 2 ^ 40 }).ctl.leavesLeft = 0) ∧
    (let o : EncapObj := ⟨List.replicate 1568 0, 2, 0, List.replicate 60 0, [], 3⟩
     let h : MsgHdr := { hdr0 with length := 1652 }
     heard s h ses = true ∧ h.queue = 0xFFFF ∧ h.eseq = 0 ∧ o.role.toNat ≤ 2 ∧ o.rsvd = 0 ∧ o.ct.length = 1568 ∧ o.opkey.length = 60 ∧
     o.opsig.length ≤ 16384 ∧ partFits ses (1636 + o.opsig.length) h.length.toNat = true ∧
     partFits ses 8212 36 = !partFits ses 8192 36 ∧ r.nonce = o.nonce ∧ ses.state ≠ .closing ∧
     s.ctl.dev.sealed = false ∧ s.ctl.anchorOk o = true ∧ s.ctl.dev.dstate ≠ .boot) ∧
    (∀ p ∈ [0, 15], let o : LinkSecretObj := ⟨80, BitVec.ofNat 8 p, 0, 0x8001, 1, 0, 0, 0, 0⟩
     let h : MsgHdr := { hdr0 with length := 96 }
     heard (sv admin0) h admin0 = true ∧ h.queue = 0xFFFF ∧ h.eseq = 0 ∧ o.len = 80 ∧ h.length.toNat = 96 ∧ o.rsvd1 = 0 ∧ o.rsvd2 = 0 ∧ o.gen ≠ 0 ∧
     o.port.toNat < 16 ∧ admin0.state = .admitted ∧ admin0.admin = true) := by decide +kernel

/-! ### Premises that are met: units, lasers, resets, retreat -/

/-- Units in service and out; the journal on slices 7, 15 and 23; a region with one copy that is being restored. -/
theorem witness_UnitsLeaveAndReturn :
    (let s := sv ses0
     (∀ e ∈ s.ctl.rel.written, e.1 = UType.core → e.2.1 = 0 → False) ∧ s.ctl.powered = true ∧
     (∀ n ∈ [0, 383], s.ctl.coreOut n = false ∧ (outOf s (Addr.relCore n) 2).ctl.coreOut n = true) ∧
     s.ctl.sliceState 31 = 0 ∧ s.ctl.stackState 11 = 0 ∧ s.ctl.dev.stage < 3 ∧ s.ctl.dev.dstate ≠ .safe ∧ s.ctl.dev.dstate ≠ .off) ∧
    (let j := (sv ses0).ctl.jnl
     (j.mirror0 = 7 ∧ j.mirror1 ≠ 7 ∧ j.single = false ∧ j.standbyValid = true) ∧ (j.mirror0 ≠ 9 ∧ j.mirror1 ≠ 9 ∧ j.standby ≠ 9) ∧
     ({ j with standbyValid := false }).standbyValid = false ∧ ({ j with single := true }).single = true) ∧
    (let s := (sv ses0).mapJnl fun j => { j with remirror := true, standbyValid := false }
     s.ctl.jnl.remirror = true ∧ s.ctl.dev.jnlLost = false ∧ (s.ctl.jnl.rebuild (fun _ => false) fun _ => false).isSome = true ∧ s.ctl.dev.selfRefresh = false ∧
     s.ctl.slotBad s.ctl.jnl.mirror0 0 = false ∧ s.ctl.jnl.standbyValid = false ∧ s.ctl.standbySlice.isSome = true) ∧
    (∀ r ∈ [0, 255], let s := (sv ses0).mapCtl fun c => c.setFld (Addr.hbmRgnHi r) 18 1 1
     s.ctl.bit (Addr.hbmRgnHi r) 18 = true ∧ s.mem.wf = true) ∧
    (let c := (anchored0 (sv ses0).ctl).setFld (Addr.hbmStat 0) 0 2 1
     c.spareFor 0 0 = some 0 ∧ c.canRestore 0 = true ∧ c.pageSingle 0 = true) ∧
    (dev (sv ses0) fun d => { d with dstate := .retreat }).ctl.dev.dstate = .retreat ∧
    (((104 : BitVec 8).toNat < 105) ∧ 105 ≤ (105 : BitVec 8).toNat) := by decide +kernel

def lasers (s : State) (l : Laser) : State := s.mapCtl fun c => { c with links := { c.links with lasers := Vector.replicate 12 l } }
/-- A Meloend and a host laser module, drained, lit and dark, with an enabled port each. -/
theorem witness_LaserModules :
    (∀ k ∈ ([0, 7, 8, 11] : List LaserId), let s := lasers (sv ses0) ⟨true, .on, true, false, 0⟩
      (s.ctl.laser k).draining = true ∧ (s.ctl.laser k).state = .on ∧ (∀ p ∈ mportsOf k, (s.ctl.port p).retry = []) ∧
      (sv ses0).ctl.laser k = Laser.reset ∧ ((sv ses0).ctl.laser k).state ≠ .on) ∧
    ((sv ses0).ctl.dev.dstate ≠ .off ∧ (sv ses0).ctl.dev.dstate ≠ .boot ∧
      (dev (sv ses0) fun d => { d with dstate := .off }).ctl.dev.dstate = .off) ∧
    (let s := (sv ses0).mapCtl fun c => { c with links := { c.links with ports := Vector.replicate 16 { Port.reset with state := .down } } }
     (s.ctl.port 0).state ≠ .off ∧ s.ctl.pEn 0 = true ∧ (s.ctl.axisOf 0).isSome = true ∧ (s.ctl.port 0).state ≠ .up ∧
     ((sv ses0).ctl.hport 0).state ≠ .off ∧ (sv ses0).ctl.bit (Addr.eloPcfg 7) 0 = true ∧ ((sv ses0).ctl.hport 7).state ≠ .up) := by
  decide +kernel

def off (s : State) : State := dev s fun d => { d with dstate := .off }
def boot (s : State) (n : Nat) : State := dev s fun d => { d with dstate := .boot, bootStep := n, boot := .cold }
/-- Resets that may and may not be taken; power-on from OFF; each step of BOOT. -/
theorem witness_ResetsAndStartUp :
    (let s := sv ses0
     s.ctl.pins.armed = true ∧ s.ctl.mayReset = true ∧ (off s).ctl.mayReset = false ∧ s.ctl.coll.ops = [] ∧ s.ctl.rel.runs = [] ∧
     (∀ e ∈ s.ctl.elo.sessions, e.1 < 1024) ∧ (∀ e ∈ s.ctl.book.items.sessions, e.1 < 1024)) ∧
    ((off (sv ses0)).ctl.dev.dstate = .off ∧ (sv ses0).ctl.dev.dstate ≠ .off) ∧
    (PowerGood { (sv ses0).ctl.pins with pwrEn := true } ∧ PowerGood { (sv ses0).ctl.pins with pwrEn := true, pwrOk := true, vinRange := true } ∧
     PowerGood { (sv ses0).ctl.pins with offHold := false } ∧ PowerGood { (sv ses0).ctl.pins with aux := true } ∧
     ¬ PowerGood { (sv ses0).ctl.pins with over60 := true }) ∧
    (∀ n ∈ [3, 4, 5, 6], let s := lasers (boot (sv ses0) n) ⟨true, .presentOff, false, false, 0⟩
     s.ctl.dev.dstate = .boot ∧ s.ctl.dev.bootStep = n ∧ s.ctl.dev.boot ≠ .warm ∧ s.ctl.dev.stage = 0 ∧
     s.ctl.bit (Addr.eloPcfg 7) 0 = true ∧ (s.ctl.laser (laserOfH 7)).present = true) ∧
    (let s := dev ((boot (sv ses0) 6).mapCtl fun c => c.setFld (Addr.jobF 0) 0 1 0) fun d => { d with boot := .warm }
     s.ctl.dev.boot = .warm ∧ s.ctl.jnl.cmds.length = 0 ∧ ∀ j ∈ List.range 16, s.ctl.bit (Addr.jobF j) 0 = false) ∧
    (UnitRef.guide 0 ∈ [UnitRef.guide 0, .guide 1] ∧ UnitRef.guide 1 ∈ [UnitRef.guide 0, .guide 1] ∧
     UnitRef.laser 11 ∉ [UnitRef.guide 0] ∧ UnitRef.hport 7 ∉ [UnitRef.guide 0]) := by
  refine ⟨by decide +kernel, by decide +kernel, ?_, by decide +kernel, by decide +kernel, by decide +kernel⟩
  simp only [PowerGood]; decide +kernel

def stage (s : State) (n : Nat) (d p : DState) : State := dev s fun x => { x with stage := n, dstate := d, prev := p }
/-- Each stage that a row starts from, and the states held before. -/
theorem witness_RetreatLadder :
    (∀ d ∈ [DState.admitted, .service, .degraded], admitting (stage (sv ses0) 0 d .boot).ctl.dev.dstate = true ∧
      (stage (sv ses0) 0 d .boot).ctl.dev.stage = 0) ∧
    (∀ n ∈ [1, 2], ∀ p ∈ [DState.admitted, .service, .degraded], let s := outOf (stage (sv ses0) n .retreat p) (Addr.relCore 383) 2
      s.ctl.dev.stage = n ∧ s.ctl.dev.dstate = .retreat ∧ s.ctl.dev.prev = p ∧ s.ctl.unitsOut = true ∧ s.ctl.dev.leftRetreat = false ∧
      (dev s fun d => { d with leftRetreat := true }).ctl.dev.leftRetreat = true) ∧
    (stage (sv ses0) 0 .boot .boot).ctl.dev.dstate = .boot ∧ (off (sv ses0)).ctl.dev.dstate = .off ∧ (sv ses0).ctl.dev.dstate ≠ .off := by
  decide +kernel

/-- Both Guide cores in service, halted for their self-test, and one of them alone. -/
theorem witness_GuideAndSafe : let s := sv ses0
    (s.ctl.powered = true ∧ s.ctl.dev.guideA = true ∧ s.ctl.dev.guideB = true ∧ s.ctl.dev.dstate ≠ .off ∧ s.ctl.dev.dstate ≠ .safe ∧
     s.ctl.dev.stage < 3) ∧
    (dev s fun d => { d with halted := true }).ctl.dev.halted = true ∧
    (dev s fun d => { d with guideB := false }).ctl.dev.guideA ≠ (dev s fun d => { d with guideB := false }).ctl.dev.guideB := by decide +kernel

/-! ### Premises that are met: the book, probes, power -/

/-- A device that writes its book, with a waiting record and a checkpoint being written; reads of the management port. -/
theorem witness_BookAndManagement :
    (let s := withRel (sv ses0) fun x => { x with waiting := [(sv ses0).ctl.cairn 6 .core 0 0 []] }
     s.ctl.writesBook = true ∧ s.ctl.rel.waiting.head?.isSome = true ∧ s.ctl.book.writing = none ∧ (off s).ctl.writesBook = false ∧
     (let k : Ckpt := ⟨4, s.ctl.book.items⟩
      let b : Book := { s.ctl.book with writing := some (true, k), log := [⟨5, s.ctl.book.items⟩, ⟨4, s.ctl.book.items⟩], tail := false, ckptA := k }
      b.writing = some (true, k) ∧ b.ckptB.bseq < b.ckptA.bseq ∧ b.log.head?.map (·.bseq) = some 5 ∧ b.tail = false ∧
      ({ b with log := [k] }.log.all fun e => decide (e.bseq ≤ 4)) = true ∧ ({ b with tail := true }).tail = true)) ∧
    (let s := sv ses0
     s.ctl.pins.aux = true ∧ s.ctl.mgmt.pending = none ∧
     (∀ n ∈ [1, 30], Addr.sumStat % 8 = 0 ∧ (blockOf Addr.sumStat n).isSome = true ∧ mgmtOpen Addr.sumStat n = true) ∧
     mgmtOff Addr.sumStat 1 = false ∧ mgmtOpen Addr.pwrCap 1 = false ∧ (blockOf Addr.pwrCap 1).isSome = true) ∧
    (∀ q ∈ [2 ^ 19, 2 ^ 20 - 1], let s := withSec (sv ses0) fun x => { x with q := q }
     s.ctl.powered = true ∧ 2 ^ 19 ≤ s.ctl.sec.q % 2 ^ 20 ∧ s.ctl.sec.tree ≤ s.ctl.sec.q / 2 ^ 20) ∧
    (withSec (sv ses0) fun x => { x with q := 2 ^ 19 - 1 }).ctl.sec.q % 2 ^ 20 < 2 ^ 19 := by decide +kernel

/-- A probe set of one program and two points, the first in service and the second on the edge. -/
def probeSet : List Byte := (List.range 128).map fun i => if i ∈ [0x6, 0x8] then 1 else if i = 0x10 then 2 else if i = 0x44 then 0xFB else 0
def probeRun0 (w : Bool) (p : Nat) : ProbeRun :=
  { core := 383, release := false, slot := false, set := probeSet, trial := false, number := 1, waiting := w, prog := 0, res := []
    esc := false, point := p, fails := 0, suspect := 0, due := 0, first := none }
def bad0 : ProbeProg := ⟨5, [], [], false⟩
/-- Core 383 under the thermal limit, 30 steps down. -/
def setLim (s : State) : State := s.mapCtl fun c => c.setClk 383 fun k => { k with therm := 30 }
theorem witness_ProbeRuns :
    (let s := withRel (sv ses0) fun x => { x with psImg := x.psImg.set 0 (some probeSet) }
     s.ctl.mayProbe = true ∧ s.ctl.mayRelease = true ∧ (dev s fun d => { d with dstate := .retreat }).ctl.mayProbe = false ∧ s.ctl.rel.runs.length < 2 ∧ s.ctl.bit Addr.relCfg 0 = true ∧ s.routineCore 383 = true ∧
     ((List.range 384).all fun n => decide (s.ctl.hoursSince n ≤ s.ctl.hoursSince 383)) = true ∧ s.ctl.rel.owed.contains 383 = false ∧
     s.ctl.coreOut 383 = false ∧
     (let t := withRel (outOf s (Addr.relCore 383) 2) fun x => { x with owed := [383] }
      t.ctl.mayRelease = true ∧ t.ctl.rel.owed.contains 383 = true ∧ t.ctl.coreOut 383 = true)) ∧
    (∀ w ∈ [true, false], ∀ p ∈ [0, 1], let r := probeRun0 w p
     let s := withRel (sv ses0) fun x => { x with runs := [r], psImg := x.psImg.set 0 (some probeSet) }
     let b := r.set
     (s.ctl.rel.runs.find? fun r => r.core = 383 ∧ r.waiting = w) = some r ∧ (s.ctl.rel.runs.find? fun r => r.core = 383) = some r ∧
     s.ctl.mayProbe = true ∧ s.ctl.pointLimited 383 (psPoint b r.point) = false ∧ r.trial = false ∧ s.ctl.rel.psTrial = false ∧ r.release = false ∧ r.due = 0 ∧ r.first = none ∧ (r.point + 1 < psNpoint b ↔ p = 0) ∧
     pointPass b (observed r.res [⟨0, psSigs b 0, psFlags b 0, psExpect b 0⟩]) = true ∧ pointPass b (observed r.res [bad0]) = false ∧
     (setLim s).ctl.pointLimited 383 (psPoint b r.point) = true ∧ psClass (psPoint b 0) = 0 ∧ psClass (psPoint b 1) ≠ 0 ∧
     detectorFails b (observed r.res [bad0]) = false) := by decide +kernel

def withPow (s : State) (f : Power → Power) : State := s.mapCtl fun c => { c with pow := f c.pow }
def reading0 (ma : Int) : PwrReading := ⟨true, 48000, ma, 600, []⟩
theorem witness_PowerGovernor :
    (let d : Demand := ⟨10, 20, 5, 30⟩
     (0 ≤ d.ports ∧ 0 ≤ d.mem ∧ 0 ≤ d.vec ∧ 0 ≤ d.arr) ∧ (0 : Rat) ≤ 240 / 1 - 50 - d.ports ∧ (50 : Rat) / 1 - 50 - d.ports ≤ 0 ∧
     (0 : Rat) ≤ tdpMost.mem ∧ (0 : Rat) ≤ tdpMost.vec ∧ (0 : Rat) ≤ tdpMost.arr ∧
     (∀ m ∈ [none, some tdpMost], atMost (m.map (·.mem)) d.mem + atMost (m.map (·.vec)) d.vec + atMost (m.map (·.arr)) d.arr ≤
       (240 : Rat) / 1 - 50 - d.ports)) ∧
    ((sv ses0).ctl.dev.dstate ≠ .off ∧ (off (sv ses0)).ctl.dev.dstate = .off ∧
     (dev (sv ses0) fun d => { d with dstate := .retreat }).ctl.dev.dstate ≠ .off) ∧
    (∀ ma ∈ [0, 75000], (reading0 ma).present = true ∧ 0 ≤ (reading0 ma).currMa ∧ (reading0 ma).currMa ≤ 75000 ∧ (reading0 ma).shares = [] ∧
      ({ reading0 ma with present := false }).present = false) ∧
    ((sv ses0).ctl.pow.measFault = false ∧ (sv ses0).held.length = 0 ∧ (sv ses0).ctl.pow.coreUj.length = 0 ∧ (reading0 (-1)).currMa < 0 ∧ 75000 < (reading0 75001).currMa) ∧
    (let s := withPow (sv ses0) fun p => { p with measFault := true, valid := 100 }
     s.ctl.pow.measFault = true ∧ 100 ≤ s.ctl.pow.valid) ∧
    (let s := withPow (sv ses0) fun p => { p with k := 1, samples := 200, sumM := 66000, sumLoad := 60000 }
     s.ctl.pow.measFault = false ∧ 0 < s.ctl.pow.samples ∧ 300 * (s.ctl.pow.samples : Rat) ≤ s.ctl.pow.sumM ∧ s.ctl.pow.sumLoad ≠ 0 ∧
     1 ≤ s.ctl.pow.k + (s.ctl.pow.sumM / s.ctl.pow.sumLoad - s.ctl.pow.k) / (if s.ctl.pow.untrusted then 2 else 8) ∧
     s.ctl.pow.k + (s.ctl.pow.sumM / s.ctl.pow.sumLoad - s.ctl.pow.k) / (if s.ctl.pow.untrusted then 2 else 8) ≤ 5 / 4 ∧
     ({ s.ctl.pow with sumM := 0 }).sumM < 300 * (s.ctl.pow.samples : Rat) ∧ (sv ses0).ctl.pow.samples = 0) ∧
    (let p := (withPow (sv ses0) fun p => { p with disagree := 20, missed := 2500, kept := 25000 }).ctl.pow
     p.untrusted = false ∧ p.measFault = false ∧ 20 ≤ p.disagree ∧ 2500 ≤ p.missed ∧ p.fallback = false ∧ 25000 ≤ p.kept) ∧
    (let p := (withPow (sv ses0) fun p => { p with untrusted := true, agree := 2000, fallback := true, disagree := 19, missed := 2499, kept := 24999 }).ctl.pow
     p.untrusted = true ∧ 2000 ≤ p.agree ∧ p.fallback = true ∧ p.disagree < 20 ∧ p.missed < 2500 ∧ p.kept < 25000 ∧
     (sv ses0).ctl.pow.agree < 2000) := by decide +kernel

/-- Temperatures below the limit; an island at it. -/
theorem witness_DroopAndTemperature : let s := sv ses0
    s.ctl.dev.dstate ≠ .off ∧ s.ctl.atPoint 383 = none ∧ (off s).ctl.dev.dstate = .off ∧ (Island.slice 0 ≠ .guide ∧ ∀ c, Island.slice 0 ≠ .core c) ∧
    (([(Island.core 383, (379 : Int))] : List (Island × Int)).find? tooHot).isNone = true ∧ (379 : Int) < 380 ∧ s.ctl.rel.runs.length = 0 ∧ s.ctl.dev.stage < 3 ∧
    (([(Island.core 383, (460 : Int))] : List (Island × Int)).find? tooHot).isSome = true ∧ 4 * ((s.ctl.fld Addr.pwrTherm 8 8 : Nat) : Int) = 400 := by
  decide +kernel

/-! ### Premises that are met: Meloend ports -/

def withPort (s : State) (p : MPort) (f : Port → Port) : State := s.mapCtl fun c => c.setPort p (f (c.port p))
/-- A ring of four on X: port 7 expects the device at X = 1 on its port of role 1. -/
def ring4 (s : State) : State := s.mapCtl fun c => c.setFld Addr.mlkAxis 4 4 3
def training (t : Training) : State := withPort (ring4 (sv ses0)) 7 fun v => { v with state := .training, train := t }
theorem witness_PortTraining_lock : ((training ⟨false, false, false, false, false⟩).ctl.port 7).state = .training ∧
    10 ^ 10 ≤ 10 ^ 10 ∧ 2400000 * 100000 ≤ 24 * 10 ^ 10 ∧ 24 * 10 ^ 10 < 2400001 * 100000 ∧
    seqRow (.echo 7 { flit0 with lseq := 1 } (.echo 4)) = some (7, { flit0 with lseq := 1 }, .inl (.echo 4)) ∧
    trainingBad flit0.toFlitHdr .credit = false ∧ trainingBad { flit0.toFlitHdr with rsvd := 1 } .credit = true ∧
    trainingBad flit0.toFlitHdr (.other []) = true ∧ (∀ x ∈ [((5 : BitVec 3), (0 : BitVec 2)), (0, 3)],
      lctlBad (.linkHello 1 1 0 0 x.1 x.2 0 false false) = true) ∧ lctlBad (.linkHello 1 1 0 0 4 2 0 false false) = false := by decide +kernel
theorem witness_PortTraining_hello : let s := training ⟨true, false, false, false, false⟩
    let v := s.ctl.port 7
    v.train.lock = true ∧ v.train.hello = false ∧ s.ctl.neighbour 7 = some (0x100, 1) ∧ s.ctl.neighbour 7 ≠ some (0x200, 1) ∧
    s.ctl.pAxis 7 = 2 ∧ v.secret.isNone = true := by decide +kernel
theorem witness_PortTraining_echo : ∀ r ∈ [true, false], ∀ e ∈ [true, false], let s := training ⟨true, true, r, e, false⟩
    let v := s.ctl.port 7
    v.state = .training ∧ v.train.lock = true ∧ v.train.hello = true ∧ v.train.rtt = r ∧ v.train.echoed = e ∧ s.ctl.mustEncrypt 7 = true ∧
    (s.mapCtl fun c => c.setFld Addr.mlkLcfg 0 1 0).ctl.mustEncrypt 7 = false := by decide +kernel
theorem witness_PortTraining_key : let s := withPort (training ⟨true, true, true, true, false⟩) 7 fun v =>
      { v with echoTok := some 6, secret := some ⟨0x100, 1, 2⟩, myNonce := some 3 }
    (s.ctl.port 7).echoTok = some 6 ∧ (s.ctl.port 7).secret = some ⟨0x100, 1, 2⟩ ∧ (s.ctl.port 7).myNonce = some 3 := by decide +kernel
/-- The tag of a KEY_MSG that agrees; a message of another generation does not. -/
theorem witness_PortTraining_tag (ls : LinkSecret) (b : List Byte) :
    (ls.tag b).toNat = ofBe (hmac (beBytes 32 ls.key.toNat) b) % 2 ^ 256 ∧ ls.gen + 1 ≠ ls.gen :=
  ⟨BitVec.toNat_ofNat _ _, by bv_omega⟩
theorem witness_PortTraining_retry : let s := withPort (ring4 (sv ses0)) 7 fun v => { v with state := .down }
    (s.ctl.port 7).state = .down ∧ s.ctl.pEn 7 = true ∧ (s.ctl.axisOf 7).isSome = true := by decide +kernel

/-- Port 7 UP with credits granted and left, and one flit that waits for its acknowledgement; it encrypts as far as a test says. -/
def upPort : Port :=
  { Port.reset with state := .up, credits := Vector.replicate 4 1, grant := Vector.replicate 4 64, lseq := 1, owed := Vector.replicate 4 2
                    retry := [⟨trainHdr, .lctl .credit, 0, 6⟩], secret := some ⟨0x100, 1, 2⟩ }
def up (f : Port → Port) : State := withPort (ring4 (sv ses0)) 7 fun _ => f upPort
def key0 (n : Nat) (next : Option Word) : DirKey := ⟨List.replicate 36 1, n, next⟩
def sealing (k : DirKey) : State := up fun v => { v with enc := true, txKey := some k, rxKey := some k }
def flitC : RxFlit := { flit0 with ftype := 1, vc := 0 }
/-- How reception ends for flits of a kind. -/
def ends (s : State) (f : RxFlit) (ft : BitVec 4) : RxEnd := ((s.ctl.port 7).rx f ft).2
/-- Every way in which reception ends; a reserved value; the packet of two flits and one whose second flit comes first. -/
theorem witness_SequencedReception : let s := up id
    let v := s.ctl.port 7
    (v.carries = true ∧ v.queue.length = 0 ∧ v.nakSent = false ∧ ((up fun v => { v with nakSent := true }).ctl.port 7).nakSent = true) ∧
    (seqRow (.credit 7 ⟨flit0, .credit⟩) = some (7, flit0, .inl .credit) ∧ contentBad v flit0 (.inl .credit) = false ∧ contentBad v flit0 (.inl (.other [])) = true ∧
     contentBad v flitC (.inr (pkt .ready)) = false ∧ contentBad v { flitC with eop := false } (.inr (pkt .ready)) = true) ∧
    (ends s flit0 2 = .ok ∧ ends s { flit0 with rsvd := 1 } 2 = .bad ∧ ends s { flit0 with lseq := 0x1FFF } 2 = .gap ∧
     ends s { flit0 with lseq := 0x2000 } 2 = .copy) ∧
    (let h (i : Nat) : FlitHdr := { flitC.toFlitHdr with lseq := BitVec.ofNat 14 i, sop := i == 0, eop := i == 1 }
     ends s { h 1 with before := [h 0], seals := 0 } 1 = .ok ∧ ends s { h 1 with before := [], seals := 0 } 1 = .gap ∧
     ends s { { h 1 with lseq := 0 } with before := [], seals := 0 } 1 = .bad) ∧
    (v.flitBad flit0.toFlitHdr 2 = false ∧ v.flitBad { flit0.toFlitHdr with lseq := 1 } 2 = false) := by decide +kernel
theorem witness_ControlFlits : let s := up id
    let v := s.ctl.port 7
    (ends s flit0 2 = .ok ∧ v.maySend = true ∧ v.enc = false ∧ s.ctl.devid ≠ 0x100 ∧ (2 : BitVec 8).toNat ≤ 4 ∧
     (s.ctl.links.ring.find? fun x => x.origin = 0x100 ∧ x.axis = 2).isNone = true ∧
     (s.ctl.links.wmap.find? fun x => x.origin = 0x100 ∧ x.axis = 0).isNone = true ∧ newer 4 3 = true ∧ newer 3 3 = false ∧
     ((v.rx flit0 2).1).credits[3] = 1 ∧ ((v.rx flit0 2).1).inflight < 4096) ∧
    (let k := key0 5 none
     let v := (sealing k).ctl.port 7
     v.carries = true ∧ v.enc = true ∧ v.txKey = some k ∧ k.room = true ∧ ends (sealing k) flit0 2 = .ok) := by decide +kernel
theorem witness_LinkMaintenance :
    (let v := (up id).ctl.port 7
     v.flitBad { trainHdr with ftype := 3, lseq := 1 } 3 = true ∧ v.flitBad (FlitHdr.plain 3) 3 = false ∧ v.flitBad (FlitHdr.plain 0) 0 = false ∧
     v.flitBad { FlitHdr.plain 0 with lseq := 1 } 0 = true ∧ (∀ e ∈ v.retry, e.resent < 7) ∧ v.inflight ≠ 0 ∧
     (∀ e ∈ v.retry, seqBefore e.hdr.lseq (v.resendAt v.oldest) = false ∧ e.resent < 7) ∧
     (let v := (up fun v => { v with retry := [⟨trainHdr, .lctl .credit, 0, 7⟩] }).ctl.port 7
      ∃ e ∈ v.retry, seqBefore e.hdr.lseq (v.resendAt v.oldest) = false ∧ 7 ≤ e.resent) ∧
     v.owed.any (· != 0) = true ∧ 1 ≤ v.credits[3] ∧ v.inflight < 4096 ∧ v.enc = false ∧ v.rxKey.isNone = true) ∧
    (∀ c ∈ [0, 2 ^ 32 - 4096], let k := key0 c none
     ((sealing k).ctl.port 7).txKey = some k ∧ k.nextAt = none ∧ k.groups + 4096 ≤ 2 ^ 32) ∧
    (key0 0 (some 9)).nextAt ≠ none ∧ (999 < 1 * 1000 ∧ 1 * 1000 ≤ 1000) := by decide +kernel
/-- R343: the next key at its group counter, and not before. -/
theorem test_next_key : ((key0 8 (some 10)).advance).groups = 9 ∧ ((key0 9 (some 10)).advance).groups = 0 := by decide +kernel
theorem witness_FlitsOnTheWire : (List.replicate 256 (0 : Byte)).length = 256 ∧ (key0 0 none).groups < 2 ^ 64 := by decide +kernel

/-! ### Premises that are met: collectives -/

/-- Job 7 has the collective entry 0 in axis mode; this S4 has rank n on the X ring of four, whose group is 2. -/
def cv (n : Nat) : State := (up id).mapCtl fun c => (((c.setFld (Addr.collJobLo 0) 0 16 7).setFld (Addr.collJobLo 0) 16 1 1).setFld (Addr.collJobLo 0) 17 1 0).setFld Addr.mlkCoord 8 4 n
def grp0 (n : Nat) : Group := ⟨66, 4, n, false, 2, 0, 0⟩
def stream0 : Desc := ((Vector.replicate 4 (0 : Word)).set 0 (BitVec.ofNat 64 (0x10000000000 + 2 ^ 48 + 4 * 2 ^ 50))).set 1 64
/-- An ALLGATHER of 64 bytes from each member, open. -/
def op0 (n opc : Nat) : GroupOp :=
  { key := ⟨2, 7, 0⟩, grp := grp0 n, cmd := ⟨5, 0, 0⟩, logical := 0, core := some 0, phase := 0, opc := opc, dtype := 0, count := 64, root := 0
    cap := 64, seed := 0, stream := 0, anchor := 0, scales := [], lens := [], lensAt := 0x10000001000, doneAt := 0x10000001800, counter := some 0x10000001820, cinc := 3, dhash := 9
    src := some stream0, dst := some (stream0.set 1 256), station := none, attempt := 0, retries := 0, openAt := 0, opens := [], outq := []
    pidxOut := [], pidxIn := [], sent := 0, spans := [], passed := [], written := [], rlens := [], ready := [], readySent := false, nsat := 0
    ndrop := 0, probed := [], lastWait := none, charged := [], waitNs := 0, leaving := none, told := false, decided := none }
def withOp (s : State) (o : GroupOp) : State := s.mapColl fun x => { x with ops := [o] }
def cpkt (n src : Nat) (b : CollBody) : CollPkt :=
  { dst := BitVec.ofNat 15 (n * 256), job := 7, vc := 0, dir := 0, xpd := false, uturn := false, hops := 0
    hdr := { chdr0 with group := 2, seq := 0, dhash := 9, srcRank := BitVec.ofNat 16 src, nunits := 64, origin := BitVec.ofNat 16 src }, body := b }
/-- The one flit of a packet. -/
def flitFor (k : CollPkt) : RxFlit := { flitC with vlen := k.vlen }
def arrives (s : State) (k : CollPkt) : Bool :=
  (s.ctl.port 7).carries && decide (((s.ctl.port 7).rx (flitFor k) 1).2 = .ok) && !(s.ctl.port 7).endBad (flitFor k) k &&
  k.dst == s.ctl.devid && !s.ctl.dev.selfRefresh && (s.ctl.collJob k.job.toNat).isSome
theorem arrives_iff {s : State} {k : CollPkt} (h : arrives s k = true) :
    Arrives s 7 (flitFor k) k ((s.ctl.port 7).rx (flitFor k) 1).1 := by
  simp only [arrives, Bool.and_eq_true, Bool.not_eq_true', beq_iff_eq, decide_eq_true_eq] at h
  exact ⟨⟨h.1.1.1.1.1, Prod.ext rfl h.1.1.1.1.2, h.1.1.1.2⟩, h.1.1.2, h.1.2, h.2⟩
/-- No command runs that the host has pre-empted; one does. -/
theorem witness_NonePreempted : NonePreempted (cv 0) ∧
    ((withCmd (cv 0) { cmd0 with doom := some stPREEMPTED }).ctl.jnl.cmds.any fun m => m.phase == .running && m.doom == some stPREEMPTED) = true :=
  ⟨fun _ h => (nomatch h), by decide +kernel⟩

theorem witness_PacketsForwardOrDrop : let k := cpkt 0 1 .ready
    (let s := cv 0
     arrives s k = true ∧ seqRow (.collReady 7 (flitFor k) k 0) = some (7, flitFor k, .inr k) ∧ (cpkt 1 1 .ready).dst ≠ s.ctl.devid ∧
     s.ctl.collJob 8 = none ∧ (cpkt 0 1 .ready).dst = s.ctl.devid ∧ (dev s fun d => { d with selfRefresh := true }).ctl.dev.selfRefresh = true ∧
     (match s.ctl.forward (cpkt 1 1 .ready) none with | .out p k' => decide (p = 7 ∧ k'.hops ≠ 63) | _ => false) = true ∧
     (match s.ctl.forward { cpkt 1 1 .ready with hops := 63 } none with | .out p k' => decide (p = 7 ∧ k'.hops = 63) | _ => false) = true ∧
     (s.ctl.port 7).queue.length = 0 ∧ (s.ctl.port 7).enc = false ∧ (s.ctl.port 7).canSend (.coll (cpkt 1 1 .ready) k none) = true ∧
     (match (withPort s 7 fun v => { v with state := .down }).ctl.forward (cpkt 1 1 .ready) none with | .unreach => true | _ => false) = true) := by
  decide +kernel

theorem witness_DataPackets :
    (let k := cpkt 1 2 (.open 0)
     let o := op0 1 5
     let s := withOp (cv 1) o
     arrives s k = true ∧ (s.op? (keyOf k)).isSome = true ∧ o.decided.isNone = true ∧ k.hdr.attempt.toNat = o.attempt ∧ o.agrees k = true ∧
     o.leaving = none ∧ o.opens.contains (srcOf k) = false ∧ o.dataTo.contains (srcOf k) = true ∧ o.agrees (cpkt 1 2 (.open 1)) = false ∧
     o.grp.rank ≠ 0 ∧ ((cv 1).op? (keyOf k)).isNone = true ∧ (cv 1).ctl.opPassed (keyOf k) = false) ∧
    (let bs := List.replicate 64 (7 : Byte)
     let k := cpkt 1 0 (.data bs)
     let o := op0 1 5
     let s := withOp (cv 1) o
     arrives s k = true ∧ (s.opFor k).isSome = true ∧ o.agrees k = true ∧ (o.pidxFrom 0).look k.hdr.pidx.toNat = 0 ∧
     o.dataFits k.hdr bs = true ∧ o.opc = 5 ∧ ((o.markPidx 0 0).pidxFrom 0).look 0 = 1 ∧ (o.pidxFrom 0).look 4096 = 0 ∧
     (o.pidxFrom 0).look 4097 = 2 ∧ s.ctl.hbmUsed.filter s.ctl.anchored = []) ∧
    (let k := cpkt 0 2 .ready
     let o := op0 0 5
     arrives (withOp (cv 0) o) k = true ∧ ((withOp (cv 0) o).opFor k).isSome = true ∧ o.grp.children.contains 2 = true ∧ o.ready.contains 2 = false) ∧
    (∀ n ∈ [0, 64], let k := cpkt 1 2 (.length (BitVec.ofNat 32 n) 0)
     let o := op0 1 6
     arrives (withOp (cv 1) o) k = true ∧ ((withOp (cv 1) o).opFor k).isSome = true ∧ o.opc = 6 ∧ o.dataFrom.contains 2 = true ∧
     o.rlen 2 = none ∧ n ≤ o.cap) := by decide +kernel

theorem witness_ControlPackets :
    (∀ b ∈ [true, false], let o := { op0 1 5 with readySent := b }
     let k := cpkt 1 0 .commit
     arrives (withOp (cv 1) o) k = true ∧ ((withOp (cv 1) o).opFor k).isSome = true ∧ o.readySent = b) ∧
    (let k := cpkt 1 0 (.finish stOK noRank)
     arrives (cv 1) k = true ∧ ((cv 1).op? (keyOf k)).isNone = true ∧ (cv 1).ctl.opPassed (keyOf k) = false ∧
     ((cv 1).ctl.coll.early? (keyOf k)).decided.isNone = true ∧ (cv 1).ctl.opPassed ⟨2, 7, 0xFFFFFFFF⟩ = true) ∧
    (let k := cpkt 0 2 (.report kSTALL 3)
     let o := op0 0 5
     let s := withOp (cv 0) o
     arrives s k = true ∧ arrives (cv 0) k = true ∧ (s.ctl.group 7 2).map (·.rank) = some 0 ∧ (s.ctl.group 7 2).map (·.size) = some 4 ∧ srcOf k < 4 ∧
     (s.op? (keyOf k)).isSome = true ∧ o.attempt ≤ k.hdr.attempt.toNat ∧ o.retries < s.ctl.fld Addr.collCfg 14 3 ∧
     s.ctl.fld Addr.collCfg 14 3 ≤ ({ o with retries := 3 }).retries ∧ ((cv 1).ctl.group 7 2).map (·.rank) = some 1 ∧
     (let e := (cv 0).ctl.coll.early? (keyOf k)
      ((cv 0).op? (keyOf k)).isNone = true ∧ ((cv 0).ctl.coll.past? (keyOf k)).isNone = true ∧ (cv 0).ctl.opPassed (keyOf k) = false ∧
      e.decided.isNone = true ∧ e.attempt ≤ k.hdr.attempt.toNat ∧ e.attempt < s.ctl.fld Addr.collCfg 14 3)) ∧
    (let k := cpkt 1 0 .retry
     let o := op0 1 5
     arrives (withOp (cv 1) o) k = true ∧ k.hdr.attempt.toNat ≤ o.attempt ∧
     o.attempt < ({ k with hdr := { k.hdr with attempt := 1 } }).hdr.attempt.toNat) ∧
    (let k := cpkt 1 0 .probe
     arrives (withOp (cv 1) { op0 1 5 with attempt := 1 }) k = true ∧ k.hdr.attempt.toNat < ({ op0 1 5 with attempt := 1 }).attempt) ∧
    (∀ st ∈ [0, 1, 2, 3], let k := cpkt 1 2 (.probeReply (BitVec.ofNat 8 st) 0 9)
     let o := op0 1 5
     arrives (withOp (cv 1) o) k = true ∧ ((withOp (cv 1) o).opFor k).isSome = true ∧ o.dhash = 9) := by decide +kernel

theorem witness_ReadyAndStall :
    (∀ n ∈ [0, 1], let o := { op0 n 7 with ready := [1, 2] }
     let s := withOp (cv n) o
     (s.op? ⟨2, 7, 0⟩).isSome = true ∧ s.readyNow o = true ∧ o.readySent = false ∧ o.grp.rank = n ∧ s.ctl.dev.selfRefresh = false) ∧
    (let o := op0 0 7
     (withOp (cv 0) o).readyNow o = false ∧ o.awaited 2 = some 2 ∧ o.awaited 3 = none ∧ o.probed.contains 2 = false ∧
     ({ o with probed := [2] }).probed.contains 2 = true) ∧
    (let o := { op0 2 7 with readySent := true, probed := [0] }
     o.awaited 0 = some 0 ∧ o.probed.contains 0 = true) := by decide +kernel

theorem witness_DecisionsEndInOrder : let o := op0 1 5
    let s := withOp (cv 1) o
    (s.op? o.key).isSome = true ∧ o.decided.isNone = true ∧ (s.ctl.coll.ops.all fun q => q.key = o.key) = true ∧
    o.key.seq = s.ctl.coll.next o.grp ∧ (s.ctl.collJob 8).isNone = true ∧ o.counter = some (o.doneAt + 32) ∧ s.ctl.hbmUsed.filter s.ctl.anchored = [] ∧
    (let o := { o with key := { o.key with seq := 1 } }
     o.key.seq ≠ s.ctl.coll.next o.grp ∧ o.decided.isNone = true) ∧
    (let s := (cv 1).mapColl fun x => x.setEarly ⟨o.key, 1, some (stOK, noRank)⟩
     (s.ctl.coll.early? o.key).decided = some (stOK, noRank) ∧ (s.op? o.key).isNone = true) := by decide +kernel

/-- A member that is pre-empted, with 64 bytes of a path of 128 sent in chunks of 128, and in chunks of 64. -/
theorem witness_ChunksAndSteps : let o := { op0 1 6 with leaving := some kPREEMPT, lens := [128, 128, 128, 128], count := 128, cap := 128, spans := [⟨0, 1, 0, 0, 64⟩] }
    let i : OutItem := ⟨0, 1, 64, 64, 0, 1, rsPATH, .ready⟩
    o.inStep 128 = true ∧ o.inStep 64 = false ∧ o.beginsChunk 64 i = true ∧ o.beginsChunk 128 i = false ∧ o.told = false ∧
    ((withOp (cv 1) o).op? o.key).isSome = true ∧ packetsOf 100 64 128 = [(0, 64), (64, 36), (100, 28)] := by decide +kernel

/-- A barrier of the four members starts: its descriptor at the beginning of the region, its record behind it. -/
theorem witness_QueueStart_coll :
    let s0 := (cv 1).setCore 0 { core0 with g := core0.g.set 1 0x10000000000 }
    let s : State := { s0 with mem := Memory.writeBytes [] 0x10000000000 ([7, 0, 2, 0] ++ List.replicate 44 0 ++ leBytes 8 0x10000000040) }
    let e := (s.core 0).entry .collXchg 0 (W [(38, 1)])
    isMove e = false ∧ (s.collStart 0 e).isOk = true := by decide +kernel

theorem witness_MemoryStaysCanonical : State.reset.mem.wf = true ∧ (Memory.writeBytes [] 0x10000000000 [1, 0, 2]).wf = true := by decide +kernel

end Sys2Proof.Tests
end

section
/-! PROOFS. Scalar access to the ledge (08 R225 to R227): what a load and a store do once their range and alignment checks are
decided, and the statements about `mem.ld`, `mem.lds` and `mem.st`. -/
namespace Sys2Proof.Machine
open Sys2Proof.Claims

/-! ### The names of the statements, in terms of the model -/

theorem only_eq_setCore (s : State) (c : CoreId) (k : Core) : only s c k = .next (s.setCore c k) := rfl

theorem trapped_eq_trapIssue (s : State) (c : CoreId) (t : TrapC) : trapped s c t = .next (s.trapIssue c t) := rfl

theorem wrote_eq_wg (k : Core) (r : BitVec 5) (v : Word) : wrote k r v = k.next.wg r v := by
  unfold wrote Core.wg
  split <;> rfl

theorem memEa_next (k : Core) (w : GWord) : memEa k.next w = memEa k w := rfl

/-! ### Range and alignment (R227) -/

theorem memCheck_ok {ea n : Nat} (d : BitVec 4) (hr : ea + n ≤ ledgeSize) (ha : ea % n = 0) : memCheck ea n d = .ok () := by
  simp [memCheck, need, hr, ha, bind, Except.bind]

theorem memCheck_outside {ea n : Nat} (d : BitVec 4) (hr : ¬ ea + n ≤ ledgeSize) : memCheck ea n d = .error (descTrap 0x2 d) := by
  simp [memCheck, need, hr, bind, Except.bind]

theorem memCheck_misaligned {ea n : Nat} (d : BitVec 4) (hr : ea + n ≤ ledgeSize) (ha : ea % n ≠ 0) :
    memCheck ea n d = .error (descTrap 0x3 d) := by
  simp [memCheck, need, hr, ha, bind, Except.bind]

/-! ### Little-endian values (R7) -/

@[simp] theorem length_leBytes (n v : Nat) : (leBytes n v).length = n := by simp [leBytes]

theorem ofLe_lt (bs : List Byte) : ofLe bs < 256 ^ bs.length := by
  induction bs with
  | nil => decide
  | cons b bs ih =>
    have hb := b.isLt
    simp only [ofLe, List.length_cons, Nat.pow_succ]
    omega

theorem Memory.readLe_lt (m : Memory) (a n : Nat) : m.readLe a n < 2 ^ (8 * n) := by
  have h := ofLe_lt (m.readBytes a n)
  rwa [show (m.readBytes a n).length = n by simp [readBytes, KMap.getMany], show (256 : Nat) = 2 ^ 8 from rfl, ← Nat.pow_mul] at h

/-- Byte i of a register's low bytes is its bits from 8 i. -/
theorem leBytes_getD_eq_extractLsb' (n : Nat) (v : Word) {i : Nat} (hi : i < n) :
    (leBytes n v.toNat).getD i 0 = v.extractLsb' (8 * i) 8 := by
  apply BitVec.eq_of_toNat_eq
  simp [leBytes, hi, BitVec.extractLsb'_toNat, Nat.shiftRight_eq_div_pow, Nat.pow_mul]

/-- Sign extension of a value that fits its width. -/
theorem toSigned_of_lt {w v : Nat} (hw : 0 < w) (hv : v < 2 ^ w) :
    toSigned w v = if 2 * v < 2 ^ w then (v : Int) else (v : Int) - 2 ^ w := by
  obtain ⟨u, rfl⟩ : ∃ u, w = u + 1 := ⟨w - 1, by omega⟩
  have hiff : v < 2 ^ u ↔ 2 * v < 2 ^ (u + 1) := by rw [Nat.pow_succ]; omega
  simp only [toSigned, Nat.mod_eq_of_lt hv, Nat.add_sub_cancel, hiff]

theorem memSize_pos (w : GWord) : 0 < memSize w := Nat.pow_pos (by decide)

/-! ### Loads -/

/-- The core of a load as its parity checks find it: issued, with the armed injection of KIND 2 taken (R236). -/
def Core.loading (k : Core) : Core := { k.next with armed := k.armed.set 2 0 }

theorem Core.loading_of_unarmed {k : Core} (h : k.armed[2] = 0) : k.loading = k.next := by
  have hset : k.armed.set 2 0 = k.armed := by rw [← h]; simp
  unfold Core.loading
  rw [hset]
  rfl

/-- The state after the parity checks of a load that passed its range and alignment checks, and whether they stopped it: an armed
injection of KIND 2 first (R236), then the bad words of the access and what else was met (R287, R289). -/
def State.loadParity (s : State) (c : CoreId) (w : GWord) (obs : List FaultObs) (repl : Option CoreId) : State × Bool :=
  let k := s.core c
  let e := k.next.entry .chkSig k.pc w
  let inj := (s.setCore c k.loading).coreInject c e repl 2 k.armed[2]
  if inj.2 then inj else inj.1.coreObsAll c e repl [] ((inj.1.core c).badLedgeObs [(memEa k w, memSize w)] ++ obs)

/-- The state after a load: RT holds the extended bytes, unless the parity checks stopped it. -/
def State.loaded (s : State) (c : CoreId) (w : GWord) (obs : List FaultObs) (repl : Option CoreId) (ext : Nat → Nat → Word) : State :=
  let fin := s.loadParity c w obs repl
  if fin.2 then fin.1
  else fin.1.setCore c ((fin.1.core c).wg (memRt w) (ext (memSize w) ((fin.1.core c).ledge.readLe (memEa (s.core c) w) (memSize w))))

section
variable {s : State} {c : CoreId} {w : GWord} {obs : List FaultObs} {repl : Option CoreId} {ext : Nat → Nat → Word}

theorem stopped_pair (x y : State × Bool) : (if x.2 then (x.1, true) else y) = if x.2 then x else y := by
  split
  · next h => rw [← h]
  · rfl

theorem State.load_acts (ht : Takes (s.core c) w) (hs : scalarSig w = true) (hl : memLegal w = true)
    (hr : memEa (s.core c) w + memSize w ≤ ledgeSize) (ha : memEa (s.core c) w % memSize w = 0) :
    s.load c w obs repl ext = s.loaded c w obs repl ext := by
  obtain ⟨hi, hx, hp⟩ := ht
  refine State.issue_acts hi hx (by simp [hs, hl]) hp ?_
  simp only [memEa_next, memCheck_ok _ hr ha, bind, Except.bind, pure, Except.pure, stopped_pair]
  exact (apply_ite Except.ok _ _ _).symm

theorem State.load_traps {t : TrapC} (ht : Takes (s.core c) w) (hs : scalarSig w = true) (hl : memLegal w = true)
    (hc : memCheck (memEa (s.core c) w) (memSize w) 0xF = .error t) : s.load c w obs repl ext = s.trapIssue c t := by
  obtain ⟨hi, hx, hp⟩ := ht
  refine State.issue_traps hi hx (by simp [hs, hl]) hp ?_
  simp only [memEa_next, hc, bind, Except.bind]

/-- With no injection armed and no bad word met, the parity checks pass and change nothing. -/
theorem State.loadParity_quiet (hk : (s.core c).armed[2] = 0)
    (hb : (s.core c).badLedgeObs [(memEa (s.core c) w, memSize w)] = []) :
    s.loadParity c w [] repl = (s.setCore c (s.core c).next, false) := by
  have hb' : (s.core c).next.badLedgeObs [(memEa (s.core c) w, memSize w)] = [] := hb
  simp [State.loadParity, Core.loading_of_unarmed hk, hk, hb', State.coreInject, State.coreObsAll]

theorem State.loaded_quiet (hk : (s.core c).armed[2] = 0)
    (hb : (s.core c).badLedgeObs [(memEa (s.core c) w, memSize w)] = []) :
    s.loaded c w [] repl ext =
      s.setCore c ((s.core c).next.wg (memRt w) (ext (memSize w) ((s.core c).ledge.readLe (memEa (s.core c) w) (memSize w)))) := by
  simp [State.loaded, State.loadParity_quiet hk hb]

end

theorem exec_memLd (c : CoreId) (w : GWord) (obs : List FaultObs) (repl : Option CoreId) (s : State) :
    exec (.memLd c w obs repl) s = .next (s.load c w obs repl fun _ v => BitVec.ofNat 64 v) := rfl

theorem exec_memLds (c : CoreId) (w : GWord) (obs : List FaultObs) (repl : Option CoreId) (s : State) :
    exec (.memLds c w obs repl) s = .next (s.load c w obs repl fun n v => BitVec.ofInt 64 (toSigned (8 * n) v)) := rfl

/-- Settles O12: issue reaches the load, whose range and alignment checks decide between a trap and `State.loaded`. -/
theorem loadsReadLedge : Obligations.LoadsReadLedge := by
  intro c w s obs repl ht hs hl k ea n e s1 inj fin v done
  have traps (t : TrapC) (h : memCheck ea n 0xF = .error t) :
      exec (.memLd c w obs repl) s = trapped s c t ∧ exec (.memLds c w obs repl) s = trapped s c t := by
    simp only [exec_memLd, exec_memLds, trapped_eq_trapIssue]
    exact ⟨congrArg _ (State.load_traps ht hs hl h), congrArg _ (State.load_traps ht hs hl h)⟩
  refine ⟨fun hr ha => ?_, fun hr => traps _ (memCheck_outside _ hr), fun hr ha => traps _ (memCheck_misaligned _ hr ha)⟩
  have acts (ext : Nat → Nat → Word) : Host.Outcome.next (s.load c w obs repl ext) = done (ext n v) := by
    rw [State.load_acts ht hs hl hr ha]
    exact apply_ite Host.Outcome.next _ _ _
  refine ⟨acts _, ?_, fun ho hk hb => ?_⟩
  · have hv : v < 2 ^ (8 * n) := Memory.readLe_lt _ _ _
    rw [exec_memLds, acts, toSigned_of_lt (by have := memSize_pos w; omega) hv]
  · subst ho
    rw [exec_memLd, State.load_acts ht hs hl hr ha, State.loaded_quiet hk hb, only_eq_setCore, wrote_eq_wg]

/-! ### Stores -/

theorem exec_memSt (c : CoreId) (w : GWord) (s : State) : exec (.memSt c w) s =
    .next (s.issueCore c w (memLegal w) fun k => k.store (memEa k w) (leBytes (memSize w) (k.rg (memRt w)).toNat) 0xF) := rfl

/-- Writing is forbidden in a read-only section first, then in an active spill area (R137, R204). -/
theorem Core.ledgeWritable_eq (k : Core) (rs : List (Nat × Nat)) (d : BitVec 4) : k.ledgeWritable rs d =
    if anyOverlap rs k.readOnly then .error (descTrap 0xB d)
    else if anyOverlap rs k.spillAreas then .error (descTrap 0x8 d) else .ok () := by
  unfold Core.ledgeWritable Core.notReadOnly need
  cases anyOverlap rs k.readOnly <;> cases anyOverlap rs k.spillAreas <;> rfl

theorem Core.store_of_memCheck_error {k : Core} {ea : Nat} {bs : List Byte} {d : BitVec 4} {t : TrapC}
    (h : memCheck ea bs.length d = .error t) : k.store ea bs d = .error t := by
  simp [Core.store, h, bind, Except.bind]

/-- A store in range and aligned is decided by whether it may write there. -/
theorem Core.store_eq {k : Core} {ea : Nat} {bs : List Byte} {d : BitVec 4} (hr : ea + bs.length ≤ ledgeSize)
    (ha : ea % bs.length = 0) : k.store ea bs d = (k.ledgeWritable [(ea, bs.length)] d).map fun _ =>
      { k with ledge := k.ledge.writeBytes ea bs }.wroteLedge [(ea, bs.length)] := by
  simp only [Core.store, memCheck_ok d hr ha, bind, Except.bind]
  cases k.ledgeWritable [(ea, bs.length)] d <;> rfl

/-- Settles O13: the store's checks in the order of R227, then `Memory.writeBytes` of the register's low bytes. -/
theorem storeWritesExactlyItsBytes : Obligations.StoreWritesExactlyItsBytes := by
  intro c w s ht hs hl k ea n
  obtain ⟨hi, hx, hp⟩ := ht
  have hlen (v : Nat) : (leBytes (memSize w) v).length = n := length_leBytes _ _
  have traps (t : TrapC) (h : k.next.store ea (leBytes n (k.rg (memRt w)).toNat) 0xF = .error t) :
      exec (.memSt c w) s = trapped s c t := by
    rw [exec_memSt, trapped_eq_trapIssue, State.issueCore_traps hi hx hs hl hp h]
  refine ⟨fun hr ha => ?_, fun hr => ?_, fun hr ha => ?_⟩
  · have hstore := Core.store_eq (k := k.next) (ea := ea) (bs := leBytes n (k.rg (memRt w)).toNat) (d := 0xF)
      (by rwa [hlen]) (by rwa [hlen])
    rw [hlen, Core.ledgeWritable_eq] at hstore
    have hro : k.next.readOnly = k.readOnly := rfl
    have hsp : k.next.spillAreas = k.spillAreas := rfl
    rw [hro, hsp] at hstore
    refine ⟨fun h1 h2 => ⟨k.ledge.writeBytes ea (leBytes n (k.rg (memRt w)).toNat), ?_, fun i hi => ?_, fun a ha => ?_,
      Memory.wf_writeBytes _ _⟩, fun h1 => ?_, fun h1 h2 => ?_⟩
    · simp only [h1, h2] at hstore
      rw [exec_memSt, State.issueCore_acts hi hx hs hl hp hstore]
      rfl
    · rw [Memory.read8_writeBytes, hlen, if_pos (by omega), Nat.add_sub_cancel_left, leBytes_getD_eq_extractLsb' _ _ hi]
    · rw [Memory.read8_writeBytes, hlen, if_neg (by omega)]
    · exact traps _ (by rw [hstore, h1]; rfl)
    · exact traps _ (by rw [hstore, h1, h2]; rfl)
  · exact traps _ (Core.store_of_memCheck_error (by rw [hlen]; exact memCheck_outside _ hr))
  · exact traps _ (Core.store_of_memCheck_error (by rw [hlen]; exact memCheck_misaligned _ hr ha))

end Sys2Proof.Machine
end

section
/-! PROOFS. Byte layouts in network byte order (00 R7): big-endian fields of a list of bytes that is put together from fields, the
header of an Eloator message (15 R397), and the bytes of a CMD, an ACK and a HELLO_ACK. -/
namespace Sys2Proof.Machine

theorem ofLe_leBytes (n v : Nat) : ofLe (leBytes n v) = v % 256 ^ n := by
  induction n generalizing v with
  | zero => simp [leBytes, ofLe, Nat.mod_one]
  | succ n ih =>
    have hcons : leBytes (n + 1) v = BitVec.ofNat 8 v :: leBytes n (v / 256) := by
      simp [leBytes, List.range_succ_eq_map, Nat.div_div_eq_div_mul, Nat.pow_succ']
    calc ofLe (leBytes (n + 1) v) = v % 256 + 256 * (v / 256 % 256 ^ n) := by rw [hcons, ofLe, ih, BitVec.toNat_ofNat]
      _ = v % 256 ^ (n + 1) := by rw [Nat.pow_succ', Nat.mod_mul]

end Sys2Proof.Machine

namespace Sys2Proof
open Sys2Proof.Machine Sys2Proof.Claims

@[simp] theorem length_beBytes (n v : Nat) : (beBytes n v).length = n := by simp [beBytes, leBytes]

theorem ofBe_beBytes (n v : Nat) : ofBe (beBytes n v) = v % 256 ^ n := by
  rw [ofBe, beBytes, List.reverse_reverse, ofLe_leBytes]

/-! ### A field of bytes that are put together from fields -/

section
variable {l : List Byte} {m n off v : Nat}

theorem beField_skip {a : List Byte} (h : a.length ≤ off) : beField (a ++ l) off n = beField l (off - a.length) n := by
  rw [beField, beField, List.drop_append, List.drop_eq_nil_of_le h, List.nil_append]

theorem beField_left {a : List Byte} (h : off + n ≤ a.length) : beField (a ++ l) off n = beField a off n := by
  rw [beField, beField, List.drop_append_of_le_length (by omega), List.take_append_of_le_length (by simp; omega)]

theorem beField_skip_beBytes (h : m ≤ off) : beField (beBytes m v ++ l) off n = beField l (off - m) n := by
  rw [beField_skip (by simpa using h), length_beBytes]

theorem beField_beBytes : beField (beBytes n v ++ l) 0 n = v % 256 ^ n := by
  rw [beField, List.drop_zero, List.take_append_of_le_length (by simp), List.take_of_length_le (by simp), ofBe_beBytes]

theorem beField_cons (b : Byte) : beField (b :: l) (off + 1) n = beField l off n := rfl

theorem beField_byte (b : Byte) : beField (b :: l) 0 1 = b.toNat := by simp [beField, ofBe, ofLe]

end

/-- A word whose width is that of its field survives the field. -/
theorem toNat_mod_field {w k : Nat} (x : BitVec w) (h : 2 ^ w = k) : x.toNat % k = x.toNat := Nat.mod_eq_of_lt (h ▸ x.isLt)

/-! ### The header (R397) -/

theorem MsgType.code_lt (t : MsgType) : t.code < 256 := by cases t <;> decide

@[simp] theorem MsgHdr.length_bytes (h : MsgHdr) (t : MsgType) : (h.bytes t).length = 32 := by simp [bytes]

theorem MsgHdr.bytes_fields (h : MsgHdr) (t : MsgType) : let b := h.bytes t
    beField b 0 1 = h.ver.toNat ∧ beField b 1 1 = t.code ∧ beField b 2 2 = h.flags.toNat ∧ beField b 4 4 = h.session.toNat ∧
    beField b 8 2 = h.queue.toNat ∧ beField b 10 6 = h.seq.toNat ∧ beField b 16 2 = h.job.toNat ∧ beField b 18 2 = h.rsvd.toNat ∧
    beField b 20 4 = h.length.toNat ∧ beField b 24 8 = h.eseq.toNat := by
  have hlast (n v : Nat) : beField (beBytes n v) 0 n = v % 256 ^ n := by simpa using beField_beBytes (l := []) (n := n) (v := v)
  simp [bytes, beField_skip_beBytes, beField_beBytes, beField_cons, beField_byte, hlast, toNat_mod_field, Nat.mod_eq_of_lt t.code_lt]

/-- The fields of a header, read back from its bytes, are the header. -/
theorem MsgHdr.ofBytes_bytes (h : MsgHdr) (t : MsgType) :
    MsgHdr.ofBytes h.port h.srcIp h.srcPort h.srcMac h.frame (h.bytes t) = h := by
  obtain ⟨hver, -, hflags, hsession, hqueue, hseq, hjob, hrsvd, hlength, heseq⟩ := h.bytes_fields t
  simp only [ofBytes, hver, hflags, hsession, hqueue, hseq, hjob, hrsvd, hlength, heseq, BitVec.ofNat_toNat, BitVec.setWidth_eq]

/-! ### Messages that the S4 sends -/

/-- The header that goes on the wire: FLAGS, LENGTH and ESEQ are the S4's own (R397). -/
def MsgHdr.sent (h : MsgHdr) (flags : Nat) (eseq : BitVec 64) (len : Nat) : MsgHdr :=
  { h with ver := 1, flags := BitVec.ofNat 16 flags, rsvd := 0, length := BitVec.ofNat 32 len, eseq := eseq }

section
variable (h : MsgHdr) (t : MsgType) (flags : Nat) (eseq : BitVec 64) (body : List Byte)

theorem MsgHdr.message_eq : h.message t flags eseq body = (h.sent flags eseq body.length).bytes t ++ body := rfl

theorem MsgHdr.length_message : (h.message t flags eseq body).length = 32 + body.length := by simp [message_eq]

theorem MsgHdr.message_header {off n : Nat} (hn : off + n ≤ 32) :
    beField (h.message t flags eseq body) off n = beField ((h.sent flags eseq body.length).bytes t) off n :=
  beField_left (by simpa using hn)

theorem MsgHdr.message_body {off n : Nat} (hoff : 32 ≤ off) :
    beField (h.message t flags eseq body) off n = beField body (off - 32) n := by
  rw [message_eq, beField_skip (by simpa using hoff), MsgHdr.length_bytes]

theorem MsgHdr.message_fields : let b := h.message t flags eseq body
    beField b 1 1 = t.code ∧ beField b 4 4 = h.session.toNat ∧ beField b 8 2 = h.queue.toNat ∧ beField b 10 6 = h.seq.toNat ∧
    beField b 20 4 = body.length % 2 ^ 32 := by
  obtain ⟨-, htype, -, hsession, hqueue, hseq, -, -, hlength, -⟩ := (h.sent flags eseq body.length).bytes_fields t
  have hhdr {off n v : Nat} (hn : off + n ≤ 32) (hv : beField ((h.sent flags eseq body.length).bytes t) off n = v) :
      beField (h.message t flags eseq body) off n = v := (h.message_header t flags eseq body hn).trans hv
  exact ⟨hhdr (by decide) htype, hhdr (by decide) hsession, hhdr (by decide) hqueue, hhdr (by decide) hseq,
    hhdr (by decide) (hlength.trans (BitVec.toNat_ofNat _ _))⟩

end

/-! ### The bodies of a CMD, an ACK and a HELLO_ACK (R401, R406, R411) -/

theorem length_flatMap_const {α : Type} {f : α → List Byte} {k : Nat} (h : ∀ x, (f x).length = k) (l : List α) :
    (l.flatMap f).length = k * l.length := by
  induction l with
  | nil => rfl
  | cons x l ih => rw [List.flatMap_cons, List.length_append, h, ih, List.length_cons, Nat.mul_succ, Nat.add_comm]

theorem CmdBody.length_bytes (op : Nat) (b : CmdBody) : (b.bytes op).length = 64 + 12 * b.deps.length + 8 * b.caps.length := by
  have hd := length_flatMap_const (k := 12)
    (f := fun d : Dep => beBytes 4 d.session.toNat ++ beBytes 2 d.queue.toNat ++ beBytes 6 d.seq.toNat) (fun d => by simp) b.deps
  have hc := length_flatMap_const (k := 8)
    (f := fun c : CapDecl => beBytes 2 c.capId.toNat ++ beBytes 2 c.rsvd.toNat ++ beBytes 4 c.value.toNat) (fun c => by simp) b.caps
  unfold bytes
  simp only [List.length_append, length_beBytes, hd, hc, List.length_cons, List.length_nil]

theorem ack_wire (h : MsgHdr) (st cst : Status) (cs : BitVec 8) (n : BitVec 48) : ∃ bs,
    (Output.ack h st cs cst n).wire = some bs ∧ bs.length = 48 ∧ beField bs 1 1 = 4 ∧ beField bs 4 4 = h.session.toNat ∧
    beField bs 8 2 = h.queue.toNat ∧ beField bs 10 6 = h.seq.toNat ∧ beField bs 20 4 = 16 ∧ beField bs 32 2 = st.toNat ∧
    beField bs 34 1 = cs.toNat ∧ beField bs 36 2 = cst.toNat ∧ beField bs 38 6 = n.toNat := by
  refine ⟨_, rfl, ?_⟩
  generalize hb : (beBytes 2 st.toNat ++ [cs, 0] ++ beBytes 2 cst.toNat ++ beBytes 6 n.toNat ++ beBytes 4 0 : List Byte) = body
  have hlen : body.length = 16 := by simp [← hb]
  obtain ⟨htype, hsession, hqueue, hseq, hlength⟩ := h.message_fields .ack 0 0 body
  refine ⟨by rw [MsgHdr.length_message, hlen], htype, hsession, hqueue, hseq, hlength.trans (congrArg (· % 2 ^ 32) hlen), ?_⟩
  simp [MsgHdr.message_body, ← hb, beField_skip_beBytes, beField_beBytes, beField_cons, beField_byte, toNat_mod_field]

theorem helloAck_wire (h : MsgHdr) (st : Status) (ver isa nq : BitVec 8) (d : DState) (maxdata : BitVec 16) (feat : BitVec 64)
    (ses : BitVec 32) (devid : BitVec 16) (resumed : BitVec 8) (snap : Word) (qs : List (BitVec 48 × BitVec 48 × Bool)) : ∃ bs,
    (Output.helloAck h st ver isa nq d maxdata feat ses devid resumed snap qs).wire = some bs ∧
    bs.length = 64 + 16 * qs.length ∧ beField bs 1 1 = 2 ∧ beField bs 32 2 = st.toNat ∧ beField bs 48 4 = ses.toNat ∧
    beField bs 54 1 = 0xB0 := by
  refine ⟨_, rfl, ?_, (h.message_fields _ _ _ _).1, ?_⟩
  · have hq := length_flatMap_const (k := 16) (f := qrecBytes) (fun q => by simp [qrecBytes]) qs
    simp only [MsgHdr.length_message, List.length_append, length_beBytes, hq, List.length_cons, List.length_nil]
    omega
  · simp [MsgHdr.message_body, beField_skip_beBytes, beField_beBytes, beField_cons, beField_byte, toNat_mod_field]

/-- O31, the bytes. -/
theorem messagesOnTheWire : Claims.MessagesOnTheWire :=
  ⟨fun h t => ⟨h.length_bytes t, (h.bytes_fields t).2.1, h.ofBytes_bytes t⟩, CmdBody.length_bytes, ack_wire, helloAck_wire⟩

end Sys2Proof
end

section
/-! PROOFS. What every message of a host has in common (15 R393 to R399, R411): the state in which its effect begins, and what an
answer changes. -/
namespace Sys2Proof.Machine
open Sys2Proof.Claims

/-! ### The session notes where a message came from (R413) -/

section
variable (ses : Session) (h : MsgHdr)

theorem noted_eq : ∃ a b, noted ses h = { ses with addrA := a, addrB := b } := by
  unfold noted Session.noteAddr
  dsimp only
  split
  · exact ⟨_, _, rfl⟩
  · exact ⟨_, _, rfl⟩

@[simp] theorem noted_id : (noted ses h).id = ses.id := by obtain ⟨a, b, e⟩ := noted_eq ses h; rw [e]
@[simp] theorem noted_report : (noted ses h).report = ses.report := by obtain ⟨a, b, e⟩ := noted_eq ses h; rw [e]
@[simp] theorem noted_state : (noted ses h).state = ses.state := by obtain ⟨a, b, e⟩ := noted_eq ses h; rw [e]
@[simp] theorem noted_admin : (noted ses h).admin = ses.admin := by obtain ⟨a, b, e⟩ := noted_eq ses h; rw [e]
@[simp] theorem noted_wrapKey : (noted ses h).wrapKey = ses.wrapKey := by obtain ⟨a, b, e⟩ := noted_eq ses h; rw [e]; rfl
@[simp] theorem noted_queue? (q : BitVec 16) : (noted ses h).queue? q = ses.queue? q := by
  obtain ⟨a, b, e⟩ := noted_eq ses h
  rw [e]
  rfl
@[simp] theorem transcript_noted (r : HeldReport) (o : EncapObj) : transcript r o (noted ses h) = transcript r o ses := by
  rw [transcript, noted_id, transcript]
@[simp] theorem sessionKeys_noted (r : HeldReport) (ks : List Byte) : sessionKeys r ks (noted ses h) = sessionKeys r ks ses := by
  rw [sessionKeys, noted_id, sessionKeys]

end

/-! ### The peers of a port (R394) -/

theorem Ctl.mapPeer_eq (c : Ctl) (p : HPort) (mac : MacAddr) (g : MacPeer → MacPeer) :
    ∃ ports, c.mapPeer p mac g = { c with elo := { c.elo with ports := ports } } := ⟨_, rfl⟩

/-- A change of packet numbers and keys leaves the peers that have a live association. -/
theorem Ctl.live_mapPeer (c : Ctl) (p : HPort) (mac : MacAddr) (g : MacPeer → MacPeer) (hg : ∀ m, (g m).mac = m.mac) (q : HPort)
    (m : MacAddr) : (c.mapPeer p mac g).live q m = c.live q m := by
  unfold live mapPeer
  by_cases hq : p = q
  · subst hq
    simp only [Fin.getElem_fin, Vector.getElem_set_self, List.any_map]
    congr 1
    funext x
    by_cases hx : x.mac = mac <;> simp [hx, hg]
  · have hq' : p.val ≠ q.val := fun e => hq (Fin.ext e)
    simp [hq']

/-- Nor does it change which ports are UP. -/
theorem Ctl.hportUp_mapPeer (c : Ctl) (p : HPort) (mac : MacAddr) (g : MacPeer → MacPeer) (q : HPort) :
    (c.mapPeer p mac g).hportUp q = c.hportUp q := by
  unfold hportUp mapPeer
  by_cases hq : p = q
  · subst hq
    simp
  · have hq' : p.val ≠ q.val := fun e => hq (Fin.ext e)
    simp [hq']

theorem Ctl.notePn_eq (c : Ctl) (h : MsgHdr) : ∃ ports, c.notePn h = { c with elo := { c.elo with ports := ports } } := by
  unfold notePn
  split
  · exact c.mapPeer_eq _ _ _
  · exact ⟨c.elo.ports, rfl⟩

theorem Ctl.reachPort_mapPeer (c : Ctl) (p : HPort) (mac : MacAddr) (g : MacPeer → MacPeer) (hg : ∀ m, (g m).mac = m.mac) (q : HPort)
    (m : MacAddr) : (c.mapPeer p mac g).reachPort q m = c.reachPort q m := by
  simp only [reachPort, protectedOk, hportUp_mapPeer, live_mapPeer _ _ _ g hg]
  rfl

theorem Ctl.reachPort_notePn (c : Ctl) (h : MsgHdr) (p : HPort) (mac : MacAddr) : (c.notePn h).reachPort p mac = c.reachPort p mac := by
  unfold notePn
  split
  · rw [reachPort_mapPeer]
    exact fun _ => rfl
  · rfl

theorem Ctl.reachPort_setSession (c : Ctl) (slot : Nat) (v : Session) (p : HPort) (mac : MacAddr) :
    (c.setSession slot v).reachPort p mac = c.reachPort p mac := rfl

/-! ### The state in which a message's effect begins -/

section
variable (s : State) (h : MsgHdr) (slot : Nat) (ses : Session)

/-- Only the ports' packet numbers and the session differ from the state before. -/
theorem base_eq : ∃ ports sessions, base s h slot ses =
    { s with ctl := { s.ctl with elo := { s.ctl.elo with ports := ports, sessions := sessions } } } := by
  obtain ⟨ports, e⟩ := s.ctl.notePn_eq h
  exact ⟨_, _, by rw [base, State.mapCtl, e]; rfl⟩

@[simp] theorem base_cores : (base s h slot ses).cores = s.cores := rfl
@[simp] theorem base_mem : (base s h slot ses).mem = s.mem := rfl
@[simp] theorem base_out : (base s h slot ses).out = s.out := rfl
@[simp] theorem base_jnl : (base s h slot ses).ctl.jnl = s.ctl.jnl := by obtain ⟨a, b, e⟩ := base_eq s h slot ses; rw [e]
@[simp] theorem base_dev : (base s h slot ses).ctl.dev = s.ctl.dev := by obtain ⟨a, b, e⟩ := base_eq s h slot ses; rw [e]
@[simp] theorem base_regs : (base s h slot ses).ctl.regs = s.ctl.regs := by obtain ⟨a, b, e⟩ := base_eq s h slot ses; rw [e]
@[simp] theorem base_sec : (base s h slot ses).ctl.sec = s.ctl.sec := by obtain ⟨a, b, e⟩ := base_eq s h slot ses; rw [e]
@[simp] theorem base_links : (base s h slot ses).ctl.links = s.ctl.links := by obtain ⟨a, b, e⟩ := base_eq s h slot ses; rw [e]
@[simp] theorem base_cmd? (k : CmdKey) : (base s h slot ses).cmd? k = s.cmd? k := by
  rw [State.cmd?, base_jnl, State.cmd?]
@[simp] theorem base_reachPort (p : HPort) (mac : MacAddr) : (base s h slot ses).ctl.reachPort p mac = s.ctl.reachPort p mac := by
  rw [base, State.mapCtl_ctl, Ctl.reachPort_setSession, Ctl.reachPort_notePn]

end

/-- A session that is written is the one read back, where its slot is in use. -/
theorem State.session?_setSession {s : State} {slot : Nat} {old : Session} (h : s.session? slot = some old) (v : Session) :
    (s.mapCtl fun c => c.setSession slot v).session? slot = some v := by
  simp only [session?, Option.map_eq_some_iff] at h
  obtain ⟨e, he, -⟩ := h
  have hslot : e.1 = slot := by simpa using List.find?_some he
  have hkey : ((fun e : Nat × Session => decide (e.1 = slot)) ∘ fun e => if e.1 = slot then (slot, v) else e) =
      fun e => decide (e.1 = slot) := by
    funext x
    by_cases hx : x.1 = slot <;> simp [hx]
  simp only [session?, State.mapCtl_ctl, Ctl.setSession, List.find?_map, hkey, he]
  simp [hslot]

theorem State.session?_of_sessions {s t : State} (h : t.ctl.elo.sessions = s.ctl.elo.sessions) (slot : Nat) :
    t.session? slot = s.session? slot := by
  rw [session?, h, session?]

theorem base_session? {s : State} {h : MsgHdr} {slot : Nat} {ses old : Session} (hs : s.session? slot = some old) :
    (base s h slot ses).session? slot = some (noted ses h) := by
  have hnote : (s.mapCtl fun c => c.notePn h).session? slot = some old := by
    obtain ⟨ports, e⟩ := s.ctl.notePn_eq h
    rw [State.mapCtl, e]
    exact hs
  exact State.session?_setSession hnote (noted ses h)

/-! ### Receiving a message of an open session (R395 to R399) -/

theorem State.recv_acts {s : State} {h : MsgHdr} {slot : Nat} {ses : Session} {unprotected : Bool} {ok : Ctl → Session → Bool}
    {act : Nat → Session → State → State} (hd : Heard s h slot ses) (hp : unprotected = true ∨ Passes s h)
    (hok : ok s.ctl ses = true) : s.recv h unprotected ok act = act slot (noted ses h) (base s h slot ses) := by
  obtain ⟨hlisten, hframe, hses, hzero, hver⟩ := hd
  have hpass : (!unprotected && !s.ctl.passes h) = false := by
    rcases hp with rfl | hp
    · rfl
    · rw [show s.ctl.passes h = true from hp, Bool.not_true, Bool.and_false]
  simp only [recv, hlisten, hframe, hpass, hses, hzero, hver, hok]
  simp
  rfl

/-! ### Answers (R411) -/

/-- What is sent to a peer: the ports' packet numbers and keys move on, and the message is the last one out. -/
theorem State.sendTo_eq (s : State) (p : HPort) (mac : MacAddr) (o : Frame → Output) : ∃ ports n f more,
    s.sendTo p mac o = { s with ctl := { s.ctl with elo := { s.ctl.elo with ports := ports } }, freeCtr := n, out := o f :: more } := by
  have hfresh : ∃ ports n more, s.freshSak p mac =
      { s with ctl := { s.ctl with elo := { s.ctl.elo with ports := ports } }, freeCtr := n, out := more } := by
    unfold freshSak
    split
    · exact ⟨_, _, _, rfl⟩
    · exact ⟨s.ctl.elo.ports, s.freeCtr, s.out, rfl⟩
  obtain ⟨ports, n, more, e⟩ := hfresh
  rw [sendTo, e]
  exact ⟨_, _, _, _, rfl⟩

/-- An answer leaves the rest of the state, and is the last message out, with a header that echoes the one it answers. -/
theorem State.reply_eq (s : State) (h : MsgHdr) (o : MsgHdr → Output) : ∃ ports n g more, Echoes g h h.port ∧
    s.reply h o = { s with ctl := { s.ctl with elo := { s.ctl.elo with ports := ports } }, freeCtr := n, out := o g :: more } := by
  obtain ⟨ports, n, f, more, e⟩ := s.sendTo_eq h.port h.srcMac fun f => o { h with frame := f }
  exact ⟨ports, n, { h with frame := f }, more, rfl, e⟩

section
variable (s : State) (h : MsgHdr) (o : MsgHdr → Output)

@[simp] theorem State.reply_mem : (s.reply h o).mem = s.mem := by obtain ⟨_, _, _, _, -, e⟩ := s.reply_eq h o; rw [e]
@[simp] theorem State.reply_cores : (s.reply h o).cores = s.cores := by obtain ⟨_, _, _, _, -, e⟩ := s.reply_eq h o; rw [e]
@[simp] theorem State.reply_regs : (s.reply h o).ctl.regs = s.ctl.regs := by obtain ⟨_, _, _, _, -, e⟩ := s.reply_eq h o; rw [e]
@[simp] theorem State.reply_dev : (s.reply h o).ctl.dev = s.ctl.dev := by obtain ⟨_, _, _, _, -, e⟩ := s.reply_eq h o; rw [e]
@[simp] theorem State.reply_jnl : (s.reply h o).ctl.jnl = s.ctl.jnl := by obtain ⟨_, _, _, _, -, e⟩ := s.reply_eq h o; rw [e]
@[simp] theorem State.reply_sec : (s.reply h o).ctl.sec = s.ctl.sec := by obtain ⟨_, _, _, _, -, e⟩ := s.reply_eq h o; rw [e]
@[simp] theorem State.reply_links : (s.reply h o).ctl.links = s.ctl.links := by
  obtain ⟨_, _, _, _, -, e⟩ := s.reply_eq h o; rw [e]
@[simp] theorem State.reply_session? (slot : Nat) : (s.reply h o).session? slot = s.session? slot := by
  obtain ⟨_, _, _, _, -, e⟩ := s.reply_eq h o; rw [e]; rfl

theorem State.reply_out : ∃ g, Echoes g h h.port ∧ (s.reply h o).out.head? = some (o g) := by
  obtain ⟨_, _, g, _, hg, e⟩ := s.reply_eq h o
  exact ⟨g, hg, by rw [e]; rfl⟩

end

end Sys2Proof.Machine
end

section
/-! PROOFS. The admission of a CMD (02 R32, R33; 12 R310; 15 R399, R405 to R411): what becomes of a command that the S4 hears, by its
number and by its checks. -/
namespace Sys2Proof.Machine
open Sys2Proof.Claims

theorem exec_cmdRun (h : MsgHdr) (b : CmdBody) (s : State) : exec (.cmdRun h b) s = .next (s.cmdArrives 1 h b) := rfl
theorem exec_cmdInstall (h : MsgHdr) (b : CmdBody) (s : State) : exec (.cmdInstall h b) s = .next (s.cmdArrives 2 h b) := rfl
theorem exec_cmdPreempt (h : MsgHdr) (b : CmdBody) (s : State) : exec (.cmdPreempt h b) s = .next (s.cmdArrives 3 h b) := rfl
theorem exec_cmdRelease (h : MsgHdr) (b : CmdBody) (s : State) : exec (.cmdRelease h b) s = .next (s.cmdArrives 4 h b) := rfl

/-- A TRAIN or ADOPT of the job is under check. -/
theorem Ctl.checking_iff (c : Ctl) (job : BitVec 16) :
    c.checking job = true ↔ ∃ m ∈ c.jnl.cmds, m.accepted = false ∧ m.stepKind ≠ 0 ∧ m.job = job := by
  simp [checking, anyCmd, List.any_eq_true, and_assoc]

section
variable {s : State} {op : Nat} {h : MsgHdr} {b : CmdBody} {slot : Nat} {ses : Session} {q : CmdQueue}
variable (hd : Heard s h slot ses) (hp : Passes s h) (hhalt : s.ctl.dev.halted = false) (hf : cmdFormed s.ctl ses op h b = true)
  (hq : ses.queue? h.queue = some q)
include hd hp hhalt hf hq

theorem State.cmdArrives_below (hn : h.seq.toNat < q.nextExp.toNat) : s.cmdArrives op h b = (base s h slot ses).duplicate h q := by
  rw [cmdArrives, hhalt, if_neg (by decide), recv_acts hd (.inr hp) hf]
  simp only [noted_queue?, hq, if_pos hn]

theorem State.cmdArrives_beyond (hn : q.nextExp.toNat + 64 < h.seq.toNat) (hlast : q.nextExp.toNat ≠ 2 ^ 48 - 1)
    (ha : q.ahead.contains h.seq = false) : s.cmdArrives op h b = (base s h slot ses).mapCtl fun c =>
      c.setSession slot ((noted ses h).setQueue h.queue { q with aheadDrops := BitVec.ofNat 16 (satAdd 0xFFFF q.aheadDrops.toNat 1) }) := by
  rw [cmdArrives, hhalt, if_neg (by decide), recv_acts hd (.inr hp) hf]
  simp only [noted_queue?, hq, if_neg (show ¬ h.seq.toNat < q.nextExp.toNat by omega), ha, if_neg hlast, if_pos hn]
  rfl

section
variable (hlo : q.nextExp.toNat ≤ h.seq.toNat) (hhi : h.seq.toNat ≤ q.nextExp.toNat + 64) (ha : q.ahead.contains h.seq = false)
  (hlast : q.nextExp.toNat ≠ 2 ^ 48 - 1) (hnew : (s.cmd? (keyOfHdr h)).isNone = true) (hroom : s.ctl.jnl.room (cmdRecords b) = true)
include hlo hhi ha hlast hnew hroom

/-- A command with an acceptable number, for which the journal has room, waits, is refused or enters the journal by its checks. -/
theorem State.cmdArrives_acceptable : s.cmdArrives op h b =
    if b.cflags.toNat % 4 ≠ 0 ∧ s.ctl.checking h.job = true ∧ ((base s h slot ses).admitState (noted ses h) op h b).isNone then
      (base s h slot ses).mapJnl fun j => { j with cmds := j.cmds ++ [newCmd op h b .awaits] }
    else ((base s h slot ses).admitCheck (noted ses h) op h b).elim
      ((base s h slot ses).mapJnl fun j => { j with cmds := j.cmds ++ [newCmd op h b .journaling] })
      fun st => (base s h slot ses).answerBy h fun h => .nack h st q.nextExp := by
  have hsome : (s.cmd? (keyOfHdr h)).isSome = false := by simpa using hnew
  have hchk : (base s h slot ses).ctl.checking h.job = s.ctl.checking h.job := by
    rw [Ctl.checking, Ctl.anyCmd, base_jnl, Ctl.checking, Ctl.anyCmd]
  rw [cmdArrives, hhalt, if_neg (by decide), recv_acts hd (.inr hp) hf]
  simp only [noted_queue?, hq, if_neg (show ¬ h.seq.toNat < q.nextExp.toNat by omega), ha, if_neg hlast, base_cmd?, hsome, base_jnl,
    if_neg (show ¬ q.nextExp.toNat + 64 < h.seq.toNat by omega), hroom, hchk]
  cases (base s h slot ses).admitCheck (noted ses h) op h b <;> rfl

theorem State.cmdArrives_awaits (hkind : b.cflags.toNat % 4 ≠ 0) (hchk : s.ctl.checking h.job = true)
    (hs : (base s h slot ses).admitState (noted ses h) op h b = none) : s.cmdArrives op h b =
      (base s h slot ses).mapJnl fun j => { j with cmds := j.cmds ++ [newCmd op h b .awaits] } := by
  rw [cmdArrives_acceptable hd hp hhalt hf hq hlo hhi ha hlast hnew hroom, if_pos ⟨hkind, hchk, by rw [hs]; rfl⟩]

theorem State.cmdArrives_enters (hw : ¬ (b.cflags.toNat % 4 ≠ 0 ∧ s.ctl.checking h.job = true))
    (hc : (base s h slot ses).admitCheck (noted ses h) op h b = none) : s.cmdArrives op h b =
      (base s h slot ses).mapJnl fun j => { j with cmds := j.cmds ++ [newCmd op h b .journaling] } := by
  rw [cmdArrives_acceptable hd hp hhalt hf hq hlo hhi ha hlast hnew hroom, if_neg fun x => hw ⟨x.1, x.2.1⟩, hc]
  rfl

end
end

/-- O31, the entry in the journal: each of the four operations is `State.cmdArrives`. -/
theorem commandsEnterJournal : Claims.CommandsEnterJournal := by
  intro h b s slot ses q hd hp hhalt hq hlo hhi ha hlast hnew hroom s1 enters
  have enters_of {i : Instr} {op : Nat} (hi : exec i s = .next (s.cmdArrives op h b)) : enters i op := by
    intro hf
    have hchecking := s.ctl.checking_iff h.job
    refine ⟨fun hw hc => ?_, fun ⟨hkind, hm⟩ hs => ?_⟩
    · rw [hi, State.cmdArrives_enters hd hp hhalt hf hq hlo hhi ha hlast hnew hroom (fun x => hw ⟨x.1, hchecking.mp x.2⟩) hc]
      rfl
    · rw [hi, State.cmdArrives_awaits hd hp hhalt hf hq hlo hhi ha hlast hnew hroom hkind (hchecking.mpr hm) hs]
      rfl
  exact ⟨enters_of (exec_cmdRun h b s), enters_of (exec_cmdInstall h b s), enters_of (exec_cmdPreempt h b s),
    enters_of (exec_cmdRelease h b s)⟩

/-! ### Numbers already taken (R33, R411) -/

/-- A number already taken is answered with an ACK of status DUPLICATE, whatever is known of the command. -/
theorem State.duplicate_eq_ackCmd (s : State) (h : MsgHdr) (q : CmdQueue) :
    ∃ cs st, s.duplicate h q = s.ackCmd h stDUPLICATE cs st q.nextExp := by
  unfold duplicate
  split
  · exact ⟨_, _, rfl⟩
  · split
    · exact ⟨_, _, rfl⟩
    · split
      · exact ⟨_, _, rfl⟩
      · exact ⟨_, _, rfl⟩

/-- O31, the numbers outside the window of a queue. -/
theorem commandNumbersAreGuarded : Claims.CommandNumbersAreGuarded := by
  intro h b s slot ses q hd hp hhalt hf hq
  refine ⟨fun hn p hreach => ?_, fun hn hlast ha => ?_⟩
  · obtain ⟨cs, st, hdup⟩ := (base s h slot ses).duplicate_eq_ackCmd h q
    have hack : (base s h slot ses).ackCmd h stDUPLICATE cs st q.nextExp =
        (base s h slot ses).reply { h with port := p } fun g => .ack g stDUPLICATE cs st q.nextExp := by
      simp only [State.ackCmd, State.answerBy, base_reachPort, hreach]
    refine ⟨_, cs, st, by rw [exec_cmdRun, State.cmdArrives_below hd hp hhalt hf hq hn, hdup, hack], by simp, by simp, by simp, ?_⟩
    obtain ⟨g, hg, hout⟩ := State.reply_out (base s h slot ses) { h with port := p } fun g => .ack g stDUPLICATE cs st q.nextExp
    exact ⟨g, hg, hout⟩
  · exact ⟨_, (exec_cmdRun h b s).trans (congrArg _ (State.cmdArrives_beyond hd hp hhalt hf hq hn hlast ha)),
      base_jnl s h slot ses, rfl, rfl, rfl⟩

/-- Settles O31: the parts above, each by what `State.cmdArrives` does and by the fields of the bytes. -/
theorem commandAdmission : Obligations.CommandAdmission := ⟨commandsEnterJournal, commandNumbersAreGuarded, messagesOnTheWire⟩

end Sys2Proof.Machine
end

section
/-! PROOFS. Attestation (19 R496 to R503): what an ATTEST_REPORT, an ATTEST_ENCAP and an ATTEST_LINK_SECRET do once their checks have
passed. -/
namespace Sys2Proof.Machine
open Sys2Proof.Claims

/-! ### ATTEST_REPORT (R497, R498, R501) -/

/-- What a nonce asks for in a state in which the message has been received: the held report again, or a new one. -/
def State.answerNonce (s : State) (h : MsgHdr) (slot : Nat) (ses : Session) (n : BitVec 256) : State :=
  match ses.report with
  | some r => if r.nonce = n then s.reportPart h ses r 0 else s.newReport h slot ses n
  | none => s.newReport h slot ses n

theorem State.answerNonce_held {s : State} {h : MsgHdr} {slot : Nat} {ses : Session} {r : HeldReport} (hr : ses.report = some r) :
    s.answerNonce h slot ses r.nonce = s.reportPart h ses r 0 := by
  simp [answerNonce, hr]

theorem State.answerNonce_new {s : State} {h : MsgHdr} {slot : Nat} {ses : Session} {n : BitVec 256}
    (hr : ∀ r, ses.report = some r → r.nonce ≠ n) : s.answerNonce h slot ses n = s.newReport h slot ses n := by
  cases hrep : ses.report with
  | none => simp [answerNonce, hrep]
  | some r => simp [answerNonce, hrep, hr r hrep]

/-- Without a leaf left no report is signed. -/
theorem State.newReport_no_leaf {s : State} {h : MsgHdr} {slot : Nat} {ses : Session} {n : BitVec 256} (hl : s.ctl.leavesLeft = 0) :
    s.newReport h slot ses n = s.attestNo h 1 stREJECTED_CAPACITY := by
  rw [newReport, if_pos hl]

section
variable {h : MsgHdr} {s : State} {slot : Nat} {ses : Session}
variable (hd : Heard s h slot ses) (hdst : s.ctl.dev.dstate ≠ .retreat)
include hd hdst

theorem exec_attestReport_nonce (n : BitVec 256) (hplain : plainHdr h 48 = true) :
    exec (.attestReport h (some n) 0) s = .next ((base s h slot ses).answerNonce h slot (noted ses h) n) := by
  change Host.Outcome.next (s.recv h true _ _) = _
  rw [State.recv_acts hd (.inl rfl) (by simp [hplain])]
  simp only [base_dev, if_neg hdst, State.answerNonce]
  cases (noted ses h).report <;> rfl

/-! ### ATTEST_ENCAP (R499 to R501) -/

/-- The form of an ENCAP object and of its header (R399, R499). -/
def encapFormed (ses : Session) (h : MsgHdr) (o : EncapObj) : Bool :=
  h.queue == noQueue && h.eseq == 0 && decide (o.role.toNat ≤ 2) && o.rsvd == 0 && o.ct.length == 1568 &&
    o.opkey.length == 60 && decide (o.opsig.length ≤ 16384) && partFits ses (1636 + o.opsig.length) h.length.toNat

/-- The session as an ENCAP that passes its checks leaves it. -/
def Session.admittedBy (ses : Session) (r : HeldReport) (o : EncapObj) : Session :=
  { ses with keys := sessionKeys r (kemDecaps r.boots.toNat o.ct) ses, state := .admitted, admin := o.role != 0 }

/-- The state before the answer to an ENCAP that passes its checks: role 2 sets the anchor, and the session is admitted. -/
def State.admitEncap (s : State) (slot : Nat) (ses : Session) (r : HeldReport) (o : EncapObj) : State :=
  (if o.role = 2 then s.mapSec fun x => { x with anchor := keyHash o.opkey } else s).mapCtl fun c =>
    c.setSession slot (ses.admittedBy r o)

/-- The confirmation that an admitted session is sent (R500). -/
def confirmation (r : HeldReport) (o : EncapObj) (ses : Session) : List Byte :=
  hmac ((sessionKeys r (kemDecaps r.boots.toNat o.ct) ses).drop 80) (transcript r o ses)

theorem exec_attestEncap_admits {o : EncapObj} {r : HeldReport} (hform : encapFormed ses h o = true)
    (hr : ses.report = some r) (hn : r.nonce = o.nonce) (hst : ses.state ≠ .closing) (hsealed : s.ctl.dev.sealed = false ∨ o.role ≠ 2)
    (hsig : hssVerify o.opkey (transcript r o ses) o.opsig = true) (hanchor : s.ctl.anchorOk o = true) :
    exec (.attestEncap h o) s = .next ((((base s h slot ses).admitEncap slot (noted ses h) r o).reply h fun g =>
      .attestResp g 2 stOK 0 1 32 (confirmation r o ses)).firstAdmission) := by
  have hseal : (s.ctl.dev.sealed && o.role == 2) = false := by
    rcases hsealed with e | e
    · rw [e, Bool.false_and]
    · rw [beq_false_of_ne e, Bool.and_false]
  have hanchor' : (base s h slot ses).ctl.anchorOk o = true := by rw [Ctl.anchorOk, base_sec]; exact hanchor
  change Host.Outcome.next (s.recv h true _ _) = _
  rw [State.recv_acts hd (.inl rfl) hform]
  simp only [base_dev, if_neg hdst, hseal, noted_report, hr, hn, transcript_noted, hsig, hanchor', noted_state, beq_false_of_ne hst,
    sessionKeys_noted]
  simp [State.admitEncap, Session.admittedBy, confirmation, hr]

end

/-- Only the first admission after BOOT changes the device (R25, R438). -/
theorem State.firstAdmission_of_not_boot {s : State} (h : s.ctl.dev.dstate ≠ .boot) : s.firstAdmission = s := by
  rw [firstAdmission, if_neg h]

section
variable (s : State) (slot : Nat)

@[simp] theorem State.mapSec_session? (f : Sec → Sec) : (s.mapSec f).session? slot = s.session? slot := rfl

/-- An admission changes the session and, for role 2, the anchor: no core, byte of memory or register. -/
theorem State.admitEncap_frame (ses : Session) (r : HeldReport) (o : EncapObj) : let t := s.admitEncap slot ses r o
    t.mem = s.mem ∧ t.cores = s.cores ∧ t.ctl.regs = s.ctl.regs ∧ t.ctl.dev = s.ctl.dev ∧
    (o.role = 2 → t.ctl.sec.anchor = keyHash o.opkey) := by
  by_cases hrole : o.role = 2
  · rw [admitEncap, if_pos hrole]
    simp [Ctl.setSession]
  · rw [admitEncap, if_neg hrole]
    exact ⟨rfl, rfl, rfl, rfl, fun e => absurd e hrole⟩

theorem State.admitEncap_session? {old : Session} (hs : s.session? slot = some old) (ses : Session) (r : HeldReport) (o : EncapObj) :
    (s.admitEncap slot ses r o).session? slot = some (ses.admittedBy r o) := by
  refine State.session?_setSession (old := old) ?_ _
  split
  · rw [State.mapSec_session?, hs]
  · exact hs

end

/-! ### ATTEST_LINK_SECRET (R503) -/

/-- The form of a link secret object and of its header (R399, R503). -/
def linkSecretFormed (h : MsgHdr) (o : LinkSecretObj) : Bool :=
  h.queue == noQueue && h.eseq == 0 && o.len == 80 && h.length.toNat == 96 && o.rsvd1 == 0 && o.rsvd2 == 0 && o.gen != 0 &&
    decide (o.port.toNat < 16)

/-- The bytes that a wrapped link secret authenticates besides itself. -/
def linkSecretAad (o : LinkSecretObj) : List Byte :=
  leBytes 1 o.port.toNat ++ [0] ++ leBytes 2 o.devid.toNat ++ leBytes 4 o.gen.toNat

theorem exec_attestLinkSecret_opens {h : MsgHdr} {s : State} {slot : Nat} {ses : Session} (hd : Heard s h slot ses)
    {o : LinkSecretObj} {ls : List Byte} (hp : o.port.toNat < 16)
    (hform : linkSecretFormed h o = true) (hst : ses.state = .admitted) (hadm : ses.admin = true)
    (hopen : gcmOpen ses.wrapKey (leBytes 12 o.nonce.toNat) (linkSecretAad o)
      (beBytes 32 o.wrap.toNat) (beBytes 16 o.tag.toNat) = some ls) :
    exec (.attestLinkSecret h o) s = .next (((base s h slot ses).updPort ⟨o.port.toNat, hp⟩ fun v =>
      { v with secret := some ⟨o.devid.extractLsb' 0 15, o.gen, BitVec.ofNat 256 (ofBe ls)⟩ }).attestNo h 3 stOK) := by
  have hport : (⟨o.port.toNat % 16, Nat.mod_lt _ (by decide)⟩ : MPort) = ⟨o.port.toNat, hp⟩ := Fin.ext (Nat.mod_eq_of_lt hp)
  have hadmitted : (admittedSes (noted ses h) && (noted ses h).admin) = true := by simp [admittedSes, hst, hadm]
  unfold linkSecretAad at hopen
  change Host.Outcome.next (s.recv h true _ _) = _
  rw [State.recv_acts hd (.inl rfl) hform]
  simp only [hadmitted, noted_wrapKey, hopen, hport]
  rfl

/-- Settles O44, message by message: each reaches its own effect through `State.recv_acts`. -/
theorem attestationAdmits : Obligations.AttestationAdmits := by
  intro h s slot ses hd hdst hs
  refine ⟨fun r hplain hr => ?_, fun n hplain hr hleaf => ?_, ?_, ?_⟩
  · rw [exec_attestReport_nonce hd hdst _ hplain, State.answerNonce_held (by rw [noted_report, hr])]
  · rw [exec_attestReport_nonce hd hdst _ hplain, State.answerNonce_new (by rwa [noted_report]), State.newReport_no_leaf hleaf]
    rfl
  · intro o r hqueue heseq hrole hrsvd hct hkey hsiglen hfits hr hn hst hsealed hsig hanchor hboot
    have hform : encapFormed ses h o = true := by
      simp [encapFormed, hqueue, heseq, hrole, hrsvd, hct, hkey, hsiglen, hfits, noQueue]
    obtain ⟨hmem, hcores, hregs, hdev, hanchored⟩ := (base s h slot ses).admitEncap_frame slot (noted ses h) r o
    have hses := (base s h slot ses).admitEncap_session? slot (base_session? (h := h) hs) (noted ses h) r o
    rw [exec_attestEncap_admits hd hdst hform hr hn hst hsealed hsig hanchor]
    rw [State.firstAdmission_of_not_boot (by rwa [State.reply_dev, hdev, base_dev])]
    refine ⟨_, confirmation r o ses, rfl, ?_, State.reply_out _ _ _, ?_, ?_, ?_, fun hrole2 => ?_⟩
    · rw [State.reply_session?, hses, Session.admittedBy, sessionKeys_noted]
    · rw [State.reply_mem, hmem, base_mem]
    · rw [State.reply_cores, hcores, base_cores]
    · rw [State.reply_regs, hregs, base_regs]
    · rw [State.reply_sec, hanchored hrole2, keyHash]
  · intro o ls hqueue heseq hlen hlength hrsvd1 hrsvd2 hgen hp hst hadm hopen
    have hform : linkSecretFormed h o = true := by
      rw [linkSecretFormed, bne_iff_ne.mpr hgen]
      simp [hqueue, heseq, hlen, hlength, hrsvd1, hrsvd2, hp, noQueue]
    refine ⟨_, exec_attestLinkSecret_opens hd hp hform hst hadm hopen, ?_, ?_, ?_⟩
    · rw [State.attestNo, State.reply_mem, State.updPort_mem, base_mem]
    · rw [State.attestNo, State.reply_cores, State.updPort_cores, base_cores]
    · simp [State.attestNo]

end Sys2Proof.Machine
end

section
/-! PROOFS. The sticky flags (03 R83 to R86): what an engine's own additions, a write of a flag register and the record of a
non-finite element do to the flag registers and to NONFIN_POS. -/
namespace Sys2Proof.Machine

/-! ### An engine adds flags (R83, R84) -/

theorem Core.addFlags_flags_own (k : Core) (e : Engine) (f : Flags) :
    (k.addFlags e f).flags[e.idx] = k.flags[e.idx] ||| (f &&& e.mask) :=
  Vector.getElem_set_self _

theorem Core.addFlags_flags_ne (k : Core) {e : Engine} {j : Fin 4} (hj : j ≠ e.idx) (f : Flags) :
    (k.addFlags e f).flags[j] = k.flags[j] :=
  Vector.getElem_set_ne e.idx.isLt j.isLt (Fin.val_ne_of_ne hj.symm)

/-! ### A write of a flag register (R83, R86) -/

/-- The branch of R86 touches NONFIN_POS only: the flag registers are written alike in both. -/
theorem Core.clearFlags_flags (k : Core) (e : Engine) (v : Flags) :
    (k.clearFlags e v).flags = k.flags.set e.idx (k.flags[e.idx] &&& ~~~v) := by
  unfold Core.clearFlags
  split <;> rfl

theorem Core.clearFlags_flags_own (k : Core) (e : Engine) (v : Flags) :
    (k.clearFlags e v).flags[e.idx] = k.flags[e.idx] &&& ~~~v := by
  rw [Core.clearFlags_flags]
  exact Vector.getElem_set_self _

theorem Core.clearFlags_flags_ne (k : Core) {e : Engine} {j : Fin 4} (hj : j ≠ e.idx) (v : Flags) :
    (k.clearFlags e v).flags[j] = k.flags[j] := by
  rw [Core.clearFlags_flags]
  exact Vector.getElem_set_ne _ _ (Fin.val_ne_of_ne hj.symm)

theorem Core.clearFlags_nonfinPos (k : Core) (e : Engine) (v : Flags) :
    (k.clearFlags e v).nonfinPos = if e = .acc ∧ v &&& fNonfin ≠ 0 then 0 else k.nonfinPos :=
  apply_ite Core.nonfinPos _ _ _

/-! ### A drain records a non-finite element (R86) -/

theorem Core.recordNonfin_flags (k : Core) (p : BitVec 32) : (k.recordNonfin p).flags = (k.addFlags .acc fNonfin).flags := by
  unfold Core.recordNonfin
  dsimp only
  split <;> rfl

theorem Core.recordNonfin_nonfinPos (k : Core) (p : BitVec 32) :
    (k.recordNonfin p).nonfinPos = if k.flags[1] &&& fNonfin = 0 then p else k.nonfinPos :=
  apply_ite Core.nonfinPos _ _ _

theorem Core.recordNonfin_flags_acc (k : Core) (p : BitVec 32) :
    (k.recordNonfin p).flags[1] = k.flags[1] ||| (fNonfin &&& Engine.mask .acc) := by
  rw [Core.recordNonfin_flags]
  exact k.addFlags_flags_own .acc fNonfin

/-- Settles O9: each clause is what one of the three flag operations does to one field. -/
theorem flagsAreStickyAndWriteOneClears : Obligations.FlagsAreStickyAndWriteOneClears := by
  intro k e v f
  refine ⟨k.clearFlags_flags_own e v, fun j hj => ?_, k.addFlags_flags_own e f, k.clearFlags_nonfinPos e v, fun p => ?_⟩
  · exact ⟨k.clearFlags_flags_ne hj v, k.addFlags_flags_ne hj f⟩
  · exact ⟨k.recordNonfin_nonfinPos p, k.recordNonfin_flags_acc p⟩

end Sys2Proof.Machine
end

section
/-! PROOFS. The statistics block and the codebook slots (04 R105, R107; 09 R260, R262): what the start checks of `qnt.sdump` and
`qnt.cbload` decide, and what the bytes that the two instructions write read back as. -/
namespace Sys2Proof.Machine

/-! ### Reading a part of a range -/

theorem Memory.readBytes_getD (m : Memory) (a n : Nat) {i : Nat} (hi : i < n) : (m.readBytes a n).getD i 0 = m.read8 (a + i) := by
  simp [readBytes, KMap.getMany, read8, hi]

/-- A value inside a range is the field of the range's bytes at its offset. -/
theorem Memory.readLe_eq_leField (m : Memory) (a : Nat) {off n len : Nat} (h : off + n ≤ len) :
    m.readLe (a + off) n = leField (m.readBytes a len) off n := by
  refine congrArg ofLe (List.ext_getElem (by simp [readBytes, KMap.getMany]; omega) fun i _ _ => ?_)
  simp [readBytes, KMap.getMany, Nat.add_assoc]

/-- A register that fits its little-endian bytes survives them. -/
theorem ofLe_leBytes_toNat {w n : Nat} (x : BitVec w) (h : w ≤ 8 * n) : ofLe (leBytes n x.toNat) = x.toNat := by
  rw [ofLe_leBytes, show (256 : Nat) = 2 ^ 8 from rfl, ← Nat.pow_mul]
  exact Nat.mod_eq_of_lt (Nat.lt_of_lt_of_le x.isLt (Nat.pow_le_pow_right (by decide) h))

/-! ### Range and alignment of a ledge offset that no descriptor names (R203) -/

theorem checkOff_eq (a al n : Nat) : checkOff a al n =
    if a % al = 0 then if a + n ≤ ledgeSize then .ok () else .error (dataTrap 0x2) else .error (dataTrap 0x3) := by
  by_cases ha : a % al = 0 <;> by_cases hr : a + n ≤ ledgeSize <;> simp [checkOff, need, ha, hr, bind, Except.bind]

/-! ### `qnt.sdump` (R107, R262) -/

@[simp] theorem length_statsBlock (q : QStats) : (statsBlock q).length = 48 := by simp [statsBlock]

/-- The map of the block in R107, field by field. -/
theorem statsBlock_fields (q : QStats) : let b := statsBlock q
    leField b 0x00 8 = q.sse.toNat ∧ leField b 0x08 8 = q.maxabs.toNat ∧ leField b 0x10 8 = q.nelem.toNat ∧
    leField b 0x18 4 = q.nblk.toNat ∧ leField b 0x1C 4 = q.nzblk.toNat ∧ leField b 0x20 4 = q.nsatblk.toNat ∧
    leField b 0x24 4 = q.nnfblk.toNat ∧ leField b 0x28 4 = q.nout.toNat ∧ leField b 0x2C 4 = q.nodrop.toNat := by
  simp [leField, statsBlock, List.drop_append, List.drop_eq_nil_of_le, List.take_of_length_le, ofLe_leBytes_toNat]

/-- The outcome by the start checks of R262, in the order that the model chose (log 20): alignment, range, read-only sections,
active spill areas. -/
theorem effSdump_eq (k : Core) (e : QEntry) : let a := e.ledgeOff (fld e.w 38 5)
    effSdump k e = if a % 8 = 0 then
      if a + 48 ≤ ledgeSize then
        if anyOverlap [(a, 48)] k.readOnly then .error (dataTrap 0xB)
        else if anyOverlap [(a, 48)] k.spillAreas then .error (dataTrap 0x8) else .ok (doSdump k e)
      else .error (dataTrap 0x2)
    else .error (dataTrap 0x3) := by
  intro a
  simp only [effSdump, checkSdump, checkOff_eq, Core.ledgeWritable_eq]
  by_cases ha : a % 8 = 0
  · by_cases hr : a + 48 ≤ ledgeSize
    · rw [if_pos ha, if_pos hr, if_pos ha, if_pos hr]
      cases anyOverlap [(a, 48)] k.readOnly <;> cases anyOverlap [(a, 48)] k.spillAreas <;> rfl
    · rw [if_pos ha, if_neg hr, if_pos ha, if_neg hr]; rfl
  · rw [if_neg ha, if_neg ha]; rfl

section
variable (k : Core) (e : QEntry)

theorem doSdump_readBytes : (doSdump k e).ledge.readBytes (e.ledgeOff (fld e.w 38 5)) 48 = statsBlock k.qs :=
  Memory.readBytes_writeBytes _ _ _ _ (length_statsBlock _)

theorem doSdump_readLe {off n : Nat} (h : off + n ≤ 48) :
    (doSdump k e).ledge.readLe (e.ledgeOff (fld e.w 38 5) + off) n = leField (statsBlock k.qs) off n := by
  rw [Memory.readLe_eq_leField _ _ h, doSdump_readBytes]

theorem doSdump_read8_outside {x : Nat} (hx : x < e.ledgeOff (fld e.w 38 5) ∨ e.ledgeOff (fld e.w 38 5) + 48 ≤ x) :
    (doSdump k e).ledge.read8 x = k.ledge.read8 x := by
  rw [doSdump, Memory.read8_writeBytes, length_statsBlock, if_neg (by omega)]

end

/-! ### `qnt.cbload` (R69, R260) -/

/-- The outcome by the start checks of R260, in the order that the model chose (log 20): alignment, range, then the pair itself (R69). -/
theorem effCbload_eq (k : Core) (e : QEntry) : let b := e.ledgeOff (fld e.w 35 5)
    effCbload k e = if b % 16 = 0 then
      if b + 288 ≤ ledgeSize then
        if cbOk (cbloadPair k e) then .ok (doCbload k { e with data := cbloadPair k e }) else .error (dataTrap 0x6)
      else .error (dataTrap 0x2)
    else .error (dataTrap 0x3) := by
  intro b
  simp only [effCbload, checkCbload, checkOff_eq, need]
  by_cases hb : b % 16 = 0
  · by_cases hr : b + 288 ≤ ledgeSize
    · rw [if_pos hb, if_pos hr, if_pos hb, if_pos hr]
      cases cbOk (cbloadPair k e) <;> rfl
    · rw [if_pos hb, if_neg hr, if_pos hb, if_neg hr]; rfl
  · rw [if_neg hb, if_neg hb]; rfl

/-- The slot named by the instruction holds the pair read at start. -/
theorem doCbload_slot (k : Core) (e : QEntry) :
    (doCbload k e).cb[(fld e.w 40 3).toNat]'(fld e.w 40 3).isLt = Memory.writeBytes [] 0 e.data :=
  Vector.getElem_set_self _

theorem doCbload_read8 (k : Core) (e : QEntry) {i : Nat} (hi : i < 288) :
    ((doCbload k { e with data := cbloadPair k e }).cb[(fld e.w 40 3).toNat]'(fld e.w 40 3).isLt).read8 i =
      k.ledge.read8 (e.ledgeOff (fld e.w 35 5) + i) := by
  have hlen : (cbloadPair k e).length = 288 := by simp [cbloadPair, Memory.readBytes, KMap.getMany]
  rw [doCbload_slot k { e with data := cbloadPair k e }, Memory.read8_writeBytes, hlen, if_pos (by omega), Nat.sub_zero]
  exact Memory.readBytes_getD _ _ _ hi

/-- Settles O29: `effSdump_eq` and `effCbload_eq` decide the outcomes; the bytes of the block and of the pair are read back. -/
theorem statisticsDumpAndCodebookLoad : Obligations.StatisticsDumpAndCodebookLoad := by
  intro k e a b
  have hdump := effSdump_eq k e
  have hload := effCbload_eq k e
  refine ⟨fun ha hr hro hsp => ?_, fun ha => ?_, fun ha hr => ?_, fun hb hr hok => ?_, fun hb hr hbad => ?_⟩
  · obtain ⟨hsse, -, hnelem, -, -, -, -, -, hnodrop⟩ := statsBlock_fields k.qs
    refine ⟨doSdump k e, ?_, rfl, (doSdump_readLe k e (off := 0) (by decide)).trans hsse,
      (doSdump_readLe k e (by decide)).trans hnelem, (doSdump_readLe k e (by decide)).trans hnodrop,
      fun x hx => doSdump_read8_outside k e hx⟩
    rw [hdump, if_pos ha, if_pos hr, if_neg (Bool.eq_false_iff.mp hro), if_neg (Bool.eq_false_iff.mp hsp)]
  · rw [hdump, if_neg ha]
  · rw [hdump, if_pos ha, if_neg hr]
  · refine ⟨doCbload k { e with data := cbloadPair k e }, ?_, rfl, fun i hi => doCbload_read8 k e hi⟩
    rw [hload, if_pos hb, if_pos hr]
    exact if_pos hok
  · rw [hload, if_pos hb, if_pos hr]
    exact if_neg (Bool.eq_false_iff.mp hbad)

end Sys2Proof.Machine
end

section
/-! PROOFS. Exact sums of the array (05 R126, R129) and of the Fixed-Rope accumulate (05 R146, R148): what a column of products
rounds to, and what terms add to a Fixed-Rope element while its range holds them. -/
namespace Sys2Proof.Machine

/-! ### Sums in any order -/

theorem sum_eq_of_perm {α : Type} [Add α] [Zero α] (hcomm : ∀ a b c : α, a + (b + c) = b + (a + c)) {xs ys : List α}
    (h : xs.Perm ys) : xs.sum = ys.sum :=
  h.foldr_eq' (fun x _ y _ z => hcomm y x z) 0

/-! ### The column step (R129) -/

section
variable {ps qs : List FVal}

/-- The exact sum that the column step accumulates. -/
theorem foldl_add_toRat (ps : List FVal) : ps.foldl (fun s p => s + p.toRat) 0 = (ps.map FVal.toRat).sum := by
  rw [List.sum_eq_foldl, List.foldl_map]

theorem columnStep_invalid (h : (∃ p ∈ ps, p.isNan = true) ∨ (.inf true ∈ ps ∧ .inf false ∈ ps)) :
    columnStep ps = (fp32.nanBits, fInvalid) := by
  refine if_pos ?_
  simpa using h

theorem columnStep_inf {n : Bool} (hnan : ∀ p ∈ ps, p.isNan = false) (hn : .inf n ∈ ps) (hnot : FVal.inf (!n) ∉ ps) :
    columnStep ps = (encodeInf fp32 n, 0) := by
  have hany : ps.any FVal.isNan = false := by simpa using hnan
  cases n with
  | true =>
    have hneg : FVal.inf false ∉ ps := hnot
    simp [columnStep, hany, hn, hneg]
  | false =>
    have hpos : FVal.inf true ∉ ps := hnot
    simp [columnStep, hany, hn, hpos]

theorem columnStep_finite (h : ∀ p ∈ ps, p.isNonfin = false) :
    columnStep ps = if (ps.map FVal.toRat).sum = 0 then (0, 0) else roundRne fp32 (FVal.ofRat (ps.map FVal.toRat).sum) := by
  have hany : ps.any FVal.isNan = false := by simpa using fun p hp => (Bool.or_eq_false_iff.mp (h p hp)).1
  have hinf (n : Bool) : FVal.inf n ∉ ps := fun hn => Bool.eq_false_iff.mp (h _ hn) rfl
  simp [columnStep, hany, hinf, foldl_add_toRat]

/-- Every test of the column step is of membership, and the sum is commutative. -/
theorem columnStep_perm (h : ps.Perm qs) : columnStep qs = columnStep ps := by
  have hsum : (ps.map FVal.toRat).sum = (qs.map FVal.toRat).sum := sum_eq_of_perm Rat.add_left_comm (h.map FVal.toRat)
  simp only [columnStep, foldl_add_toRat, hsum, h.any_eq, h.contains_eq]

end

/-- Settles O26, a clause by each case of the column step. -/
theorem columnSumIsRoundedOnce : Obligations.ColumnSumIsRoundedOnce := by
  intro ps
  refine ⟨columnStep_invalid, fun hnan n => columnStep_inf hnan, fun h hz => ?_, fun h hz => ?_, fun qs => columnStep_perm⟩
  · rw [columnStep_finite h, if_pos hz]
  · rw [columnStep_finite h, if_neg hz]

/-! ### Fixed-Rope sums (R146, R148) -/

/-- What a finite term adds to an element, in units of the anchor (R146). -/
def frUnits (A : Int) (t : FVal) : Int := (roundToInt .rne (t.toRat * pow2 (-A))).1

/-- A sum inside the range is neither clipped nor, on an element that is finite, marked. -/
theorem frAdd_fst_of_inRange {A V : Int} {n : Bool} {m : Rat} (hV : V.natAbs < 2 ^ 127)
    (hsum : (V + frUnits A (.num n m)).natAbs < 2 ^ 127) : (frAdd A V (.num n m)).1 = V + frUnits A (.num n m) := by
  have hmark : V ≠ frMarker := by unfold frMarker; omega
  have hlo : ¬ V + frUnits A (.num n m) < -frMax := by unfold frMax; omega
  have hhi : ¬ frMax < V + frUnits A (.num n m) := by unfold frMax; omega
  exact (if_neg hmark).trans ((if_neg hhi).trans (if_neg hlo))

theorem frAddAll_fst (A V : Int) (ts : List FVal) : (frAddAll A V ts).1 = ts.foldl (fun V t => (frAdd A V t).1) V :=
  (List.foldl_hom Prod.fst fun _ _ => rfl).symm

/-- Every partial sum stays inside the range, since its size is at most the sum of the sizes. -/
theorem frAddAll_fst_of_inRange (A : Int) {ts : List FVal} (hfin : ∀ t ∈ ts, ∃ n m, t = FVal.num n m) {V : Int}
    (h : V.natAbs + (ts.map fun t => (frUnits A t).natAbs).sum < 2 ^ 127) :
    (frAddAll A V ts).1 = V + (ts.map (frUnits A)).sum := by
  rw [frAddAll_fst]
  induction ts generalizing V with
  | nil => simp
  | cons t ts ih =>
    obtain ⟨n, m, rfl⟩ := hfin t (by simp)
    simp only [List.map_cons, List.sum_cons] at h ⊢
    have habs := Int.natAbs_add_le V (frUnits A (.num n m))
    rw [List.foldl_cons, frAdd_fst_of_inRange (by omega) (by omega),
      ih (fun t ht => hfin t (List.mem_cons_of_mem _ ht)) (by omega), Int.add_assoc]

/-- Settles O27: both orders give the element plus the sum of the rounded terms. -/
theorem fixedRopeSumIgnoresOrder : Obligations.FixedRopeSumIgnoresOrder := by
  intro A V ts us hp hfin size hsize
  have hsum := frAddAll_fst_of_inRange A hfin hsize
  have hunits : (ts.map (frUnits A)).sum = (us.map (frUnits A)).sum := sum_eq_of_perm Int.add_left_comm (hp.map _)
  have hsizes : (ts.map size).sum = (us.map size).sum := sum_eq_of_perm Nat.add_left_comm (hp.map _)
  have hfin' : ∀ u ∈ us, ∃ n m, u = FVal.num n m := fun u hu => hfin u (hp.mem_iff.mpr hu)
  have hsum' := frAddAll_fst_of_inRange A hfin' (hsizes ▸ hsize)
  exact ⟨by rw [hsum, hsum', hunits], hsum⟩

end Sys2Proof.Machine
end

section
/-! PROOFS. Array steps on the accumulator tiles (05 R130, R131, R137; 09 R243): reading a tile after another was written, the spill
that a step triggers, and what `mac.step` does to its tile, the spill queue and the flags. -/
namespace Sys2Proof.Machine

/-! ### Reading a tile after a write -/

section
variable (k : Core) {m n : Fin 16} (t : Tile)

theorem Core.tiles_setTile_self : (k.setTile n t).tiles[n] = t := Vector.getElem_set_self _

theorem Core.tiles_setTile_ne (h : m ≠ n) : (k.setTile n t).tiles[m] = k.tiles[m] :=
  Vector.getElem_set_ne n.isLt m.isLt (Fin.val_ne_of_ne h.symm)

end

/-! ### The spill that an array step triggers (R137) -/

/-- The core as a tile step of entry e finds it: at SPILL_N the tile has been handed to the spill engine. -/
def Core.stepReady (k : Core) (n : Fin 16) (e : QEntry) : Core := if (k.tile n).mustSpill then k.spillStep n e else k

theorem Tile.mustSpill_iff (t : Tile) : t.mustSpill = true ↔ t.mode = .standard ∧ t.ssteps = t.spillN := by
  simp [Tile.mustSpill]

section
variable (k : Core) (n : Fin 16) (e : QEntry)

theorem Core.spillStep_tile : (k.spillStep n e).tile n = { k.tile n with elems := [], ssteps := 0 } := k.tiles_setTile_self _

theorem Core.stepReady_flags : (k.stepReady n e).flags = k.flags := by
  unfold Core.stepReady
  split <;> rfl

theorem Core.stepReady_mode : ((k.stepReady n e).tile n).mode = (k.tile n).mode := by
  unfold Core.stepReady
  split
  · rw [Core.spillStep_tile]
  · rfl

theorem Core.stepReady_tiles_ne {m : Fin 16} (h : m ≠ n) : (k.stepReady n e).tiles[m] = k.tiles[m] := by
  unfold Core.stepReady
  split
  · exact k.tiles_setTile_ne _ h
  · rfl

theorem Core.stepReady_of_not_mustSpill (h : (k.tile n).mustSpill = false) : k.stepReady n e = k :=
  if_neg (Bool.eq_false_iff.mp h)

theorem Core.stepReady_of_mustSpill (h : (k.tile n).mustSpill = true) : k.stepReady n e = k.spillStep n e := if_pos h

end

/-! ### The array step (R131, R132, R243) -/

theorem effStep_ok {k r : Core} {v : Env} {e : QEntry} (h : effStep k v e = .ok r) : r = doStep k e := by
  unfold effStep at h
  cases hc : checkStep k v e with
  | error x => simp [hc, bind, Except.bind] at h
  | ok u => simpa [hc, bind, Except.bind, pure, Except.pure, eq_comm] using h

/-- Tile u is tile t with elements of its own: mode, counters and spill area are those of t. -/
def Tile.SameButElements (t u : Tile) : Prop := ∃ elems fr, u = { t with elems := elems, fr := fr }

/-- Additions that reach the elements of a tile only, one after the other. -/
theorem Tile.sameButElements_foldl {α β : Type} {step : Tile × β → α → Tile × β}
    (hstep : ∀ (acc : Tile × β) x, acc.1.SameButElements (step acc x).1) (acc : Tile × β) (xs : List α) :
    acc.1.SameButElements (xs.foldl step acc).1 := by
  induction xs generalizing acc with
  | nil => exact ⟨_, _, rfl⟩
  | cons x xs ih =>
    obtain ⟨_, _, h⟩ := hstep acc x
    obtain ⟨elems, fr, h'⟩ := ih (step acc x)
    exact ⟨elems, fr, h'.trans (by rw [h])⟩

/-- The products of a step reach the elements of its tile and the flags only; the counters advance once. -/
theorem doStep_eq (k : Core) (e : QEntry) : let n := tileOf (fld e.w 39 4)
    ∃ u fm fa, Tile.SameButElements ((k.stepReady n e).tile n) u ∧
      doStep k e = (((k.stepReady n e).setTile n u.advance.1).addFlags .mac fm).addFlags .acc fa := by
  intro n
  unfold doStep
  dsimp only
  generalize hz : List.foldl _ (_, (0 : Flags), (0 : Flags)) (List.range _) = z
  refine ⟨z.1, z.2.1, _, ?_, rfl⟩
  rw [← hz]
  refine Tile.sameButElements_foldl (fun acc i => ?_) (_, 0, 0) _
  generalize (_ == TileMode.standard) = std
  cases std <;> exact ⟨_, _, rfl⟩

theorem doStep_frame (k : Core) (e : QEntry) :
    doStep k e = { k with tiles := (doStep k e).tiles, spills := (doStep k e).spills, flags := (doStep k e).flags } := by
  obtain ⟨u, fm, fa, -, h⟩ := doStep_eq k e
  rw [h]
  unfold Core.stepReady Core.spillStep Core.addFlags Core.setTile
  split <;> rfl

theorem doStep_tiles_ne (k : Core) (e : QEntry) {m : Fin 16} (hm : m ≠ tileOf (fld e.w 39 4)) :
    (doStep k e).tiles[m] = k.tiles[m] := by
  obtain ⟨u, fm, fa, -, h⟩ := doStep_eq k e
  rw [h]
  exact (Core.tiles_setTile_ne _ _ hm).trans (Core.stepReady_tiles_ne _ _ _ hm)

/-- The array and the accumulators are the engines of a step. -/
theorem doStep_flags_ne (k : Core) (e : QEntry) {j : Fin 4} (hmac : j ≠ Engine.mac.idx) (hacc : j ≠ Engine.acc.idx) :
    (doStep k e).flags[j] = k.flags[j] := by
  obtain ⟨u, fm, fa, -, h⟩ := doStep_eq k e
  rw [h, Core.addFlags_flags_ne _ hacc, Core.addFlags_flags_ne _ hmac]
  exact congrArg (·[j]) (Core.stepReady_flags _ _ _)

theorem doStep_spills (k : Core) (e : QEntry) : (doStep k e).spills = (k.stepReady (tileOf (fld e.w 39 4)) e).spills := by
  obtain ⟨u, fm, fa, -, h⟩ := doStep_eq k e
  rw [h]
  rfl

/-- A step counts once on a standard tile (R131), from the counters that a spill leaves. -/
theorem doStep_counters {k : Core} {e : QEntry} (hstd : (k.tile (tileOf (fld e.w 39 4))).mode = .standard) :
    let n := tileOf (fld e.w 39 4)
    let t0 := (k.stepReady n e).tile n
    let t1 := (doStep k e).tiles[n]
    t1.ssteps = t0.ssteps + 1 ∧ t1.t = t0.t + 1 ∧ t1.terms.toNat = min 0x80000000 (t0.terms.toNat + 128) := by
  intro n t0 t1
  obtain ⟨u, fm, fa, ⟨elems, fr, rfl⟩, h⟩ := doStep_eq k e
  have hmode : t0.mode = .standard := (Core.stepReady_mode _ _ _).trans hstd
  have ht1 : t1 = ({ t0 with elems := elems, fr := fr } : Tile).advance.1 := by
    simp only [t1, h]
    exact Core.tiles_setTile_self _ _
  have hfit : min 0x80000000 (t0.terms.toNat + 128) < 2 ^ 32 := by omega
  rw [ht1]
  simp only [Tile.advance, hmode, BitVec.toNat_ofNat, Nat.mod_eq_of_lt hfit, and_self]

/-- Settles O25: the frame and the counters of `doStep`, before SPILL_N and at it. -/
theorem arrayStepFrame : Obligations.ArrayStepFrame := by
  intro k r v e hr n
  obtain rfl := effStep_ok hr
  refine ⟨doStep_frame k e, fun m hm => doStep_tiles_ne k e hm, doStep_flags_ne (j := 2) k e (by decide) (by decide),
    doStep_flags_ne (j := 3) k e (by decide) (by decide), fun hstd hne => ?_, fun hstd heq => ?_⟩
  · have hready : k.stepReady n e = k :=
      k.stepReady_of_not_mustSpill n e (Bool.eq_false_iff.mpr fun h => hne ((Tile.mustSpill_iff _).mp h).2)
    have hspills := doStep_spills k e
    have hcount := doStep_counters hstd
    simp only [hready, n] at hspills hcount
    exact ⟨hspills, hcount⟩
  · have hready : k.stepReady n e = k.spillStep n e :=
      k.stepReady_of_mustSpill n e ((Tile.mustSpill_iff _).mpr ⟨hstd, heq⟩)
    obtain ⟨hcount, -, -⟩ := doStep_counters hstd
    refine ⟨(doStep_spills k e).trans (congrArg Core.spills hready), hcount.trans ?_⟩
    rw [hready, Core.spillStep_tile]
    rfl

end Sys2Proof.Machine
end

section
/-! PROOFS. How tiles end and spill (05 R137, R138; 09 R247; 10 R289): what `acc.free` and `acc.spill` answer for each kind of slot,
and what the first background spill of a tile leaves in its spill area, in the core and in the marks of bad words. -/
namespace Sys2Proof.Machine

/-! ### `acc.free` (R247) -/

theorem effFree_of_member {k : Core} {e : QEntry} (h : (k.tile (tileOf (fld e.w 39 4))).mode = .frMember) :
    effFree k e = .error (dataTrap 0x8) := by
  simp [effFree, checkFree, need, h, bind, Except.bind]

theorem effFree_of_live {k : Core} {e : QEntry} (h : k.tileLive (tileOf (fld e.w 39 4)) = true) :
    effFree k e = .ok (k.endTile (tileOf (fld e.w 39 4))) := by
  simp only [Core.tileLive, Bool.or_eq_true, beq_iff_eq] at h
  rcases h with h | h <;> simp [effFree, checkFree, doFree, need, h, bind, Except.bind, pure, Except.pure]

section
variable {k : Core} {n : Fin 16}

theorem Core.endTile_standard (h : (k.tile n).mode = .standard) : k.endTile n = k.setTile n { k.tile n with mode := .free } := by
  simp only [Core.endTile, h]

theorem Core.endTile_fixedRope (h : (k.tile n).mode = .fixedRope) :
    k.endTile n = { k with tiles := (k.endTile n).tiles } ∧
    ∀ m : Fin 16, ((k.endTile n).tiles[m]).mode = if m.val / 4 = n.val / 4 then .free else (k.tiles[m]).mode := by
  simp only [Core.endTile, h, true_and]
  intro m
  simp only [Fin.getElem_fin, Vector.getElem_mapFinIdx]
  split <;> rfl

end

/-! ### `acc.spill` (R137, R144, R247) -/

/-- A spill may not write its area: the tile keeps it in the ledge, in a read-only section (R191; log 152). -/
abbrev Core.spillBarred (k : Core) (n : Fin 16) : Prop :=
  (k.tile n).spillBase = false ∧ anyOverlap [((k.tile n).spillAddr.toNat, 0x20000)] k.readOnly = true

theorem Core.spillArea_eq (k : Core) (n : Fin 16) :
    k.spillArea n = if k.spillBarred n then .error (dataTrap 0xB) else .ok () := by
  simp only [Core.spillArea, Core.notReadOnly, need, Core.spillBarred]
  cases (k.tile n).spillBase <;> cases anyOverlap [((k.tile n).spillAddr.toNat, 0x20000)] k.readOnly <;> rfl

theorem effSpill_of_ne_standard {k : Core} {e : QEntry} (h : (k.tile (tileOf (fld e.w 39 4))).mode ≠ .standard) :
    effSpill k e = .error (dataTrap 0x8) := by
  simp [effSpill, checkSpill, need, h, bind, Except.bind]

theorem effSpill_of_no_steps {k : Core} {e : QEntry} (h : (k.tile (tileOf (fld e.w 39 4))).mode = .standard)
    (h0 : (k.tile (tileOf (fld e.w 39 4))).ssteps = 0) : effSpill k e = .ok k := by
  simp [effSpill, checkSpill, doSpill, need, h, h0, bind, Except.bind, pure, Except.pure]

theorem effSpill_of_steps {k : Core} {e : QEntry}
    (h : (k.tile (tileOf (fld e.w 39 4))).mode = .standard)
    (h0 : (k.tile (tileOf (fld e.w 39 4))).ssteps ≠ 0) : effSpill k e =
      if k.spillBarred (tileOf (fld e.w 39 4)) then .error (dataTrap 0xB) else .ok (k.spillStep (tileOf (fld e.w 39 4)) e) := by
  simp only [effSpill, checkSpill, doSpill, need, h, h0, Core.spillArea_eq, if_false, beq_self_eq_true, if_true]
  split <;> rfl

theorem tileFreeAndSpill : Claims.TileFreeAndSpill := by
  intro k e n t
  refine ⟨effFree_of_member, fun h => ?_, fun h => ?_, effSpill_of_steps, effSpill_of_no_steps, effSpill_of_ne_standard⟩
  · have hlive : k.tileLive n = true := by simp [Core.tileLive, show (k.tile n).mode = .standard from h]
    exact (effFree_of_live hlive).trans (congrArg _ (Core.endTile_standard h))
  · have hlive : k.tileLive n = true := by simp [Core.tileLive, show (k.tile n).mode = .fixedRope from h]
    obtain ⟨hframe, hmodes⟩ := Core.endTile_fixedRope h
    exact ⟨k.endTile n, effFree_of_live hlive, hmodes, by rw [hframe], by rw [hframe]⟩

/-! ### Doublewords written one after the other -/

theorem Memory.readLe_congr {m m' : Memory} {a n : Nat} (h : ∀ i, i < n → m.read8 (a + i) = m'.read8 (a + i)) :
    m.readLe a n = m'.readLe a n := by
  refine congrArg ofLe (List.map_congr_left fun i hi => ?_)
  exact h i (List.mem_range.mp hi)

theorem Memory.readLe_writeLe (m : Memory) (a n v : Nat) : (m.writeLe a n v).readLe a n = v % 256 ^ n := by
  rw [readLe, writeLe, readBytes_writeBytes _ _ _ _ (length_leBytes n v), ofLe_leBytes]

theorem Memory.read8_writeLe_outside {m : Memory} {a n v x : Nat} (h : x < a ∨ a + n ≤ x) : (m.writeLe a n v).read8 x = m.read8 x := by
  rw [writeLe, read8_writeBytes, length_leBytes, if_neg (by omega)]

/-- Value v i at 8 bytes per number from address a, for the numbers below n. -/
def Memory.storeDoubles (m : Memory) (a n : Nat) (v : Nat → Nat) : Memory :=
  (List.range n).foldl (fun m i => m.writeLe (a + 8 * i) 8 (v i)) m

section
variable (m : Memory) (a : Nat) (v : Nat → Nat)

theorem Memory.storeDoubles_succ (n : Nat) : m.storeDoubles a (n + 1) v = (m.storeDoubles a n v).writeLe (a + 8 * n) 8 (v n) := by
  simp [storeDoubles, List.range_succ]

theorem Memory.read8_storeDoubles_outside {n x : Nat} (h : x < a ∨ a + 8 * n ≤ x) : (m.storeDoubles a n v).read8 x = m.read8 x := by
  induction n with
  | zero => rfl
  | succ n ih => rw [storeDoubles_succ, read8_writeLe_outside (by omega), ih (by omega)]

theorem Memory.readLe_storeDoubles {n i : Nat} (h : i < n) : (m.storeDoubles a n v).readLe (a + 8 * i) 8 = v i % 2 ^ 64 := by
  induction n with
  | zero => omega
  | succ n ih =>
    rw [storeDoubles_succ]
    by_cases hi : i = n
    · rw [hi, readLe_writeLe, show 256 ^ 8 = 2 ^ 64 by decide]
    · rw [readLe_congr fun b hb => read8_writeLe_outside (by omega), ih (by omega)]

end

/-! ### The first background spill of a tile (R137) -/

/-- Element i of a spilled tile, as its spill area takes it. -/
def SpillJob.double (j : SpillJob) (i : Nat) : Nat := (fpConvert fp32 fp64 .rne false (KMap.get 0 j.elems i).toNat).1

theorem foldl_fst_only {α β γ : Type} (f : α → γ → α) (xs : List γ) (a : α) (b : β) :
    xs.foldl (fun (acc : α × β) x => (f acc.1 x, acc.2)) (a, b) = (xs.foldl f a, b) := by
  induction xs generalizing a with
  | nil => rfl
  | cons x xs ih => exact ih (f a x)

/-- The core once its first waiting spill, which is the first of that tile, has been stored. -/
def Core.firstSpilled (k : Core) (j : SpillJob) : Core :=
  ({ k with spills := k.spills.tail }.setTile j.tile { k.tile j.tile with spilled := true }).addFlags .acc 0

section
variable (k : Core) (j : SpillJob)

theorem Core.firstSpilled_spills : (k.firstSpilled j).spills = k.spills.tail := rfl

theorem Core.firstSpilled_tile : (k.firstSpilled j).tiles[j.tile] = { k.tiles[j.tile] with spilled := true } :=
  Core.tiles_setTile_self _ _

theorem Core.firstSpilled_ledge : (k.firstSpilled j).ledge = k.ledge := rfl
theorem Core.firstSpilled_stall : (k.firstSpilled j).stall = k.stall := rfl
theorem Core.firstSpilled_trapping : (k.firstSpilled j).trapping = k.trapping := rfl

end

theorem spillBackground_first {k : Core} {dev : Memory} {j : SpillJob} {rest : List SpillJob} (hj : k.spills = j :: rest)
    (hfirst : (k.tile j.tile).spilled = false) (hbase : (k.tile j.tile).spillBase = true) :
    spillBackground k dev = (k.firstSpilled j, dev.storeDoubles (k.tile j.tile).spillAddr.toNat 16384 j.double) := by
  have hfold := foldl_fst_only (fun (m : Memory) i => m.writeLe ((k.tile j.tile).spillAddr.toNat + 8 * i) 8 (j.double i))
    (List.range 16384) dev (0 : Flags)
  simp only [SpillJob.double] at hfold
  simp only [spillBackground, Core.firstSpilled, Memory.storeDoubles, SpillJob.double, hj, hfirst, hbase, hfold, List.tail_cons,
    Bool.false_eq_true, if_false, if_true]

/-- The spill area of a tile as device ranges, and as ledge ranges: one of the two is empty. -/
def Tile.deviceArea (t : Tile) : List (Nat × Nat) := if t.spillBase then [(t.spillAddr.toNat, 0x20000)] else []
def Tile.ledgeArea (t : Tile) : List (Nat × Nat) := if t.spillBase then [] else [(t.spillAddr.toNat, 0x20000)]

/-- The state after what the checks of a background spill met (R150, R151, R288): first the words of the spill area that are bad, where
the spill adds to them, then what the command observed. The second part tells whether the spill ended there. -/
def State.spillMet (s : State) (c : CoreId) (obs : List FaultObs) (repl : Option CoreId) (j : SpillJob) : State × Bool :=
  let t := (s.core c).tile j.tile
  s.coreObsAll c (j.entry (s.core c)) repl t.deviceArea
    ((if t.spilled then s.ctl.badObs t.deviceArea ++ (s.core c).badLedgeObs t.ledgeArea else []) ++ obs)

section
variable {s m : State} {c : CoreId} {obs : List FaultObs} {repl : Option CoreId} {j : SpillJob} {js : List SpillJob}

theorem exec_spillBackgroundDone (hj : (s.core c).spills = j :: js) :
    exec (.spillBackgroundDone ⟨c, obs, repl⟩) s = .next (match s.spillMet c obs repl j with
      | (m, true) => (m.setCore c { m.core c with spills := (m.core c).spills.drop 1 }).settle c
      | (m, false) =>
        let t0 := (s.core c).tile j.tile
        let r := spillBackground (m.core c) m.mem
        ((m.setCore c (r.1.wroteLedge t0.ledgeArea)).store r.2
          (if ((m.core c).tile j.tile).spilled then [] else t0.deviceArea)).settle c) := by
  have hexec : exec (.spillBackgroundDone ⟨c, obs, repl⟩) s = execSpillBackgroundDone ⟨c, obs, repl⟩ s := rfl
  rw [hexec, execSpillBackgroundDone]
  simp only [hj]
  rfl

theorem State.settle_of_running (htrap : (s.core c).trapping = none) (hstall : (s.core c).stall = none) : s.settle c = s := by
  simp only [State.settle, htrap, hstall]

theorem Ctl.copiesOf_baseCamp (x : Ctl) {r : Nat × Nat} (h : bcBase ≤ r.1) : x.copiesOf r = [] := if_pos h

theorem Core.wroteLedge_nil (k : Core) : k.wroteLedge [] = k := by
  have hkept : k.badLedge.filter (fun w => !wordIn [] w) = k.badLedge := List.filter_eq_self.mpr fun _ _ => rfl
  rw [Core.wroteLedge, hkept]

/-- The first spill of a tile into Base Camp, after checks that left state m: the core, device memory and the marks of bad words. -/
theorem exec_firstSpill {rest : List SpillJob} (hj : (s.core c).spills = j :: js) : let t0 := (s.core c).tile j.tile
    s.spillMet c obs repl j = (m, false) →
    (m.core c).spills = j :: rest → (m.core c).tile j.tile = t0 → t0.spilled = false → t0.spillBase = true →
    (m.core c).stall = none → (m.core c).trapping = none → bcBase ≤ t0.spillAddr.toNat →
    ∃ t, exec (.spillBackgroundDone ⟨c, obs, repl⟩) s = .next t ∧ t.core c = (m.core c).firstSpilled j ∧
      t.mem = m.mem.storeDoubles t0.spillAddr.toNat 16384 j.double ∧
      t.ctl = { m.ctl with bad := m.ctl.bad.filter fun w => !wordIn [(t0.spillAddr.toNat, 0x20000)] w } := by
  intro t0 hmet hrest htile hfirst hbase hstall htrap hbc
  let t := (m.setCore c ((m.core c).firstSpilled j)).store (m.mem.storeDoubles t0.spillAddr.toNat 16384 j.double)
    [(t0.spillAddr.toNat, 0x20000)]
  have hcore : t.core c = (m.core c).firstSpilled j := State.core_setCore _ _ _
  have hsettle : t.settle c = t :=
    State.settle_of_running (by rw [hcore, Core.firstSpilled_trapping, htrap]) (by rw [hcore, Core.firstSpilled_stall, hstall])
  have hdev : t0.deviceArea = [(t0.spillAddr.toNat, 0x20000)] := if_pos hbase
  have hown : t0.ledgeArea = [] := if_pos hbase
  have hback := spillBackground_first (dev := m.mem) hrest (htile ▸ hfirst) (htile ▸ hbase)
  refine ⟨t, ?_, hcore, State.store_mem_of_no_copies _ _ _ (by simp [Ctl.copiesOf_baseCamp, hbc]), rfl⟩
  have hnot : ¬ ((m.core c).tile j.tile).spilled = true := by simp [htile, hfirst]
  rw [exec_spillBackgroundDone hj, hmet]
  dsimp only
  rw [if_neg hnot, hback, htile, hdev, hown, Core.wroteLedge_nil]
  dsimp only
  exact congrArg _ hsettle

end

theorem firstSpillStoresElements : Claims.FirstSpillStoresElements := by
  intro c s obs repl j js hj t0 rs own met m k
  refine ⟨fun hend => ?_, ?_⟩
  · rw [exec_spillBackgroundDone hj, show s.spillMet c obs repl j = (m, true) from Prod.ext rfl hend]
  · intro hend rest hrest htile hfirst hbase hstall htrap a hbc
    have hmet : s.spillMet c obs repl j = (m, false) := Prod.ext rfl hend
    obtain ⟨t, hexec, hcore, hmem, hctl⟩ := exec_firstSpill hj hmet hrest htile hfirst hbase hstall htrap hbc
    change t.core c = k.firstSpilled j at hcore
    refine ⟨t, hexec, ?_, ?_, fun x hx => ?_, fun i hi => ?_, ?_, hctl⟩
    · rw [hcore, Core.firstSpilled_spills, hrest, List.tail_cons]
    · rw [hcore, Core.firstSpilled_tile]
    · rw [hmem]
      exact Memory.read8_storeDoubles_outside _ _ _ hx
    · rw [hmem]
      exact Memory.readLe_storeDoubles _ _ _ hi
    · rw [hcore, Core.firstSpilled_ledge]

/-- Settles O28, of two parts: the background spill, by the state that `exec_firstSpill` names, and the two instructions. -/
theorem tileFreeSpillAndBackground : Obligations.TileFreeSpillAndBackground := ⟨firstSpillStoresElements, tileFreeAndSpill⟩

end Sys2Proof.Machine
end

section
/-! PROOFS. Gybel words (08 R213 to R217): a word that is put together from MAJOR, MINOR and operand bits has these as its fields,
and every word is put together from its own; so decoding and encoding are inverse to each other. -/
namespace Sys2Proof

/-! ### The three fields of a word -/

theorem gWord_minor (a b : Nat) (w : GWord) : (gWord a b w).extractLsb' 53 5 = BitVec.ofNat 5 b :=
  (BitVec.extractLsb'_append_eq_of_le (Nat.le_refl 53)).trans BitVec.extractLsb'_append_eq_right

theorem gWord_operands (a b : Nat) (w : GWord) : (gWord a b w).extractLsb' 0 53 = w := BitVec.extractLsb'_append_eq_right

/-- No bit of a word lies outside its three fields. -/
theorem gWord_of_fields {x : Word} {a b : Nat} (ha : (x.extractLsb' 58 6).toNat = a) (hb : (x.extractLsb' 53 5).toNat = b) :
    gWord a b (x.extractLsb' 0 53) = x := by
  subst ha hb
  calc gWord (x.extractLsb' 58 6).toNat (x.extractLsb' 53 5).toNat (x.extractLsb' 0 53)
      = x.extractLsb' 58 6 ++ x.extractLsb' 53 5 ++ x.extractLsb' 0 53 := by simp only [gWord, BitVec.ofNat_toNat, BitVec.setWidth_eq]
    _ = x.extractLsb' 53 11 ++ x.extractLsb' 0 53 :=
        congrArg (· ++ x.extractLsb' 0 53) (BitVec.extractLsb'_append_extractLsb'_eq_extractLsb' rfl)
    _ = x.extractLsb' 0 64 := BitVec.extractLsb'_append_extractLsb'_eq_extractLsb' rfl
    _ = x := BitVec.extractLsb'_eq_self

/-! ### The two directions -/

/-- Row by row of `encodeGybel`: the fields of the row's word select the same row of `decodeGybel`. -/
theorem gybelDecodeOfEncode : Claims.GybelDecodeOfEncode := by
  intro i x h
  unfold encodeGybel at h
  split at h
  all_goals cases h
  all_goals
    refine ⟨‹CoreId›, ?_⟩
    rw [decodeGybel, Laws.Encoding.gWord_major, gWord_minor, gWord_operands]
    rfl

/-- Row by row of `decodeGybel`: the row fixes MAJOR and MINOR, and the command carries the remaining bits. -/
theorem gybelEncodeOfDecode : Claims.GybelEncodeOfDecode := by
  intro c x i h
  unfold decodeGybel at h
  dsimp only at h
  split at h
  all_goals cases h
  all_goals
    exact congrArg some (gWord_of_fields ‹(x.extractLsb' 58 6).toNat = _› ‹(x.extractLsb' 53 5).toNat = _›)

/-- Settles O2, of two parts: a word's fields select the row it was encoded by, and no bit lies outside them. -/
theorem gybelRoundTrip : Obligations.GybelRoundTrip := ⟨gybelDecodeOfEncode, gybelEncodeOfDecode⟩

/-- Settles O3: each word is a numeral, so its fields and the row of `decodeGybel` that they select are computed. -/
theorem gybelWordsDecode : Obligations.GybelWordsDecode := fun _ => ⟨rfl, rfl, rfl, rfl, rfl, rfl, rfl⟩

end Sys2Proof
end

section
/-! PROOFS. The probe hooks `chk.probe` and `chk.inject` (08 R235, R236). -/
namespace Sys2Proof.Machine
open Sys2Proof.Claims

/-- A scalar instruction that a core takes, with no reserved field set, changes that core alone, by its own action. -/
theorem State.issueCore_only {s : State} {c : CoreId} {w : GWord} {legal : Bool} {act : Core → Except TrapC Core} {k : Core}
    (ht : Takes (s.core c) w) (hs : scalarSig w = true) (hl : legal = true) (ha : act (s.core c).next = .ok k) :
    Host.Outcome.next (s.issueCore c w legal act) = only s c k := by
  obtain ⟨hi, hx, hp⟩ := ht
  rw [only_eq_setCore, State.issueCore_acts hi hx hs hl hp ha]

/-! ### `chk.probe` (R235) -/

/-- What `chk.probe` writes: bit 32 and the number of the probe run that runs the program, or 0. -/
def Core.probeWord (k : Core) : Word :=
  match k.prog.bind (·.probe) with
  | some n => 1#32 ++ n
  | none => 0

theorem Core.probeWord_of_run {k : Core} {p : Prog} {n : BitVec 32} (hp : k.prog = some p) (hn : p.probe = some n) :
    k.probeWord = BitVec.ofNat 64 (2 ^ 32 + n.toNat) := by
  have hword : k.probeWord = 1#32 ++ n := by simp [probeWord, hp, hn]
  have hlt := n.isLt
  apply BitVec.eq_of_toNat_eq
  rw [hword, BitVec.toNat_append, ← Nat.shiftLeft_add_eq_or_of_lt hlt, BitVec.toNat_ofNat, BitVec.toNat_ofNat]
  omega

theorem Core.probeWord_of_command {k : Core} {p : Prog} (hp : k.prog = some p) (hn : p.probe = none) : k.probeWord = 0 := by
  simp [probeWord, hp, hn]

theorem exec_chkProbe {s : State} {c : CoreId} {w : GWord} (ht : Takes (s.core c) w) (hs : scalarSig w = true)
    (hz : zeroAt w 0 38 = true) :
    exec (.chkProbe c w) s = only s c (wrote (s.core c) (fld w 38 5) (s.core c).probeWord) := by
  rw [wrote_eq_wg]
  exact State.issueCore_only ht hs hz rfl

/-! ### `chk.inject` (R236) -/

theorem State.mayInject_next (s : State) (k : Core) (n : BitVec 2) : s.mayInject k.next n = s.mayInject k n := rfl

theorem exec_chkInject {s : State} {c : CoreId} {w : GWord} (ht : Takes (s.core c) w) (hs : scalarSig w = true)
    (hz : zeroAt w 0 33 = true) (hk : zeroAt w 37 1 = true) (hn : fld w 33 2 ≠ 0) :
    exec (.chkInject c w) s = if s.mayInject (s.core c) (fld w 33 2) then
      only s c { wrote (s.core c) (fld w 38 5) 1 with
        armed := (s.core c).armed.set (fld w 35 2).toNat (fld w 33 2) (fld w 35 2).isLt }
    else only s c (wrote (s.core c) (fld w 38 5) 0) := by
  have hl : (zeroAt w 0 33 && zeroAt w 37 1 && fld w 33 2 != 0) = true := by
    rw [hz, hk, bne_iff_ne.mpr hn]
    rfl
  have hnext := s.mayInject_next (s.core c) (fld w 33 2)
  cases hm : s.mayInject (s.core c) (fld w 33 2) with
  | true =>
    refine State.issueCore_only ht hs hl ((if_pos (hnext.trans hm)).trans (congrArg Except.ok ?_))
    unfold Core.wg wrote
    split <;> rfl
  | false =>
    refine State.issueCore_only ht hs hl ((if_neg (ne_true_of_eq_false (hnext.trans hm))).trans (congrArg Except.ok ?_))
    exact (wrote_eq_wg _ _ _).symm

/-- Settles O17: both hooks act at issue, `chk.probe` by `Core.probeWord`, `chk.inject` by `State.mayInject`. -/
theorem probeHooks : Obligations.ProbeHooks := by
  intro c w s ht hs k
  refine ⟨fun hz => ⟨fun p n hp hn => ?_, fun p hp hn => ?_⟩, exec_chkInject ht hs⟩
  · rw [exec_chkProbe ht hs hz, Core.probeWord_of_run hp hn]
  · rw [exec_chkProbe ht hs hz, Core.probeWord_of_command hp hn]

end Sys2Proof.Machine
end

section
/-! PROOFS. Data transfer of a host (11 R299; 15 R399, R415, R416; 16 R429): the bytes that a write and the copies of its anchored
pages leave, what a DATA_WRITE and a DATA_READ do once their checks have passed, and what one that fails a check leaves alone. -/
namespace Sys2Proof.Machine
open Sys2Proof.Claims

/-! ### A write and the copies that follow it (R299) -/

/-- Copies made one after the other; each is given by address, address of the copy, and length. -/
def Memory.copyRanges (m : Memory) (cs : List (Nat × Nat × Nat)) : Memory :=
  cs.foldl (fun m x => m.writeBytes x.2.1 (m.readBytes x.1 x.2.2)) m

theorem State.store_mem (s : State) (m : Memory) (r : Nat × Nat) : (s.store m [r]).mem = m.copyRanges (s.ctl.copiesOf r) := by
  rw [store, wrote, Memory.copyRanges, List.flatMap_singleton]

theorem Memory.read8_writeBytes_outside {m : Memory} {a x : Nat} {bs : List Byte} (h : x < a ∨ a + bs.length ≤ x) :
    (m.writeBytes a bs).read8 x = m.read8 x := by
  rw [read8_writeBytes, if_neg (by omega)]

theorem Memory.read8_writeBytes_inside {m : Memory} {a i : Nat} {bs : List Byte} (h : i < bs.length) :
    (m.writeBytes a bs).read8 (a + i) = bs.getD i 0 := by
  rw [read8_writeBytes, if_pos (by omega), Nat.add_sub_cancel_left]

theorem Memory.length_readBytes (m : Memory) (a n : Nat) : (m.readBytes a n).length = n := by
  rw [readBytes, KMap.getMany, List.length_map, List.length_range]

theorem Memory.read8_copyRanges_outside {cs : List (Nat × Nat × Nat)} {a : Nat} :
    ∀ {m : Memory}, (∀ x ∈ cs, a < x.2.1 ∨ x.2.1 + x.2.2 ≤ a) → (m.copyRanges cs).read8 a = m.read8 a := by
  induction cs with
  | nil => exact fun _ => rfl
  | cons x cs ih =>
    intro m h
    obtain ⟨hx, hcs⟩ := List.forall_mem_cons.mp h
    exact (ih hcs).trans (read8_writeBytes_outside (by rwa [length_readBytes]))

/-! ### What the checks of a transfer read of the state in which its effect begins -/

section
variable (s : State) (h : MsgHdr) (slot : Nat) (ses : Session)

theorem base_mayName (job : Nat) : (base s h slot ses).ctl.mayName (noted ses h) job = s.ctl.mayName ses job := by
  rw [Ctl.mayName, noted_admin, Ctl.ownsJob, noted_id]
  obtain ⟨ports, sessions, e⟩ := base_eq s h slot ses
  rw [e]
  rfl

theorem base_deadRange (a : Nat) : (base s h slot ses).ctl.deadRange a = s.ctl.deadRange a := by
  obtain ⟨ports, sessions, e⟩ := base_eq s h slot ses
  rw [e]
  rfl

theorem base_keySlotJob (job : BitVec 16) : (base s h slot ses).ctl.keySlotJob job = s.ctl.keySlotJob job := by
  rw [Ctl.keySlotJob, base_sec, Ctl.keySlotJob]

theorem base_badObs (rs : List (Nat × Nat)) : (base s h slot ses).ctl.badObs rs = s.ctl.badObs rs := by
  obtain ⟨ports, sessions, e⟩ := base_eq s h slot ses
  rw [e]
  rfl

end

/-- A message that fails a check of its body is counted, and does nothing else (R399). -/
theorem State.recv_refuses {s : State} {h : MsgHdr} {slot : Nat} {ses : Session} {ok : Ctl → Session → Bool}
    {act : Nat → Session → State → State} (hd : Heard s h slot ses) (hp : Passes s h) (hok : ok s.ctl ses = false) :
    s.recv h false ok act = (s.mapCtl fun c => c.notePn h).malformed := by
  obtain ⟨hlisten, hframe, hses, hzero, hver⟩ := hd
  have hpass : s.ctl.passes h = true := hp
  simp [recv, hlisten, hframe, hpass, hses, hok]

/-! ### Answers on any port of a network (R411) -/

section
variable (s : State) (h : MsgHdr) (f : MsgHdr → Output)

theorem State.answerBy_reached {p : HPort} (hr : s.ctl.reachPort h.port h.srcMac = some p) :
    s.answerBy h f = s.reply { h with port := p } f := by
  rw [answerBy, hr]

theorem State.answerBy_unreached (hr : s.ctl.reachPort h.port h.srcMac = none) : s.answerBy h f = s := by
  rw [answerBy, hr]

theorem State.answerBy_frame : (s.answerBy h f).mem = s.mem ∧ (s.answerBy h f).cores = s.cores ∧
    (s.answerBy h f).ctl.regs = s.ctl.regs := by
  cases hr : s.ctl.reachPort h.port h.srcMac with
  | none => rw [s.answerBy_unreached h f hr]; exact ⟨rfl, rfl, rfl⟩
  | some p => rw [s.answerBy_reached h f hr]; exact ⟨reply_mem .., reply_cores .., reply_regs ..⟩

theorem State.answerBy_out {p : HPort} (hr : s.ctl.reachPort h.port h.srcMac = some p) :
    ∃ g, Echoes g h p ∧ (s.answerBy h f).out.head? = some (f g) := by
  rw [s.answerBy_reached h f hr]
  exact s.reply_out { h with port := p } f

end

/-! ### Transfers that pass their checks (R415, R416) -/

theorem exec_dataWrite (h : MsgHdr) (addr : BitVec 64) (data : List Byte) (obs : List FaultObs) (s : State) :
    exec (.dataWrite h addr data obs) s = execDataWrite h addr data obs s := rfl

theorem exec_dataRead (h : MsgHdr) (addr : BitVec 64) (len rsvd : BitVec 32) (obs : List FaultObs) (s : State) :
    exec (.dataRead h addr len rsvd obs) s = execDataRead h addr len rsvd obs s := rfl

/-- Memory has taken the bytes of a DATA_WRITE and the copies of its anchored pages. -/
def State.stored (s : State) (addr : BitVec 64) (data : List Byte) : State :=
  s.store (s.mem.writeBytes addr.toNat data) [(addr.toNat, data.length)]

section
variable {s : State} {h : MsgHdr} {slot : Nat} {ses : Session} {addr : BitVec 64}
variable (hd : Heard s h slot ses) (hp : Passes s h) (hjob : ActsForJob s h ses) (hdead : s.ctl.deadRange addr.toNat = false)
include hd hp hjob hdead

theorem exec_dataWrite_accepted {data : List Byte} {obs : List FaultObs} (hplain : plainHdr h (8 + data.length) = true)
    (hok : s.ctl.dataOk ses h addr data.length = true) (hmet : ((base s h slot ses).hostObsAll true obs).2 = false) :
    exec (.dataWrite h addr data obs) s =
      .next ((((base s h slot ses).hostObsAll true obs).1.stored addr data).ack0 h) := by
  obtain ⟨hadm, hname, hret⟩ := hjob
  rw [exec_dataWrite, execDataWrite, State.recv_acts hd (.inr hp) (Bool.and_eq_true_iff.mpr ⟨hplain, hok⟩)]
  simp [admittedSes, hadm, base_mayName, hname, hret, base_deadRange, hdead, hmet, State.stored]

theorem exec_dataRead_accepted {len : BitVec 32} {obs : List FaultObs} (hplain : plainHdr h 16 = true)
    (hok : s.ctl.dataOk ses h addr len.toNat = true) (hseal : s.ctl.dev.sealed = false ∨ s.ctl.keySlotJob h.job = false)
    (hmet : ((base s h slot ses).hostObsAll false (s.ctl.badObs [(addr.toNat, len.toNat)] ++ obs)).2 = false) :
    let r := ((base s h slot ses).hostObsAll false (s.ctl.badObs [(addr.toNat, len.toNat)] ++ obs)).1
    exec (.dataRead h addr len 0 obs) s =
      .next (r.reply h fun g => .dataResp g stOK addr (r.mem.readBytes addr.toNat len.toNat)) := by
  obtain ⟨hadm, hname, hret⟩ := hjob
  have hopen : (s.ctl.dev.sealed && s.ctl.keySlotJob h.job) = false := Bool.and_eq_false_iff.mpr hseal
  rw [exec_dataRead, execDataRead, State.recv_acts hd (.inr hp) (by rw [hplain, hok]; rfl)]
  simp [admittedSes, hadm, base_mayName, hname, hret, base_keySlotJob, hopen, base_deadRange, hdead, base_badObs, hmet]

end

section
variable {s : State} {addr : BitVec 64} {data : List Byte}

theorem State.stored_read8_inside (hcs : ∀ x ∈ s.ctl.copiesOf (addr.toNat, data.length),
    x.2.1 + x.2.2 ≤ addr.toNat ∨ addr.toNat + data.length ≤ x.2.1) {i : Nat} (hi : i < data.length) :
    (s.stored addr data).mem.read8 (addr.toNat + i) = data.getD i 0 := by
  have haway : ∀ x ∈ s.ctl.copiesOf (addr.toNat, data.length), addr.toNat + i < x.2.1 ∨ x.2.1 + x.2.2 ≤ addr.toNat + i :=
    fun x hx => by have := hcs x hx; omega
  rw [stored, store_mem, Memory.read8_copyRanges_outside haway, Memory.read8_writeBytes_inside hi]

theorem State.stored_read8_outside {a : Nat} (ha : a < addr.toNat ∨ addr.toNat + data.length ≤ a)
    (hcs : ∀ x ∈ s.ctl.copiesOf (addr.toNat, data.length), a < x.2.1 ∨ x.2.1 + x.2.2 ≤ a) :
    (s.stored addr data).mem.read8 a = s.mem.read8 a := by
  rw [stored, store_mem, Memory.read8_copyRanges_outside hcs, Memory.read8_writeBytes_outside ha]

theorem State.stored_cores : (s.stored addr data).cores = s.cores := store_cores ..

theorem State.stored_regs : (s.stored addr data).ctl.regs = s.ctl.regs := store_ctl_regs ..

theorem State.stored_reachPort (p : HPort) (mac : MacAddr) : (s.stored addr data).ctl.reachPort p mac = s.ctl.reachPort p mac := rfl

end

theorem dataTransfer : Claims.DataTransfer := by
  intro h addr s slot ses hd hp hjob hdead s1
  refine ⟨?_, fun len obs hplain hok hseal => exec_dataRead_accepted hd hp hjob hdead hplain hok hseal⟩
  intro data obs hplain hok hmet cs outside
  let t := (s1.hostObsAll true obs).1.stored addr data
  obtain ⟨hmem, hcores, hregs⟩ := t.answerBy_frame h fun g => .ack g stOK 0 0 0
  have hout : ∀ a, outside a → (t.ack0 h).mem.read8 a = (s1.hostObsAll true obs).1.mem.read8 a := by
    intro a ⟨ha, hcs⟩
    rw [State.ack0, hmem, State.stored_read8_outside ha hcs]
  refine ⟨t.ack0 h, exec_dataWrite_accepted hd hp hjob hdead hplain hok hmet, fun hcs i hi => ?_, hout, ?_⟩
  · rw [State.ack0, hmem, State.stored_read8_inside hcs hi]
  · rintro rfl
    refine ⟨hout, ?_, ?_, fun p hreach => ?_⟩
    · exact hcores.trans State.stored_cores
    · exact hregs.trans (State.stored_regs.trans (base_regs ..))
    · exact t.answerBy_out h _ ((State.stored_reachPort ..).trans ((base_reachPort ..).trans hreach))

/-! ### Transfers that fail a check (R399, R415, R429) -/

section
variable {s : State} {h : MsgHdr} {slot : Nat} {ses : Session} {addr : BitVec 64} {data : List Byte} {obs : List FaultObs}
variable (hd : Heard s h slot ses) (hp : Passes s h)
include hd hp

theorem exec_dataWrite_malformed
    (hok : (plainHdr h (8 + data.length) && s.ctl.dataOk ses h addr data.length) = false) :
    exec (.dataWrite h addr data obs) s = .next (s.mapCtl fun c => c.notePn h).malformed := by
  rw [exec_dataWrite, execDataWrite, State.recv_refuses hd hp hok]

/-- A well-formed DATA_WRITE of a session that may not act for the job, or in RETREAT, is answered and does nothing else. -/
theorem exec_dataWrite_nack
    (hok : (plainHdr h (8 + data.length) && s.ctl.dataOk ses h addr data.length) = true)
    (hno : ses.state ≠ .admitted ∨ s.ctl.mayName ses h.job.toNat = false ∨ s.ctl.dev.dstate = .retreat) :
    ∃ st, exec (.dataWrite h addr data obs) s = .next ((base s h slot ses).nack0 h st) := by
  rw [exec_dataWrite, execDataWrite, State.recv_acts hd (.inr hp) hok]
  simp only [base_mayName, base_dev]
  by_cases hact : (admittedSes (noted ses h) && s.ctl.mayName ses h.job.toNat) = true
  · have hret : s.ctl.dev.dstate = .retreat := by
      obtain ⟨hadm, hname⟩ : ses.state = .admitted ∧ s.ctl.mayName ses h.job.toNat = true := by simpa [admittedSes] using hact
      exact (hno.resolve_left (not_not_intro hadm)).resolve_left (ne_false_of_eq_true hname)
    exact ⟨stPOWER_RETREAT, by simp [hact, hret]⟩
  · exact ⟨stNOT_ADMITTED, by simp [hact]⟩

end

theorem dataTransferIsConfined : Claims.DataTransferIsConfined := by
  intro h addr data s slot ses hd hp hno
  cases hok : plainHdr h (8 + data.length) && s.ctl.dataOk ses h addr data.length with
  | false =>
    exact ⟨_, exec_dataWrite_malformed hd hp hok, State.mapCtl_mem .., State.mapCtl_cores ..⟩
  | true =>
    have hregion : s.ctl.inOneRegion h.job.toNat addr.toNat data.length = true := by
      simp only [Ctl.dataOk, Bool.and_eq_true] at hok
      exact hok.2.2
    obtain ⟨st, hexec⟩ := exec_dataWrite_nack hd hp hok (obs := []) (by simpa [hregion] using hno)
    obtain ⟨hmem, hcores, -⟩ := (base s h slot ses).answerBy_frame h fun g => .nack g st 0
    exact ⟨_, hexec, hmem.trans (base_mem ..), hcores.trans (base_cores ..)⟩

/-- Settles O36: an accepted transfer by the state that each message leaves, a refused one by what its answer leaves alone. -/
theorem dataMovesInItsJob : Obligations.DataMovesInItsJob := ⟨dataTransfer, dataTransferIsConfined⟩

end Sys2Proof.Machine
end
